-- ==== Sys2Proof/Word.lean ====
section
/-! DEFINITION. The words of the part and their plainest arithmetic. -/

namespace Sys2Proof

/-- A byte of buffer memory. -/
abbrev Byte := BitVec 8

/-- A register of the processor port: 32 bits (R159). -/
abbrev Word := BitVec 32

/-- A ticket; tickets count modulo 65,536 (00_scope 3.2). -/
abbrev Ticket := BitVec 16

/-- A value of the timebase, in milliseconds modulo 2 to the power 32 (00_scope 2.6). -/
abbrev Time := BitVec 32

/-- Buffer memory is 1 GiB (00_scope 2.1). -/
abbrev memoryBytes : Nat := 1073741824

/-- The length of the exchange area (00_scope 2.1). -/
abbrev exchangeBytes : Nat := 8192

/-- The length of a frame of the bundle store (00_scope 2.1). -/
abbrev frameBytes : Nat := 1114112

/-- The data bytes of a row (R40). -/
abbrev rowBytes : Nat := 16384

/-- Rows 0 and 1 of a frame: the header and index. -/
abbrev headerBytes : Nat := 32768

/-- Where the work area of a frame begins. -/
abbrev workOffset : Nat := 1081344

/-- The payload of a bundle, in stored bytes (R11). -/
abbrev payloadBytes : Nat := 1048576

/-- The longest chunk, in raw bytes (R1). -/
abbrev chunkBytes : Nat := 32768

/-- The index of a bundle holds at most this many entries (R11). -/
abbrev indexEntries : Nat := 1024

/-- The history and the window reach this far back (R5). -/
abbrev historyBytes : Nat := 8192

/-- The limit at which 32-bit counters saturate (R197). -/
abbrev maxWord : Nat := 4294967295

end Sys2Proof
end

