-- ==== Sys2Proof/Syntax.lean ====
section
/-! DEFINITION. The commands of the part, one constructor per row of spec/opcode_table.json, and the
things a command carries: rows met on tape, cartridge memory contents, sensor readings. -/

namespace Sys2Proof

/-- How many bytes a window access moves: 1 to 4 (R26). -/
inductive AccessLen where
  | one | two | three | four
  deriving DecidableEq, Repr

/-- The number of bytes of an access. -/
def AccessLen.bytes : AccessLen → Nat
  | .one => 1 | .two => 2 | .three => 3 | .four => 4

/-- The seal causes (R16), in the order of R15. -/
inductive SealCause where
  | full | index | sync | flush | idle | drain
  deriving DecidableEq, Repr

/-- The kind of an index entry (R13). -/
inductive EntryKind where
  | data | mark
  deriving DecidableEq, Repr

/-- The form in which a chunk is stored (R10). -/
inductive ChunkForm where
  | packed | plain
  deriving DecidableEq, Repr

/-- One entry of a bundle's index (R13). The chunk fields mean nothing for a MARK entry. -/
structure IndexEntry where
  kind      : EntryKind
  object    : Nat
  first     : Bool
  last      : Bool
  form      : ChunkForm
  rawLen    : Nat
  storedLen : Nat
  deriving DecidableEq, Repr

/-- A bundle header (R15). In a frame the copy number is 0 and the wrap absent (R41). -/
structure BundleHeader where
  bundle      : Nat
  copy        : Nat
  identity    : Option (BitVec 64)
  firstObject : Nat
  entryCount  : Nat
  payloadUsed : Nat
  cause       : SealCause
  wrap        : Option Nat
  deriving DecidableEq, Repr

/-- The identification that each row carries on tape (R41). -/
structure RowIdent where
  identity : Option (BitVec 64)
  bundle   : Nat
  copy     : Nat
  row      : Nat
  wrap     : Option Nat
  deriving DecidableEq, Repr

/-- A row as it lies on tape: its identification, its 16,384 data bytes, and, on rows 0 and 1, the
header and the index as named fields (00_scope 1.6 gives them no byte layout). -/
structure TapeRow where
  ident  : RowIdent
  header : Option BundleHeader
  index  : Option (List IndexEntry)
  data   : List Byte
  deriving DecidableEq, Repr

/-- The outcome a read head reports for a row time (R63). -/
inductive HeadOutcome where
  | found (e : BitVec 8) (row : TapeRow)
  | unreadable
  | absent
  deriving DecidableEq, Repr

/-- A verify result (R48). -/
inductive VerifyOutcome where
  | found (e : BitVec 8)
  | notFound
  deriving DecidableEq, Repr

/-- Cartridge types (chapter 7, section 7.1). -/
inductive CartType where
  | data | appendOnly | cleaning
  deriving DecidableEq, Repr

/-- The geometry of a cartridge's tape: wrap count, wrap length, early-warning margin. -/
structure Geometry where
  wraps  : Nat
  length : Nat
  margin : Nat
  deriving DecidableEq, Repr

/-- The optional part of a wrap directory entry (R133). An absent mark count is UNKNOWN. -/
structure DirPart where
  firstBundle : Nat
  bundleCount : Nat
  firstObject : Nat
  objectCount : Nat
  markCount   : Option Nat
  rowTimes    : Nat
  deriving DecidableEq, Repr

/-- One entry of the wrap directory (R133). -/
structure DirEntry where
  wrap : Nat
  part : Option DirPart
  deriving DecidableEq, Repr

/-- The EOD record of cartridge memory: EOD bundle, EOD object and end position. -/
structure EodRecord where
  eodBundle : Nat
  eodObject : Nat
  endWrap   : Nat
  endIndex  : Nat
  deriving DecidableEq, Repr

/-- The contents of cartridge memory (section 7.4). `none` as type is a value that is none of the three. -/
structure CmContents where
  identity  : BitVec 64
  type      : Option CartType
  geometry  : Geometry
  loadCount : Nat
  dirty     : Bool
  eod       : EodRecord
  directory : List DirEntry
  passesUsed     : Nat
  passLimit      : Nat
  cleaningLength : Nat
  deriving DecidableEq, Repr

/-- What the cartridge answers within 50 ms (R127): the contents, with whether the check word agrees, or an
acknowledgement that fields were stored. -/
inductive CmReply where
  | contents (c : CmContents) (checkAgrees : Bool)
  | stored
  deriving DecidableEq, Repr

/-- The sensors as a hard reset finds them (R83). -/
structure Sensors where
  present  : Bool
  home     : Bool
  attached : Bool
  tab      : Bool
  deriving DecidableEq, Repr

/-- The commands, in the order of spec/opcode_table.json. -/
inductive Instr where
  /-- POWER_ON_RESET (R176); the sensors give the motion state (R83). -/
  | powerOnReset (sensors : Sensors)
  /-- HARD_RESET (R176): code 2 written to RESET. -/
  | hardReset (sensors : Sensors)
  /-- SOFT_RESET (R177): code 1 written to RESET. -/
  | softReset
  /-- REGISTER_WRITE_IGNORED (R159). -/
  | registerWriteIgnored (addr : Word) (len : AccessLen) (value : Word)
  /-- BINDING (R161): a write to EXBASE. -/
  | binding (value : Word)
  /-- SETUP_RECORD_READ (R162). -/
  | setupRecordRead
  /-- POST (R166). -/
  | post (value : Word)
  /-- QUIET_TIMER_EXPIRY (R172). -/
  | quietTimerExpiry
  /-- COND (R173): a write to COND. -/
  | cond (value : Word)
  /-- ABORT (R170). -/
  | abort (value : Word)
  /-- WINDOW_ACCESS (R26): a read, or a write of the low bytes of a value. -/
  | windowAccess (addr : Word) (len : AccessLen) (write : Option Word)
  /-- BURST_DONE (R38). -/
  | burstDone
  /-- WRITE (R184). -/
  | write
  /-- MARK (R2). -/
  | mark
  /-- FLUSH (R186). -/
  | flush
  /-- READ (R187). -/
  | read
  /-- SPACE (R190). -/
  | space
  /-- LOCATE (R189). -/
  | locate
  /-- REWIND (R191). -/
  | rewind
  /-- LOAD (R192). -/
  | load
  /-- UNLOAD (R193). -/
  | unload
  /-- TUNE (R194). -/
  | tune
  /-- REPORT (R196). -/
  | report
  /-- CHECK (R199). -/
  | check
  /-- CHUNK_COMMIT (R11). -/
  | chunkCommit
  /-- IDLE_TIMER_EXPIRY (R17). -/
  | idleTimerExpiry
  /-- ROW_TIME_BOUNDARY (R94). -/
  | rowTimeBoundary
  /-- VERIFY_RESULT (R48). -/
  | verifyResult (result : VerifyOutcome)
  /-- READ_HEAD_OUTCOME (R63): what heads report in the row time in hand; a channel that reports nothing found need not
  be listed, and the channels of a row time may come in several commands. -/
  | readHeadOutcome (heads : List (Fin 16 × HeadOutcome))
  /-- BLANK_RUN_LIMIT (R72). -/
  | blankRunLimit
  /-- DECODE_ENTRY (R75). -/
  | decodeEntry
  /-- SERVO_FRAME (R91). -/
  | servoFrame (inTolerance : Bool)
  /-- LOCK_LIMIT_TIMER_EXPIRY (R92). -/
  | lockLimitTimerExpiry
  /-- CARTRIDGE_SEATED (R83), with the write-protect tab sensed. -/
  | cartridgeSeated (tab : Bool)
  /-- CARTRIDGE_REMOVED (R83). -/
  | cartridgeRemoved
  /-- LEADER_CAPTURED (R84). -/
  | leaderCaptured
  /-- CAPTURE_TIMER_EXPIRY (R84). -/
  | captureTimerExpiry
  /-- LEADER_ATTACHED (R85). -/
  | leaderAttached
  /-- PATH_TIMER_EXPIRY (R86). -/
  | pathTimerExpiry
  /-- WORKING_TENSION (R85), with the geometry word recorded at BOT (R130). -/
  | workingTension (geometry : Geometry)
  /-- LEADER_HOME (R107). -/
  | leaderHome
  /-- UNTHREAD_TIMER_EXPIRY (R107). -/
  | unthreadTimerExpiry
  /-- TENSION_FAULT (R88). -/
  | tensionFault
  /-- DWELL_TIMER_EXPIRY (R90). -/
  | dwellTimerExpiry
  /-- TAPE_AT_REST (R97). -/
  | tapeAtRest
  /-- RUN_UP_POINT_REACHED (R97). -/
  | runUpPointReached
  /-- TRAVEL_ARRIVAL (R103). -/
  | travelArrival
  /-- TURN_DONE (R99). -/
  | turnDone
  /-- BOT_SENSOR (R108). -/
  | botSensor
  /-- CM_ANSWER (R127). -/
  | cmAnswer (reply : CmReply)
  /-- CM_ATTEMPT_TIMEOUT (R127). -/
  | cmAttemptTimeout
  /-- MOTION_SECOND (R109). -/
  | motionSecond
  deriving DecidableEq, Repr

end Sys2Proof
end

