-- ==== Sys2Proof/Decode.lean ====
section
/-! DEFINITION. The part is a block: opcode_table.json gives its rows no bits, so no word spells a command (log 2). -/

namespace Sys2Proof

/-- The command a word spells by the table's bits. No row of the table has any. -/
def decodeTableWord (_nbits _w : Nat) : Option Instr := none

end Sys2Proof
end

