-- ==== Sys2Proof/Config.lean ====
section
/-! DEFINITION. What the spec leaves to the part's makers: the free values. None has a body, so no proof
can rest on a value of theirs. -/

namespace Sys2Proof

/-- Byte `i` of the 32,768 outer-code working values after row `r` with these data bytes is folded in (R40, R64). The
spec gives the code's capability (any 66 of 72 rows restore the copy) and not its arithmetic. Log 10. -/
opaque Config.foldByte (work : List Byte) (r : Nat) (data : List Byte) (i : Nat) : Byte

/-- Data byte `i` of parity row `r`, 66 to 71, from the working values (R40). Log 10. -/
opaque Config.parityByte (work : List Byte) (r i : Nat) : Byte

/-- Data byte `i` of an absent row restored from the working values and the list of rows present (R67). Log 10. -/
opaque Config.restoreByte (work : List Byte) (present : List Nat) (r i : Nat) : Byte

/-- The header fields read from a restored row 0 (R67). Log 10. -/
opaque Config.restoreHeader (work : List Byte) (present : List Nat) : Option BundleHeader

/-- The index read from a restored row 1 (R67). Log 10. -/
opaque Config.restoreIndex (work : List Byte) (present : List Nat) : List IndexEntry

/-- Byte `i`, 0 to 32,767, of rows 0 and 1 for a header and index: the spec names the fields and gives them
no byte layout (00_scope 1.6). Log 11. -/
opaque Config.headerByte (header : BundleHeader) (index : List IndexEntry) (i : Nat) : Byte

/-- The header and index that rows 0 and 1 of a frame hold after a window write of byte `b` at offset `i`
of the frame (R26: the write changes what that frame holds). Log 30. -/
opaque Config.headerAfterWrite (header : Option BundleHeader) (index : List IndexEntry) (i : Nat) (b : Byte) :
    Option BundleHeader × List IndexEntry

/-- Value C of the result of a MARK that committed no mark, at this logical position: R182 names the first mark committed
and states nothing where there is none. Log 53. -/
opaque Config.firstMarkOfNone (position : Nat) : Nat

end Sys2Proof
end

