-- ==== Sys2Proof/Machine/State.lean ====
section
/-! DEFINITION. The state of the part: one structure per block, each holding what the block's holdings table
in spec/ lists, and State, which joins them with buffer memory, the timebase, the processor port, the queue of
waiting commands and the signals in flight between blocks. All of it is plain data. -/

namespace Sys2Proof.Machine

/-- Why the machine stops with a fault. -/
inductive Fault where
  /-- WINDOW_ACCESS only: the access begins below 1 GiB and runs past it, where there is no byte. Safe: the
  spec gives such an access no effect. -/
  | outsideMemory
  deriving DecidableEq, Repr

/-- Why a command is refused. -/
inductive Refusal where
  /-- An arm of exec with no meaning yet. Safe. -/
  | notModelled (mnemonic : String)
  /-- The command's operands are ones that no event of the hardware carries (Sys2Proof.WellFormed). Safe: no
  command that can come is refused. -/
  | illFormed
  deriving DecidableEq, Repr

/-- Buffer memory: (address, byte) pairs, addresses strictly rising, no byte 0 listed. -/
abbrev Memory := List (Nat × Byte)

/-! ### EXU -/

/-- Binding state (section 9.1). -/
inductive BindState where
  | unbound | bound | stalled
  deriving DecidableEq, Repr

/-- The result of the latest EXBASE write (section 9.1). -/
inductive BindOutcome where
  | none | baseBad | setupBad (field : Nat) | bound | boundClamped
  deriving DecidableEq, Repr

/-- The conditions, in COND bit order (section 9.9). -/
inductive Condition where
  | completions | exchangeFault | cartridge | tapeReady | cleanCall | headWorn | fenced | deferredFault
  | directoryStale | motionFault | dataDiscarded | earlyWarning | cleanerExpired | channelRetired | cmFault
  deriving DecidableEq, Repr

/-- The detail of a condition: details A, B, C and the time of the raise (10.9.6). -/
structure Detail where
  a    : Nat
  b    : Nat
  c    : Nat
  time : Time
  deriving DecidableEq, Repr

/-- A binding in progress: the address A written to EXBASE, and the setup record once it is read (R161). -/
structure SetupRead where
  base  : Nat
  bytes : Option (List Byte)
  deriving DecidableEq, Repr

/-! ### ORD -/

/-- Status codes (10.9.3), in the order of their codes. -/
inductive Status where
  | ok | doneShort | aborted | badOrder | badRecordLength | memoryFault | noTape | notReady | cleanerLoaded
  | cleanerExpired | writeProtected | appendOnlyRefused | headFenced | writeFault | mediaError | notFound
  | endOfMedia | motionFault | speedFault | cmFault | deferredError | duplicateTicket
  deriving DecidableEq, Repr

/-- Reasons (10.9.3), in the order of their codes. -/
inductive Reason where
  | none | markMet | endOfData | botMet
  deriving DecidableEq, Repr

/-- Reasons of a permanent write fault (R54). -/
inductive FaultReason where
  | rowFailure | endOfMedia
  deriving DecidableEq, Repr

/-- The active order record (R178): kind code, flags, ticket, count and the 128 body bytes. -/
structure OrderRec where
  kind   : Nat
  flags  : BitVec 16
  ticket : Ticket
  count  : Nat
  body   : List Byte
  deriving DecidableEq, Repr

/-- A result entry of the per-extent table (10.9.3). -/
structure ExtentResult where
  length     : Nat
  overlength : Bool
  deriving DecidableEq, Repr

/-- The contents of a result area (10.9.3). -/
structure OrderResult where
  status  : Status
  reason  : Reason
  flags   : Nat
  a       : Nat
  b       : Nat
  c       : Nat
  d       : Nat
  extents : List ExtentResult
  deriving DecidableEq, Repr

/-- What the 16 slots are read for: a look for the next order (R167), or an abort (R170). -/
inductive ScanFor where
  | look | abort
  deriving DecidableEq, Repr

/-- An access of EXU to the exchange area that waits for its grant (R160): one burst, but for a scan, which is a burst for each
slot still to be read. -/
inductive ExuWork where
  /-- R173: a detail cell is written, with a raise count, and then the condition's COND bit is set -/
  | cell (c : Condition) (d : Detail) (count : Nat)
  /-- R164: a held detail is written to its cell, and is then absent -/
  | held (c : Condition) (d : Detail)
  /-- R162, R164: the binding outcome field of the setup record at an address is written, and the outcome set to match -/
  | outcome (base : Nat) (o : BindOutcome)
  /-- R169: a result area is written -/
  | result (slot : Nat) (r : OrderResult)
  /-- R169, R172: DONE is written into a slot, and a completion of its ticket counted; `active` where the order was TAKEN -/
  | done (slot : Nat) (t : Ticket) (active : Bool)
  /-- R167, R170: the slots from `next` on are read; those found POSTED with the ticket so far are `found` -/
  | scan (why : ScanFor) (t : Ticket) (next : Nat) (found : List Nat)
  /-- R168: the order in a slot is copied; the other slots found with its ticket are `others` -/
  | copy (slot : Nat) (t : Ticket) (others : List Nat)
  /-- R168: TAKEN is written into the slot of the order copied -/
  | taken (slot : Nat) (t : Ticket) (r : OrderRec) (others : List Nat)
  deriving DecidableEq, Repr

/-! ### EXU, as a whole -/

/-- The exchange unit (section 9.1). -/
structure Exu where
  bind        : BindState
  binding     : Option SetupRead
  base        : Option Nat
  outcome     : BindOutcome
  postMark    : Ticket
  takenMark   : Ticket
  passedOver  : List Ticket
  active      : Option (Nat × Ticket)
  count       : Nat
  quietTimer  : Option Time
  lastTicket  : Ticket
  cond        : BitVec 15
  heldCartridge : Option Detail
  heldTapeReady : Option Detail
  heldDiscarded : Option Detail
  lastCartridge : Option Detail
  lastTapeReady : Option Detail
  raises      : List Nat
  alertSet    : BitVec 15
  trigger     : Nat
  quietTime   : Nat
  lastAbort    : Ticket
  abortOutcome : Nat
  /-- the accesses to the exchange area that wait for the memory port, first in, first out (R160) -/
  work         : List ExuWork
  deriving DecidableEq, Repr

/-! ### The stages and the progress of an order -/

/-- The stage of the TAKEN order, as the chapters name it. -/
inductive Stage where
  /-- R178: taken, its checks not yet made. -/
  | checking
  /-- R184: the append point is being settled. -/
  | settling
  /-- R184: CMP takes the records or marks. -/
  | intake
  /-- R184, R186: waiting for the release mark or for write drained. -/
  | waiting
  /-- R187, R188, R193: waiting for write drained. -/
  | draining
  /-- R187: delivering. -/
  | reading
  /-- R189 to R191: the tape is being positioned. -/
  | positioning
  /-- R192 stage 1. -/
  | loadMemory
  /-- R192 stage 2. -/
  | loadCleaning
  /-- R192 stage 3. -/
  | loadThreading
  /-- R192 stage 4. -/
  | loadMap
  /-- R193 stage 2. -/
  | unloadRewind
  /-- R193 stage 3. -/
  | unloadMemory
  /-- R193 stage 4, and the eject of R132. -/
  | unloadUnthread
  /-- R195: the report record is being written. -/
  | reporting
  /-- R199: the loop check is running. -/
  | looping
  deriving DecidableEq, Repr

/-- A row 0 or row 1 met by a search, kept until the other row of the same copy is met (R189). -/
structure HeaderRow where
  bundle : Nat
  copy   : Nat
  /-- serpentine position of the copy's row 0, when it has been met -/
  place  : Option Nat
  header : Option BundleHeader
  index  : Option (List IndexEntry)
  deriving DecidableEq, Repr

/-- Where a search for the bundle holding an object stands (R189). -/
inductive FindPhase where
  /-- the estimated bundle is being located (R104, R105) -/
  | locating
  /-- bundles are examined from there upward -/
  | examining
  /-- found; MOT is stopping before the bundle -/
  | stopping
  deriving DecidableEq, Repr

/-- A search for the bundle holding the first entry of an object (R189). -/
structure Find where
  target    : Nat
  estimate  : Nat
  tries     : Nat
  phase     : FindPhase
  /-- the last bundle examined on this scan -/
  examined  : Option Nat
  partials  : List HeaderRow
  /-- the bundle found: its number, header, index, and the serpentine position of its row 0 -/
  found     : Option (Nat × BundleHeader × List IndexEntry × Nat)
  /-- the located start of the estimated bundle, once its locate is done (R105) -/
  start     : Option Nat
  deriving DecidableEq, Repr

/-- The order engine (section 10.1). -/
structure Ord where
  record       : Option OrderRec
  stage        : Stage
  releaseMark  : Option Nat
  records      : Nat
  marks        : Nat
  firstObject  : Option Nat
  delivered    : Nat
  extents      : List ExtentResult
  residual     : Nat
  discardSeen  : Bool
  position     : Nat
  deferred     : Option (Nat × FaultReason)
  find         : Option Find
  /-- first object of the last bundle whose header was read during a positioning order (R191) -/
  lastHeader   : Option Nat
  /-- serpentine position of the copy that header was read of (R190) -/
  lastPlace    : Option Nat
  /-- the bundle a LOCATE ended at (R182) -/
  located      : Option Nat
  /-- the outcome a SPACE or LOCATE completes with once MOT is POSITIONED (R189, R190) -/
  outcome      : Option (Status × Reason)
  /-- an append inside a bundle is being read back (R21): the bundle, its header and its located start -/
  append       : Option (Nat × BundleHeader × Nat)
  /-- a fence came while the append point was being settled (R152) -/
  fenceSeen    : Bool
  /-- the LOAD in hand has been aborted (R192) -/
  loadAborted  : Bool
  /-- the cleaning cartridge of the LOAD in hand has expired (R132) -/
  expired      : Bool
  /-- the cleaning pass of the LOAD in hand is done (R132) -/
  passDone     : Bool
  /-- the unload write of the UNLOAD in hand failed (R142) -/
  unloadFault  : Bool
  /-- the LOAD or UNLOAD in hand has asked for a recovery that is not yet done (R108, R183) -/
  recovering   : Bool
  /-- the timebase value at the taking of the REPORT in hand (R196) -/
  reportTime   : Time
  deriving DecidableEq, Repr

/-! ### CMP -/

/-- The intake cursor: record, chunk, and bytes of the chunk read (section 1.1). -/
structure IntakeCursor where
  record : Nat
  chunk  : Nat
  byte   : Nat
  deriving DecidableEq, Repr

/-- A candidate (R10): its form, its raw and stored bytes, and the working copy of the table. -/
structure Candidate where
  form   : ChunkForm
  raw    : List Byte
  stored : List Byte
  table  : List (Nat × Nat)
  deriving DecidableEq, Repr

/-- A seal whose header and index are being written (R29). -/
structure Sealing where
  header : BundleHeader
  index  : List IndexEntry
  /-- a flush-type seal cause met the bundle while it was being sealed (R58) -/
  flushSeen : Bool
  /-- a candidate had been computed against the bundle: its chunk is computed again once a bundle is open (R12, R17) -/
  again : Bool
  deriving DecidableEq, Repr

/-- The compressor (section 1.1). -/
structure Cmp where
  cursor      : Option IntakeCursor
  marksLeft   : Nat
  history     : List Byte
  /-- the entries of the recent-position table that are not EMPTY, by entry number, rising -/
  table       : List (Nat × Nat)
  index       : List IndexEntry
  payloadFill : Nat
  rawCount    : Nat
  idleTimer   : Option Time
  blocked     : Bool
  candidate   : Option Candidate
  sealing     : Option Sealing
  compression : Bool
  idleSeal    : Nat
  deriving DecidableEq, Repr

/-! ### BSM -/

/-- Frame states (R27), in the order of the report record. -/
inductive FrameState where
  | free | opened | sealed | writing | pending | verified | filling | decoded | draining
  deriving DecidableEq, Repr

/-- One frame: its entry of the frame table (R27), and the header and index its rows 0 and 1 hold. -/
structure Frame where
  state  : FrameState
  bundle : Option Nat
  copy   : Option Nat
  header : Option BundleHeader
  index  : List IndexEntry
  deriving DecidableEq, Repr

/-- The store mode (R33). -/
inductive StoreMode where
  | idle | write | read
  deriving DecidableEq, Repr

/-- The bundle store manager (chapter 2). -/
structure Bsm where
  frames          : List Frame
  base            : Nat
  mode            : StoreMode
  sealedThrough   : Nat
  writtenThrough  : Nat
  verifiedThrough : Nat
  /-- read-mode requests held while the store is in WRITE (R28): bundle, copy, and where the header row was met -/
  claims          : List (Nat × Nat × Nat)
  deriving DecidableEq, Repr

/-! ### MARB -/

/-- The requesters, in the listed order of each group (section 2.8). -/
inductive Requester where
  | rowOut | rowIn | cmpIn | cmpOut | dcpIn | dcpOut | exu | proc
  deriving DecidableEq, Repr

/-- The two groups of requesters (section 2.8). -/
inductive Group where
  | tape | general
  deriving DecidableEq, Repr

/-- What a transfer is for: what follows its last burst. -/
inductive Purpose where
  /-- EXU: the setup record (R161) -/
  | setupRecord
  /-- EXU: the report record (R195) -/
  | reportRecord
  /-- PROC: a window read, or a window write (R26) -/
  | windowRead | windowWrite
  /-- CMP_IN: the chunk at the intake cursor (R1) -/
  | chunkIn
  /-- CMP_OUT: stored bytes at commit (R11) -/
  | chunkOut
  /-- CMP_OUT: header and index at a seal (R29) -/
  | headerOut
  /-- ROW_OUT: the row being read (R43) -/
  | rowFetch
  /-- ROW_IN: the oldest row of the in-buffer (R64) -/
  | rowStore
  /-- ROW_IN: a restored row of a bundle (R67) -/
  | rowRestore (bundle : Nat)
  /-- DCP_IN: header and index; stored bytes of the entry at the cursor (R74) -/
  | headerIn | entryIn
  /-- DCP_OUT: record bytes (R76) -/
  | deliver
  /-- the loop check's transfers (R198, R199) -/
  | loopChunkIn | loopChunkOut | loopHeaderOut | loopRowOut | loopRowIn | loopHeaderIn | loopEntryIn | loopDeliver
  | loopSource | loopDestination
  deriving DecidableEq, Repr

/-- A transfer in hand: the requester, its direction, the next address, the bytes not yet moved, and the
bytes read so far or still to be written. -/
structure Transfer where
  who     : Requester
  purpose : Purpose
  write   : Bool
  addr    : Nat
  left    : Nat
  data    : List Byte
  deriving DecidableEq, Repr

/-- The burst in progress (R38). -/
structure Burst where
  who : Requester
  len : Nat
  deriving DecidableEq, Repr

/-- The memory arbiter (R38). -/
structure Marb where
  lastTape    : Requester
  lastGeneral : Requester
  lastGroup   : Group
  lastUrgent  : Requester
  burst       : Option Burst
  /-- the transfers in hand; of one requester's, the first listed is served first -/
  transfers   : List Transfer
  deriving DecidableEq, Repr

/-! ### FMT -/

/-- The row a cursor names (R43). -/
structure RowName where
  bundle : Nat
  copy   : Nat
  row    : Nat
  deriving DecidableEq, Repr

/-- A row in the out-buffer, or being read into it. -/
structure OutRow where
  bundle  : Nat
  copy    : Nat
  row     : Nat
  attempt : Nat
  data    : List Byte
  deriving DecidableEq, Repr

/-- An entry of the verify window (R47). -/
structure WindowEntry where
  bundle  : Nat
  copy    : Nat
  row     : Nat
  channel : Nat
  /-- serpentine position of the row time -/
  place   : Nat
  attempt : Nat
  dropped : Bool
  deriving DecidableEq, Repr

/-- An entry of the rewrite list (R50). `sent` is SENT, otherwise WAITING. -/
structure Rewrite where
  bundle  : Nat
  copy    : Nat
  row     : Nat
  attempt : Nat
  channel : Nat
  sent    : Bool
  deriving DecidableEq, Repr

/-- A pass map: the rows of a bundle's current copy that have passed (R48). -/
structure PassMap where
  bundle : Nat
  passed : List Nat
  deriving DecidableEq, Repr

/-- A placement record (R41): serpentine positions of row 0 and of the latest placement. -/
structure Placement where
  bundle : Nat
  first  : Nat
  latest : Nat
  deriving DecidableEq, Repr

/-- Emission phases (section 3.1). -/
inductive EmitPhase where
  | emitting | drainingWindow | stopped | held
  deriving DecidableEq, Repr

/-- The run-on beyond the end of a wrap (R47, R60, R100, R102). -/
inductive RunOn where
  | none | wrapEnd | physicalEnd
  deriving DecidableEq, Repr

/-- The formatter (section 3.1). -/
structure Fmt where
  cursor      : Option RowName
  outBuffer   : List OutRow
  reading     : Option OutRow
  window      : List WindowEntry
  rewrites    : List Rewrite
  passMaps    : List PassMap
  placements  : List Placement
  phase       : EmitPhase
  faultMark   : Bool
  ewFlag      : Bool
  rowsPlaced       : Nat
  rewritesPlaced   : Nat
  blankSlots       : Nat
  unscoredFailures : Nat
  repeats          : Nat
  writeFaults      : Nat
  /-- row slots of the row time in hand that have not passed, by channel (R42) -/
  slots       : List Nat
  /-- the bundle boundary of the row at the head of the out-buffer has been reported (R46) -/
  boundaryDone : Bool
  lastPlaced  : Nat
  /-- cause of the most recent seal of the write session (R57) -/
  lastCause   : Option SealCause
  /-- the emission start point, until the first start of the write session (R59) -/
  startPoint  : Option Nat
  /-- one past the last row time that held a row: the splice point of the next stop (R56) -/
  resume      : Option Nat
  threshold   : Nat
  restart     : Nat
  deriving DecidableEq, Repr

/-! ### RDC and DCP -/

/-- Session phases (section 4.1). -/
inductive SessionPhase where
  | none | reading | overrun | rereading | searching | ended (bundle : Nat) | failed (bundle : Nat)
  deriving DecidableEq, Repr

/-- Assembly states (section 4.1). -/
inductive AsmState where
  | gathering | awaiting | rereading | sought
  deriving DecidableEq, Repr

/-- A good row in the in-buffer: its bundle, row, arrival position and contents. -/
structure InRow where
  bundle : Nat
  row    : Nat
  place  : Nat
  tape   : TapeRow
  deriving DecidableEq, Repr

/-- An assembly (section 4.1). `closing` is set from its close until the decode test (R67); `begun` lists the copies whose
row 0 has arrived (R65); `restoring` counts the restored rows still to be written through ROW_IN (R67). -/
structure Assembly where
  bundle   : Nat
  copy     : Nat
  present  : List Nat
  earliest : Nat
  latest   : Nat
  attempts : Nat
  state    : AsmState
  closing  : Bool
  begun    : List Nat
  restoring : Nat
  deriving DecidableEq, Repr

/-- The recovery record (R70). -/
structure Recovery where
  bundle : Nat
  count  : Nat
  held   : List Nat
  /-- the copies already counted as bundle positions -/
  passed : List (Nat × Nat)
  deriving DecidableEq, Repr

/-- The read decoder (section 4.1). -/
structure Rdc where
  phase      : SessionPhase
  /-- L + 1, the next bundle -/
  next       : Option Nat
  frontier   : Option Nat
  blankRun   : Nat
  /-- where the blank run began (R68, R72) -/
  blankStart : Option Nat
  inBuffer   : List InRow
  assemblies : List Assembly
  recovery   : Option Recovery
  rowsReceived : Nat
  overruns     : Nat
  unreadable   : Nat
  superseded   : Nat
  rereads      : Nat
  recoveries   : Nat
  recoveriesFailed : Nat
  /-- the object after the last of the bundle before the session's start bundle (R72) -/
  firstAfter : Nat
  /-- an append read-back claims no frame beyond this bundle (R81) -/
  onlyBundle : Option Nat
  /-- where reading resumes after an abort (R80) -/
  resumeAt   : Option Nat
  /-- the superseded copies already counted in this session (R66) -/
  skipped    : List (Nat × Nat)
  /-- the row time in which a head has reported: its serpentine position, and whether it lay beyond the frontier -/
  rowTime    : Option (Nat × Bool)
  limit      : Nat
  deriving DecidableEq, Repr

/-- What DCP is doing with the frame it has begun. -/
inductive DcpPhase where
  /-- nothing in hand; a READ continuing goes on from the cursor -/
  | idle
  /-- the header and index are being read (R74) -/
  | header
  /-- the stored bytes of the entry at the cursor are being read -/
  | fetching
  /-- the entry's stored bytes are read: DECODE_ENTRY may come -/
  | ready
  /-- the entry's raw bytes are being delivered (R76) -/
  | delivering
  deriving DecidableEq, Repr

/-- The record being delivered (R76, R77). -/
structure RecordInHand where
  object  : Nat
  length  : Nat
  written : Nat
  deriving DecidableEq, Repr

/-- The decompressor (section 4.1). -/
structure Dcp where
  phase    : DcpPhase
  /-- the bundle DCP needs next (R74) -/
  next     : Option Nat
  /-- the frame begun -/
  frame    : Option Nat
  /-- the index entry to be decoded next -/
  entry    : Nat
  history  : List Byte
  /-- raw bytes produced in the bundle so far -/
  produced : Nat
  /-- stored bytes read for the entry at the cursor -/
  stored   : List Byte
  /-- the extent of the READ being filled -/
  extent   : Nat
  record   : Option RecordInHand
  waiting  : Bool
  corrupt  : Nat
  /-- last object of the bundle finished before in this session (R74) -/
  lastObject : Option Nat
  /-- the history is to be rebuilt from the frame's first entry when delivery resumes (R80) -/
  replay   : Bool
  deriving DecidableEq, Repr

/-! ### MOT -/

/-- Motion states (section 5.1), in table order. -/
inductive MotionState where
  | empty | seated | threading | threadedIdle | relaxed | starting | streamingWrite | streamingRead | stopping
  | repositioning | positioned | turning | travel | cleaning | unthreading | stranded | faultHeld
  deriving DecidableEq, Repr

/-- Leader places (section 5.2). -/
inductive LeaderPlace where
  | none | home | inPath | onReel
  deriving DecidableEq, Repr

/-- Direction of motion. -/
inductive Direction where
  | forward | reverse
  deriving DecidableEq, Repr

/-- The physical position (section 5.2). -/
structure Pos where
  wrap  : Nat
  index : Nat
  dir   : Direction
  deriving DecidableEq, Repr

/-- Start kinds (section 5.2). -/
inductive StartKind where
  | write | read
  deriving DecidableEq, Repr

/-- Lock levels (R91). -/
inductive LockLevel where
  | unlocked | settled | locked
  deriving DecidableEq, Repr

/-- Tension states (section 5.2). -/
inductive Tension where
  | off | relaxed | tensioned
  deriving DecidableEq, Repr

/-- The phases of THREADING (R84, R85). -/
inductive ThreadPhase where
  | capture | path | tensioning
  deriving DecidableEq, Repr

/-- Where a travel goes (R103, R108). -/
inductive Destination where
  /-- the run-up point of the splice point held; `backhitch` when the travel carries out a stop (R97) -/
  | runUp (backhitch : Bool)
  /-- a named wrap and index, as a serpentine position -/
  | named (place : Nat)
  /-- BOT -/
  | bot
  /-- the recovery rewind of R108 -/
  | recovery
  deriving DecidableEq, Repr

/-- What MOT does when a rewind to BOT has ended. -/
inductive AfterRewind where
  | nothing | unthread | passDone
  deriving DecidableEq, Repr

/-- What follows TAPE_AT_REST. -/
inductive AfterRest where
  /-- to the run-up point of the splice point (R97) -/
  | runUp
  /-- travel (R103) -/
  | go (dest : Destination)
  /-- stay at the place, in THREADED_IDLE (R110) -/
  | stay
  deriving DecidableEq, Repr

/-- Why the leader is being unthreaded. -/
inductive UnthreadWhy where
  /-- the path timer expired (R86) -/
  | pathFault
  /-- threading abandoned (R87) -/
  | abandoned
  /-- asked by ORD (R107) -/
  | asked
  /-- a recovery (R108) -/
  | recovery
  deriving DecidableEq, Repr

/-- A request held by MOT (section 5.2). A start without a place uses the splice point held. -/
inductive HeldRequest where
  | start (place : Option Nat) (kind : StartKind)
  | stop (place : Nat)
  | go (dest : Destination)
  /-- an unthread of RELAXED tape at BOT, held while the tension is raised (R90, R107) -/
  | unthread (why : UnthreadWhy)
  deriving DecidableEq, Repr

/-- Phases of a locate (R104, R105). -/
inductive LocatePhase where
  | approaching | scanning | found (place : Nat)
  deriving DecidableEq, Repr

/-- The locate record (section 5.2). -/
structure Locate where
  bundle    : Nat
  wrap      : Nat
  scanStart : Nat
  overshoot : Nat
  phase     : LocatePhase
  deriving DecidableEq, Repr

/-- The motion controller (section 5.2). -/
structure Mot where
  state     : MotionState
  leader    : LeaderPlace
  pos       : Option Pos
  splice    : Option Nat
  startKind : Option StartKind
  held      : Option HeldRequest
  speed     : Nat
  lock      : LockLevel
  lockCount : Nat
  limitTimer : Option Time
  tension   : Tension
  dwellTimer : Option Time
  tab       : Bool
  attempt   : Nat
  locate    : Option Locate
  motionTime : Nat
  backhitches   : Nat
  wrapTurns     : Nat
  speedChanges  : Nat
  lockLosses    : Nat
  travels       : Nat
  threadRetries : Nat
  motionFaults  : Nat
  threadPhase : ThreadPhase
  /-- the capture, path or unthread timer (R84 to R86) -/
  threadTimer : Option Time
  unthreadWhy : UnthreadWhy
  dest        : Destination
  afterRest   : AfterRest
  afterRewind : AfterRewind
  /-- the tension of RELAXED tape is being raised (R90) -/
  retension   : Bool
  /-- the tape is being brought to tension for a recovery rewind (R108) -/
  recovering  : Bool
  /-- the cartridge is being driven out (R107) -/
  ejecting    : Bool
  /-- the streaming state a turn was entered from (R99) -/
  turnFrom    : StartKind
  /-- the run-on of R100, R102, as MOT sees it -/
  runOn       : RunOn
  /-- the early-warning crossing was reported since the entry to STREAMING_WRITE (R96) -/
  ewReported  : Bool
  /-- row times of the cleaning pass still to run (R106) -/
  cleanLeft   : Nat
  /-- the geometry word read as the threaded tape was brought to tension (R130) -/
  word        : Option Geometry
  dwellTime   : Nat
  deriving DecidableEq, Repr

/-! ### SPM -/

/-- Session kinds (section 6.1). -/
inductive SessionKind where
  | none | write | read
  deriving DecidableEq, Repr

/-- The speed matcher (section 6.1). -/
structure Spm where
  session   : SessionKind
  rate      : Nat
  start     : Option Time
  excluded  : Nat
  openSince : Option Time
  vote      : Option Nat
  next      : Nat
  lastSample : Option Nat
  lastDemand : Option Nat
  lastChoice : Option Nat
  writeSamples : Nat
  readSamples  : Nat
  rises        : Nat
  falls        : Nat
  stepDowns    : Nat
  table     : List Nat
  deriving DecidableEq, Repr

/-! ### CML -/

/-- Cartridge states (R126). -/
inductive CartState where
  | none | held | rebuilding | loaded
  deriving DecidableEq, Repr

/-- Stale reasons (section 7.2). -/
inductive StaleReason where
  | dirty | inconsistent | unreadable
  deriving DecidableEq, Repr

/-- The cartridge copy (section 7.2). For an unreadable memory only the geometry, and the identity once
adopted, are known (R130). -/
structure CartCopy where
  identity  : Option (BitVec 64)
  type      : Option CartType
  geometry  : Geometry
  loadCount : Nat
  dirty     : Bool
  eod       : EodRecord
  directory : List DirEntry
  passesUsed     : Nat
  passLimit      : Nat
  cleaningLength : Nat
  deriving DecidableEq, Repr

/-- The tape map (section 7.2). -/
structure TapeMap where
  eodObject : Nat
  eodBundle : Nat
  endWrap   : Nat
  endIndex  : Nat
  deriving DecidableEq, Repr

/-- The tally of one bundle met by the end scan (R140). -/
structure Tally where
  bundle : Nat
  rows   : List Nat
  /-- object number of the last index entry, once a good row 1 was met -/
  lastObject : Option Nat
  /-- serpentine position of the latest row time holding a good row of it -/
  latest : Nat
  deriving DecidableEq, Repr

/-- The rebuild record (section 7.2). -/
structure Rebuild where
  wrap    : Nat
  /-- first bundle and first object of each wrap found so far, in wrap order -/
  found   : List (Nat × Nat)
  /-- the end scan has begun (R140) -/
  endScan : Bool
  /-- serpentine position of the last header found -/
  place : Nat
  /-- row times at SETTLED or above on this wrap without its header (R139) -/
  passed  : Nat
  tallies : List Tally
  deriving DecidableEq, Repr

/-- Accesses of cartridge memory (R127). -/
inductive AccessKind where
  | loadRead | dirtyWrite | cleanWrite | unloadWrite
  deriving DecidableEq, Repr

/-- The fields a write access gives to cartridge memory. -/
structure CmWrite where
  loadCount  : Nat
  dirty      : Option Bool
  passesUsed : Option Nat
  eod        : Option EodRecord
  directory  : Option (List DirEntry)
  deriving DecidableEq, Repr

/-- An access in hand: its kind, its attempt, the fields it writes, and whether a soft reset has ended it but
for the current attempt (R127). -/
structure CmAccess where
  kind    : AccessKind
  attempt : Nat
  fields  : Option CmWrite
  orphan  : Bool
  deriving DecidableEq, Repr

/-- The cartridge memory link (section 7.2). -/
structure Cml where
  state    : CartState
  copy     : Option CartCopy
  readable : Bool
  stale    : Option StaleReason
  rebuilt  : Bool
  dirtyWritten : Bool
  map      : Option TapeMap
  rebuild  : Option Rebuild
  access   : Option CmAccess
  accesses : Nat
  retried  : Nat
  failed   : Nat
  deriving DecidableEq, Repr

/-! ### HCM -/

/-- One channel (section 8.1). -/
structure Channel where
  score  : Nat
  active : Bool
  deriving DecidableEq, Repr

/-- The clean call (R150). -/
inductive CleanCall where
  | none | advised | required
  deriving DecidableEq, Repr

/-- The head care monitor (section 8.1). -/
structure Hcm where
  channels : List Channel
  n        : Nat
  h        : Nat
  call     : CleanCall
  fence    : Bool
  worn     : Bool
  seconds  : Nat
  bundles  : Nat
  advise   : Nat
  require  : Nat
  retire   : Nat
  hours    : Nat
  retirements : Nat
  fences      : Nat
  rises       : Nat
  cleanings   : Nat
  deriving DecidableEq, Repr

/-! ### The loop check -/

/-- The CHECK in hand (R198 to R200). -/
structure Loop where
  frame       : Nat
  chunk       : Nat
  history     : List Byte
  table       : List (Nat × Nat)
  index       : List IndexEntry
  fill        : Nat
  rawCount    : Nat
  row         : Nat
  /-- the row being handed to RDC: its data, and the header and index its row 0 and row 1 brought -/
  data        : List Byte
  header      : Option BundleHeader
  rowIndex    : List IndexEntry
  /-- RDC's working values after each row, and as they stood after row 65 -/
  inWork      : List Byte
  dataWork    : List Byte
  /-- the parity rows received so far agree with them -/
  agree       : Bool
  entry       : Nat
  decHistory  : List Byte
  produced    : Nat
  written     : Nat
  source      : Option (List Byte)
  destination : Option (List Byte)
  deriving DecidableEq, Repr

/-! ### The whole part -/

/-- What one block tells another inside a step. -/
inductive Signal where
  /-- BSM: write drained (R33) -/
  | writeDrained
  /-- HCM: the head is fenced (R152) -/
  | fenced
  /-- BSM: a frame was handed to a blocked CMP (R28) -/
  | frameHanded
  /-- BSM: the store became IDLE while read-mode requests were held (R28) -/
  | storeIdle
  /-- CMP: intake complete (R1, R2) -/
  | intakeComplete
  /-- MOT: a write start asked at the physical end (R102) -/
  | physicalEnd
  /-- MOT: the physical end passed in STREAMING_READ (R102) -/
  | readPhysicalEnd
  /-- MOT: the heads stand at the run-up point (R97) -/
  | positioned
  /-- MOT: a travel to a named place or to BOT has arrived (R103) -/
  | arrived
  /-- MOT: a request for motion met a tape that is not threaded, or a cleaning pass (R95) -/
  | notThreaded
  /-- MOT: threading or recovery done with the tape threaded (R85, R108) -/
  | threaded
  /-- MOT: the leader is home and MOT SEATED (R107) -/
  | seated
  /-- MOT: the cartridge is out (R107) -/
  | ejected
  /-- MOT: the cleaning pass is done (R106) -/
  | passDone
  /-- MOT: threading or unthreading failed (R84, R86, R107) -/
  | motionFailed
  /-- MOT: emergency stop for tension (false) or speed (true) (R88, R92) -/
  | emergency (speed : Bool)
  /-- MOT: the locate found its bundle at this serpentine position (R105) -/
  | located (place : Nat)
  /-- MOT: the locate failed (R105) -/
  | locateFailed
  /-- CML: an access ended, well or not (R127) -/
  | accessEnded (kind : AccessKind) (ok : Bool)
  /-- DCP: the read-back of an append is decoded (true) or has failed (R81) -/
  | readBack (ok : Bool)
  deriving DecidableEq, Repr

/-- The state of the ZT4120. -/
structure State where
  mem        : Memory
  timebase   : Time
  /-- what the last read on the processor port returned (R26, R159) -/
  portRead   : Option Word
  /-- the rows given to the write heads in the row time in hand, by channel (R44) -/
  writeHeads : List (Nat × TapeRow)
  exu  : Exu
  ord  : Ord
  cmp  : Cmp
  bsm  : Bsm
  marb : Marb
  fmt  : Fmt
  rdc  : Rdc
  dcp  : Dcp
  mot  : Mot
  spm  : Spm
  cml  : Cml
  hcm  : Hcm
  loop : Option Loop
  /-- signals in flight between blocks; empty between steps -/
  sig  : List Signal
  /-- the commands that are waiting, first in, first out -/
  pending : List Instr
  deriving DecidableEq, Repr

/-! ### Values after a hard reset -/

/-- EXU after a hard reset (R176). -/
def Exu.hardReset : Exu where
  bind := .unbound
  binding := none
  base := none
  outcome := .none
  postMark := 0
  takenMark := 0
  passedOver := []
  active := none
  count := 0
  quietTimer := none
  lastTicket := 0
  cond := 0
  heldCartridge := none
  heldTapeReady := none
  heldDiscarded := none
  lastCartridge := none
  lastTapeReady := none
  raises := List.replicate 15 0
  alertSet := 0
  trigger := 1
  quietTime := 0
  lastAbort := 0
  abortOutcome := 0
  work := []

/-- ORD after a hard reset (R178). -/
def Ord.hardReset : Ord where
  record := none
  stage := .checking
  releaseMark := none
  records := 0
  marks := 0
  firstObject := none
  delivered := 0
  extents := []
  residual := 0
  discardSeen := false
  position := 0
  deferred := none
  find := none
  lastHeader := none
  lastPlace := none
  located := none
  outcome := none
  append := none
  fenceSeen := false
  loadAborted := false
  expired := false
  passDone := false
  unloadFault := false
  recovering := false
  reportTime := 0

/-- CMP after a hard reset (R23, R10). The idle seal time stands at its default (log 41). -/
def Cmp.hardReset : Cmp where
  cursor := none
  marksLeft := 0
  history := []
  table := []
  index := []
  payloadFill := 0
  rawCount := 0
  idleTimer := none
  blocked := false
  candidate := none
  sealing := none
  compression := true
  idleSeal := 2000

/-- BSM after a hard reset (R27, R34). -/
def Bsm.hardReset : Bsm where
  frames := []
  base := 0
  mode := .idle
  sealedThrough := 0
  writtenThrough := 0
  verifiedThrough := 0
  claims := []

/-- MARB after a hard reset (R38). -/
def Marb.hardReset : Marb where
  lastTape := .rowIn
  lastGeneral := .proc
  lastGroup := .general
  lastUrgent := .rowIn
  burst := none
  transfers := []

/-- FMT after a hard reset (R61). The thresholds stand at their defaults (log 41). -/
def Fmt.hardReset : Fmt where
  cursor := none
  outBuffer := []
  reading := none
  window := []
  rewrites := []
  passMaps := []
  placements := []
  phase := .stopped
  faultMark := false
  ewFlag := false
  rowsPlaced := 0
  rewritesPlaced := 0
  blankSlots := 0
  unscoredFailures := 0
  repeats := 0
  writeFaults := 0
  slots := []
  boundaryDone := false
  lastPlaced := 0
  lastCause := none
  startPoint := none
  resume := none
  threshold := 3
  restart := 4

/-- RDC after a hard reset (R82). The reread limit stands at its default (log 41). -/
def Rdc.hardReset : Rdc where
  phase := .none
  next := none
  frontier := none
  blankRun := 0
  blankStart := none
  inBuffer := []
  assemblies := []
  recovery := none
  rowsReceived := 0
  overruns := 0
  unreadable := 0
  superseded := 0
  rereads := 0
  recoveries := 0
  recoveriesFailed := 0
  firstAfter := 0
  onlyBundle := none
  resumeAt := none
  skipped := []
  rowTime := none
  limit := 4

/-- DCP after a hard reset (R82). -/
def Dcp.hardReset : Dcp where
  phase := .idle
  next := none
  frame := none
  entry := 0
  history := []
  produced := 0
  stored := []
  extent := 0
  record := none
  waiting := false
  corrupt := 0
  lastObject := none
  replay := false

/-- MOT after a hard reset, the motion state as the sensors give it (R83). The dwell time stands at its
default (log 41); the write-protect tab of a cartridge found STRANDED counts as clear (log 76). -/
def Mot.hardReset (sensors : Sensors) : Mot where
  state := if !sensors.present then .empty else if sensors.home then .seated else .stranded
  leader := if !sensors.present then .none else if sensors.home then .home
    else if sensors.attached then .onReel else .inPath
  pos := none
  splice := none
  startKind := none
  held := none
  speed := 0
  lock := .unlocked
  lockCount := 0
  limitTimer := none
  tension := .off
  dwellTimer := none
  tab := sensors.present && sensors.home && sensors.tab
  attempt := 1
  locate := none
  motionTime := 0
  backhitches := 0
  wrapTurns := 0
  speedChanges := 0
  lockLosses := 0
  travels := 0
  threadRetries := 0
  motionFaults := 0
  threadPhase := .capture
  threadTimer := none
  unthreadWhy := .asked
  dest := .bot
  afterRest := .runUp
  afterRewind := .nothing
  retension := false
  recovering := false
  ejecting := false
  turnFrom := .read
  runOn := .none
  ewReported := false
  cleanLeft := 0
  word := none
  dwellTime := 120

/-- SPM after a hard reset (R124), with the default speed table of R112. -/
def Spm.hardReset : Spm where
  session := .none
  rate := 0
  start := none
  excluded := 0
  openSince := none
  vote := none
  next := 0
  lastSample := none
  lastDemand := none
  lastChoice := none
  writeSamples := 0
  readSamples := 0
  rises := 0
  falls := 0
  stepDowns := 0
  table := [40960, 51200, 61440, 76800, 92160, 112640]

/-- CML after a hard reset (R126). -/
def Cml.hardReset : Cml where
  state := .none
  copy := none
  readable := false
  stale := none
  rebuilt := false
  dirtyWritten := false
  map := none
  rebuild := none
  access := none
  accesses := 0
  retried := 0
  failed := 0

/-- HCM after a hard reset (R158). -/
def Hcm.hardReset : Hcm where
  channels := List.replicate 16 ⟨0, true⟩
  n := 16
  h := 0
  call := .none
  fence := false
  worn := false
  seconds := 0
  bundles := 0
  advise := 1536
  require := 3072
  retire := 6144
  hours := 180000
  retirements := 0
  fences := 0
  rises := 0
  cleanings := 0

/-- The part right after power-on with no cartridge present: every block in its hard-reset state, the timebase
0, nothing listed in memory, no command waiting (R176; the sensor readings are log 4). -/
def State.reset : State where
  mem := []
  timebase := 0
  portRead := none
  writeHeads := []
  exu := Exu.hardReset
  ord := Ord.hardReset
  cmp := Cmp.hardReset
  bsm := Bsm.hardReset
  marb := Marb.hardReset
  fmt := Fmt.hardReset
  rdc := Rdc.hardReset
  dcp := Dcp.hardReset
  mot := Mot.hardReset ⟨false, false, false, false⟩
  spm := Spm.hardReset
  cml := Cml.hardReset
  hcm := Hcm.hardReset
  loop := none
  sig := []
  pending := []

end Sys2Proof.Machine
end

