-- ==== Sys2Proof/Machine/Ops.lean ====
section
/-! DEFINITION. The shared operations: buffer memory, byte order, saturating counters, timers, the signals
between blocks, and the small views of the state that several blocks read. -/

namespace Sys2Proof.Machine

/-! ### Buffer memory -/

/-- What an unlisted address reads as (log 3). -/
def memoryDefault : Byte := 0

/-- The byte at an address. -/
def memRead : Memory → Nat → Byte
  | [], _ => memoryDefault
  | (k, b) :: rest, a => if k = a then b else memRead rest a

/-- Memory with one byte written, in canonical form. -/
def memWrite : Memory → Nat → Byte → Memory
  | [], a, b => if b = memoryDefault then [] else [(a, b)]
  | (k, c) :: rest, a, b =>
    if a < k then (if b = memoryDefault then (k, c) :: rest else (a, b) :: (k, c) :: rest)
    else if a = k then (if b = memoryDefault then rest else (k, b) :: rest)
    else (k, c) :: memWrite rest a b

/-- `n` bytes from address `a` up. -/
def memReadN (m : Memory) (a : Nat) : Nat → List Byte
  | 0 => []
  | n + 1 => memRead m a :: memReadN m (a + 1) n

/-- Memory with consecutive bytes written from address `a` up. -/
def memWriteN (m : Memory) (a : Nat) : List Byte → Memory
  | [] => m
  | b :: bs => memWriteN (memWrite m a b) (a + 1) bs

/-- The addresses rise strictly from `lo` on, and no default byte is listed. -/
def memWfFrom (lo : Nat) : Memory → Bool
  | [] => true
  | (k, b) :: rest => decide (lo ≤ k) && decide (b ≠ memoryDefault) && memWfFrom (k + 1) rest

/-- The canonical form of memory. -/
def Memory.wf (m : Memory) : Bool := memWfFrom 0 m

/-! ### The outer code (R40, R64, R67) -/

/-- The working values after a row is folded in. -/
def foldRow (work : List Byte) (r : Nat) (data : List Byte) : List Byte :=
  (List.range headerBytes).map (Config.foldByte work r data)

/-- The data bytes of a parity row. -/
def parityRow (work : List Byte) (r : Nat) : List Byte := (List.range rowBytes).map (Config.parityByte work r)

/-- The data bytes of a restored row. -/
def restoreRow (work : List Byte) (present : List Nat) (r : Nat) : List Byte :=
  (List.range rowBytes).map (Config.restoreByte work present r)

/-! ### Byte order: least significant byte at the lowest address (00_scope 3.5) -/

/-- The number that bytes spell, the first the least significant. -/
def fromBytes : List Byte → Nat
  | [] => 0
  | b :: bs => b.toNat + 256 * fromBytes bs

/-- A number as `n` bytes, the first the least significant; higher bits are dropped. -/
def toBytes : Nat → Nat → List Byte
  | 0, _ => []
  | n + 1, v => BitVec.ofNat 8 (v % 256) :: toBytes n (v / 256)

/-- A field of a record: `n` bytes at offset `o`. -/
def field (bytes : List Byte) (o n : Nat) : Nat := fromBytes ((bytes.drop o).take n)

/-- A 32-bit two's complement number (the count of a SPACE, 10.9.2). -/
def signed32 (v : Nat) : Int := if v < 2147483648 then (v : Int) else (v : Int) - 4294967296

/-- An absent value is written as all bits set (section 10.9). -/
def orAbsent (v : Option Nat) : Nat := v.getD maxWord

/-! ### Numbers -/

/-- One more, saturating at 32 bits (R197). -/
def bump (n : Nat) : Nat := min (n + 1) maxWord

/-- One more, saturating at 65,535. -/
def bump16 (n : Nat) : Nat := min (n + 1) 65535

/-- A value clamped to a range. -/
def clamp (lo hi v : Nat) : Nat := max lo (min hi v)

/-- Trunc of a quotient, toward zero (00_scope 3.2). -/
def trunc (a : Int) (b : Int) : Int := Int.tdiv a b

/-- An entry of a list replaced through a function. -/
def modifyAt {α : Type} (f : α → α) : List α → Nat → List α
  | [], _ => []
  | x :: xs, 0 => f x :: xs
  | x :: xs, i + 1 => x :: modifyAt f xs i

/-- The entries of a list with their positions, from `i` on. -/
def numbered {α : Type} : Nat → List α → List (Nat × α)
  | _, [] => []
  | i, x :: xs => (i, x) :: numbered (i + 1) xs

/-! ### The recent-position table, kept as its entries that are not EMPTY (R6) -/

/-- The entry with number `h`, absent when EMPTY. -/
def tableGet : List (Nat × Nat) → Nat → Option Nat
  | [], _ => none
  | (k, v) :: rest, h => if k = h then some v else tableGet rest h

/-- The table with a position written into entry `h`. -/
def tableSet : List (Nat × Nat) → Nat → Nat → List (Nat × Nat)
  | [], h, v => [(h, v)]
  | (k, w) :: rest, h, v =>
    if h < k then (h, v) :: (k, w) :: rest
    else if h = k then (k, v) :: rest
    else (k, w) :: tableSet rest h v

/-! ### Time -/

/-- The timebase value `ms` milliseconds from now. -/
def after (s : State) (ms : Nat) : Time := s.timebase + BitVec.ofNat 32 ms

/-- A timer runs and its expiry time has come (log 13). -/
def expired (timer : Option Time) (s : State) : Bool :=
  match timer with
  | some t => decide ((s.timebase - t).toNat < 2147483648)
  | none => false

/-- The length of the interval from one timebase value to another, modulo 2 to the power 32. -/
def interval (start stop : Time) : Nat := (stop - start).toNat

/-! ### SPM's session -/

/-- R114: the session ended. -/
def endSession (s : State) : State := { s with spm.session := .none, spm.start := none }

/-! ### Signals between blocks -/

/-- The state with one more signal in flight. -/
def emit (x : Signal) (s : State) : State := { s with sig := s.sig ++ [x] }

/-! ### Views of the tape's geometry and of places on it (R94) -/

/-- The geometry of the cartridge in the drive, from CML's copy. -/
def geometry (s : State) : Geometry :=
  match s.cml.copy with
  | some c => c.geometry
  | none => ⟨0, 0, 0⟩

/-- The wrap length. -/
def wrapLength (s : State) : Nat := (geometry s).length

/-- The physical end as a serpentine position: one past the last row time of the last wrap. -/
def physicalEnd (s : State) : Nat := (geometry s).wraps * (geometry s).length

/-- The serpentine position of a wrap and index. -/
def serpentine (s : State) (wrap index : Nat) : Nat := wrap * wrapLength s + index

/-- The wrap and index of a serpentine position; the physical end is the end of the last wrap. -/
def placeOf (s : State) (p : Nat) : Nat × Nat :=
  if physicalEnd s ≤ p then ((geometry s).wraps - 1, wrapLength s)
  else (p / wrapLength s, p % wrapLength s)

/-- The run-up point of a splice point: 100 row times before it on its wrap, or index 0 (R94). -/
def runUpPoint (s : State) (splice : Nat) : Nat × Nat :=
  ((placeOf s splice).1, (placeOf s splice).2 - 100)

/-- The direction of travel of a wrap: even wraps run forward, odd wraps in reverse. -/
def wrapDirection (wrap : Nat) : Direction := if wrap % 2 = 0 then .forward else .reverse

/-- The opposite direction. -/
def Direction.opposite : Direction → Direction
  | .forward => .reverse
  | .reverse => .forward

/-- The serpentine position of the heads, when known. -/
def headPlace (s : State) : Option Nat :=
  match s.mot.pos with
  | some p => some (serpentine s p.wrap p.index)
  | none => none

/-- The end position of the tape map as a serpentine position. -/
def endPosition (s : State) : Nat :=
  match s.cml.map with
  | some m => serpentine s m.endWrap m.endIndex
  | none => 0

/-- The EOD object of the tape map. -/
def eodObject (s : State) : Nat :=
  match s.cml.map with
  | some m => m.eodObject
  | none => 0

/-- The EOD bundle of the tape map. -/
def eodBundle (s : State) : Nat :=
  match s.cml.map with
  | some m => m.eodBundle
  | none => 0

/-- The EOD object and bundle set, in the tape map. -/
def setEod (object bundle : Nat) (s : State) : State :=
  { s with cml.map := s.cml.map.map (fun m => { m with eodObject := object, eodBundle := bundle }) }

/-! ### Motion states -/

/-- The moving states (section 5.1). -/
def MotionState.moving : MotionState → Bool
  | .starting | .streamingWrite | .streamingRead | .stopping | .repositioning | .turning | .travel | .cleaning => true
  | .empty | .seated | .threading | .threadedIdle | .relaxed | .positioned | .unthreading | .stranded | .faultHeld => false

/-- The threaded states (section 5.1). -/
def MotionState.threaded : MotionState → Bool
  | .threadedIdle | .relaxed | .positioned => true
  | .starting | .streamingWrite | .streamingRead | .stopping | .repositioning | .turning | .travel | .cleaning => true
  | .empty | .seated | .threading | .unthreading | .stranded | .faultHeld => false

/-- The states in which servo frames are counted (R91). -/
def MotionState.counting : MotionState → Bool
  | .starting | .streamingWrite | .streamingRead => true
  | .empty | .seated | .threading | .threadedIdle | .relaxed | .stopping | .repositioning | .positioned | .turning
  | .travel | .cleaning | .unthreading | .stranded | .faultHeld => false

/-- The number of a motion state, in table order. -/
def MotionState.code : MotionState → Nat
  | .empty => 0 | .seated => 1 | .threading => 2 | .threadedIdle => 3 | .relaxed => 4 | .starting => 5
  | .streamingWrite => 6 | .streamingRead => 7 | .stopping => 8 | .repositioning => 9 | .positioned => 10
  | .turning => 11 | .travel => 12 | .cleaning => 13 | .unthreading => 14 | .stranded => 15 | .faultHeld => 16

/-- The number of a cartridge state. -/
def CartState.code : CartState → Nat
  | .none => 0 | .held => 1 | .rebuilding => 2 | .loaded => 3

/-! ### Frames -/

/-- The write-mode states (R27). -/
def FrameState.writeMode : FrameState → Bool
  | .opened | .sealed | .writing | .pending | .verified => true
  | .free | .filling | .decoded | .draining => false

/-- The read-mode states (R27). -/
def FrameState.readMode : FrameState → Bool
  | .filling | .decoded | .draining => true
  | .free | .opened | .sealed | .writing | .pending | .verified => false

/-- The number of frames in a state (R27). -/
def frameCount (s : State) (st : FrameState) : Nat := (s.bsm.frames.filter (fun f => f.state = st)).length

/-- The lowest-numbered frame that satisfies a test. -/
def findFrame (s : State) (p : Frame → Bool) : Option Nat := s.bsm.frames.findIdx? p

/-- The frame with a number. -/
def frameAt (s : State) (i : Nat) : Option Frame := s.bsm.frames[i]?

/-- The OPEN frame's number. -/
def openFrame (s : State) : Option Nat := findFrame s (fun f => f.state = .opened)

/-- The frame holding a bundle, in any state. -/
def frameOf (s : State) (bundle : Nat) : Option Nat := findFrame s (fun f => f.bundle = some bundle)

/-- The store holds write-mode frames. -/
def holdsWriteFrames (s : State) : Bool := s.bsm.frames.any (fun f => f.state.writeMode)

/-- The store holds read-mode frames. -/
def holdsReadFrames (s : State) : Bool := s.bsm.frames.any (fun f => f.state.readMode)

/-- Where frame `i` begins in buffer memory (R24). -/
def frameBase (s : State) (i : Nat) : Nat := s.bsm.base + i * frameBytes

/-- A FREE frame's entry (R27). -/
def freeFrame : Frame := ⟨.free, none, none, none, []⟩

/-- Frame `i` changed. -/
def updateFrame (i : Nat) (f : Frame → Frame) (s : State) : State :=
  { s with bsm.frames := modifyAt f s.bsm.frames i }

/-- Frame `i` put into a state, keeping what it holds. -/
def setFrameState (i : Nat) (st : FrameState) (s : State) : State :=
  updateFrame i (fun f => { f with state := st }) s

/-- Frame `i` returned to FREE. -/
def freeFrameAt (i : Nat) (s : State) : State := updateFrame i (fun _ => freeFrame) s

end Sys2Proof.Machine
end

