-- ==== Sys2Proof/Machine/Grants.lean ====
section
/-! DEFINITION. Who is granted the memory port next (section 2.8): requests, urgency, and the choice of R38. -/

namespace Sys2Proof.Machine

/-- The requesters of the tape group, in listed order. -/
def tapeRequesters : List Requester := [.rowOut, .rowIn]

/-- The requesters of the general group, in listed order. -/
def generalRequesters : List Requester := [.cmpIn, .cmpOut, .dcpIn, .dcpOut, .exu, .proc]

/-- The group of a requester. -/
def Requester.group : Requester → Group
  | .rowOut | .rowIn => .tape
  | .cmpIn | .cmpOut | .dcpIn | .dcpOut | .exu | .proc => .general

/-- EXU has an access to the exchange area that waits for its grant (R160). -/
def exuWaits (s : State) : Bool := !s.exu.work.isEmpty

/-- A requester has a request raised: it has a transfer in hand, or, EXU, an access to the exchange area that waits (R38). -/
def requestRaised (s : State) (r : Requester) : Bool :=
  s.marb.transfers.any (fun t => t.who = r) || (decide (r = .exu) && exuWaits s)

/-- R39: the urgency of a requester as the buffers stand. -/
def urgent (s : State) : Requester → Bool
  | .rowIn => decide (6 ≤ s.rdc.inBuffer.length)
  | .rowOut => s.mot.state = .streamingWrite && decide (s.fmt.outBuffer.length ≤ 2)
  | .cmpIn | .cmpOut | .dcpIn | .dcpOut | .exu | .proc => false

/-- The listed order of a group beginning after one of its requesters. -/
def rotateAfter (last : Requester) (rs : List Requester) : List Requester :=
  (rs.dropWhile (fun r => r ≠ last)).drop 1 ++ rs.takeWhile (fun r => r ≠ last) ++ [last]

/-- The first requester of a group, after its last grantee, with a request raised. -/
def firstRaised (s : State) (last : Requester) (rs : List Requester) : Option Requester :=
  (rotateAfter last rs).find? (requestRaised s)

/-- R38, first step: the urgent requester the grant goes to. -/
def urgentChoice (s : State) : Option Requester :=
  let out := urgent s .rowOut && requestRaised s .rowOut
  let inn := urgent s .rowIn && requestRaised s .rowIn
  if out && inn then (if s.marb.lastUrgent = .rowOut then some .rowIn else some .rowOut)
  else if out then some .rowOut
  else if inn then some .rowIn
  else none

/-- R38, the other steps: the groups alternate, and rotate within. -/
def rotationChoice (s : State) : Option Requester :=
  let tape := firstRaised s s.marb.lastTape tapeRequesters
  let general := firstRaised s s.marb.lastGeneral generalRequesters
  match tape, general with
  | some t, some g => if s.marb.lastGroup = .general then some t else some g
  | some t, none => some t
  | none, g => g

/-- R38: the port is free and would be granted to EXU, whose oldest access to the exchange area waits for it. -/
def exuNext (s : State) : Bool :=
  s.marb.burst.isNone && exuWaits s && (urgentChoice s).isNone && decide (rotationChoice s = some .exu)

/-- The port is free, and no transfer asks for it. -/
def portFree (s : State) : Bool := s.marb.burst.isNone && s.marb.transfers.isEmpty

/-- R38: a grant to EXU recorded. -/
def recordExuGrant (s : State) : State := { s with marb.lastGeneral := .exu, marb.lastGroup := .general }

end Sys2Proof.Machine
end

