-- ==== Sys2Proof/Machine/Flags.lean ====
section
/-! DEFINITION. The condition flags of COND, their detail cells, the lines they drive, and the registers as
they read (chapter 9). -/

namespace Sys2Proof.Machine

/-- The COND bit of a condition (section 9.9). -/
def Condition.bit : Condition → Nat
  | .completions => 0 | .exchangeFault => 1 | .cartridge => 2 | .tapeReady => 3 | .cleanCall => 4 | .headWorn => 5
  | .fenced => 6 | .deferredFault => 7 | .directoryStale => 8 | .motionFault => 9 | .dataDiscarded => 10
  | .earlyWarning => 11 | .cleanerExpired => 12 | .channelRetired => 13 | .cmFault => 14

/-- The mask of a condition in COND. -/
def Condition.mask (c : Condition) : BitVec 15 := BitVec.ofNat 15 (2 ^ c.bit)

/-- The exchange base, or 0 where none is held. -/
def exchangeBase (s : State) : Nat := s.exu.base.getD 0

/-- The address of a condition's detail cell (R160). -/
def cellAddress (base : Nat) (c : Condition) : Nat := base + 512 + 16 * c.bit

/-- The 16 bytes of a detail cell (10.9.6). Bytes 14 and 15, and a detail the condition does not have, are 0 (log 80). -/
def cellBytes (d : Detail) (count : Nat) : List Byte :=
  toBytes 4 d.a ++ toBytes 2 d.b ++ toBytes 2 d.c ++ toBytes 4 d.time.toNat ++ toBytes 2 count ++ toBytes 2 0

/-- A detail cell written (R173). -/
def writeCell (c : Condition) (d : Detail) (count : Nat) (s : State) : State :=
  { s with mem := memWriteN s.mem (cellAddress (exchangeBase s) c) (cellBytes d count) }

/-- A condition's COND bit set. -/
def setCond (c : Condition) (s : State) : State := { s with exu.cond := s.exu.cond ||| c.mask }

/-- The raise count of a condition. -/
def raiseCount (s : State) (c : Condition) : Nat := s.exu.raises.getD c.bit 0

/-- R177: EXU keeps the detail of the latest raise of CARTRIDGE and of TAPE_READY. -/
def keepLatest (c : Condition) (d : Detail) (s : State) : State :=
  if c = .cartridge then { s with exu.lastCartridge := some d }
  else if c = .tapeReady then { s with exu.lastTapeReady := some d }
  else s

/-- Accesses to the exchange area put behind those that wait (R160). -/
def queueWork (ws : List ExuWork) (s : State) : State := { s with exu.work := s.exu.work ++ ws }

/-- R173: a condition raised while BOUND or STALLED: it is counted, and its detail cell is to be written with the count; its bit
is set once the cell is written. -/
def raiseBound (c : Condition) (d : Detail) (s : State) : State :=
  let s := { s with exu.raises := modifyAt bump16 s.exu.raises c.bit }
  queueWork [.cell c d (raiseCount s c)] s

/-- R174: a condition raised while UNBOUND. -/
def raiseUnbound (c : Condition) (d : Detail) (s : State) : State :=
  match c with
  | .cartridge => setCond c { s with exu.heldCartridge := some d }
  | .tapeReady => setCond c { s with exu.heldTapeReady := some d }
  | .dataDiscarded =>
    let held := match s.exu.heldDiscarded with | some h => h.a | none => 0
    setCond c { s with exu.heldDiscarded := some { d with a := min (held + d.a) maxWord } }
  | .completions | .exchangeFault | .cleanCall | .headWorn | .fenced | .deferredFault | .directoryStale
  | .motionFault | .earlyWarning | .cleanerExpired | .channelRetired | .cmFault => s

/-- A condition raised with details A, B and C, as EXU notes it (R173, R174). -/
def noteRaise (c : Condition) (a b c' : Nat) (s : State) : State :=
  let d : Detail := ⟨a, b, c', s.timebase⟩
  let s := keepLatest c d s
  if s.exu.bind = .unbound then raiseUnbound c d s else raiseBound c d s

/-- R175: ALERT is asserted while a COND bit of the alert set is set. -/
def alert (s : State) : Bool := s.exu.cond &&& s.exu.alertSet != 0

/-- R175: ATTN is asserted while any other COND bit is set. -/
def attn (s : State) : Bool := s.exu.cond &&& ~~~s.exu.alertSet != 0

/-! ### The registers as they read (R159) -/

/-- The register addresses (section 9.2). -/
abbrev identAddress : Nat := 1073741824
abbrev exbaseAddress : Nat := 1073741828
abbrev postAddress : Nat := 1073741832
abbrev abortAddress : Nat := 1073741836
abbrev condAddress : Nat := 1073741840
abbrev resetAddress : Nat := 1073741844

/-- The number of a binding state in EXBASE. -/
def BindState.code : BindState → Nat
  | .unbound => 0 | .bound => 1 | .stalled => 2

/-- The number of a binding outcome in EXBASE. -/
def BindOutcome.code : BindOutcome → Nat
  | .none => 0 | .baseBad => 1 | .setupBad _ => 2 | .bound => 3 | .boundClamped => 4

/-- IDENT: 4,120 and revision 1. -/
def identValue : Nat := 4120 + 65536

/-- EXBASE as it reads: bits 12 to 29 of the base, the binding state, the mark, the outcome code. -/
def exbaseValue (s : State) : Nat :=
  exchangeBase s / 4096 % 262144 * 4096 + s.exu.outcome.code * 16 + (if s.exu.binding.isSome then 4 else 0)
    + s.exu.bind.code

/-- A register as it reads; an address that names no register reads 0. -/
def registerValue (s : State) (addr : Nat) : Nat :=
  if addr = identAddress then identValue
  else if addr = exbaseAddress then exbaseValue s
  else if addr = postAddress then s.exu.postMark.toNat + 65536 * s.exu.takenMark.toNat
  else if addr = abortAddress then s.exu.lastAbort.toNat + 65536 * (s.exu.abortOutcome % 65536)
  else if addr = condAddress then s.exu.cond.toNat
  else 0

/-- A read of 1 to 4 bytes returns those bytes of the register the address lies in, byte 0 its lowest (R159, R151); bytes
past the register's last read 0. Log 21. -/
def registerRead (s : State) (addr : Nat) (len : AccessLen) : Word :=
  BitVec.ofNat 32 (registerValue s (addr / 4 * 4) / 256 ^ (addr % 4) % 256 ^ len.bytes)

end Sys2Proof.Machine
end

