-- ==== Sys2Proof/Machine/Operands.lean ====
section
/-! DEFINITION. The records the drive processor leaves in buffer memory, read as the part reads them: slots
and order bodies (10.9.1, 10.9.2), the setup record (10.9.4) and its head history block (10.9.5). -/

namespace Sys2Proof.Machine

/-! ### Slots -/

/-- The order kinds, by kind code (10.9.1). -/
inductive Kind where
  | write | mark | flush | read | space | locate | rewind | load | unload | tune | report | check
  deriving DecidableEq, Repr

/-- The kind a code names (10.9.1); others name none. -/
def kindOfCode : Nat → Option Kind
  | 1 => some .write | 2 => some .mark | 3 => some .flush | 4 => some .read | 5 => some .space | 6 => some .locate
  | 7 => some .rewind | 8 => some .load | 9 => some .unload | 10 => some .tune | 11 => some .report
  | 12 => some .check | _ => none

/-- The address of a slot (R160). -/
def slotAddress (base slot : Nat) : Nat := base + 4096 + 256 * slot

/-- A slot's state byte: 1 is POSTED, 2 TAKEN, 3 DONE; every other value is treated as FREE (R165). -/
def slotState (s : State) (slot : Nat) : Nat := (memRead s.mem (slotAddress (exchangeBase s) slot)).toNat

/-- A slot's ticket. -/
def slotTicket (s : State) (slot : Nat) : Ticket :=
  BitVec.ofNat 16 (fromBytes (memReadN s.mem (slotAddress (exchangeBase s) slot + 4) 2))

/-- The slots found POSTED with a ticket, in slot order (R167). -/
def postedSlots (s : State) (t : Ticket) : List Nat :=
  (List.range 16).filter (fun i => slotState s i = 1 && slotTicket s i = t)

/-- The order in a slot, as EXU copies it (R168). -/
def slotOrder (s : State) (slot : Nat) : OrderRec :=
  let a := slotAddress (exchangeBase s) slot
  { kind := (memRead s.mem (a + 1)).toNat
    flags := BitVec.ofNat 16 (fromBytes (memReadN s.mem (a + 2) 2))
    ticket := slotTicket s slot
    count := fromBytes (memReadN s.mem (a + 6) 2)
    body := memReadN s.mem (a + 16) 128 }

/-- A field of the body, by its offset in the slot. -/
def bodyField (r : OrderRec) (o n : Nat) : Nat := field r.body (o - 16) n

/-- Flag bit 0, SYNC. -/
def OrderRec.sync (r : OrderRec) : Bool := r.flags.getLsbD 0
/-- Flag bit 1, PLAIN. -/
def OrderRec.plain (r : OrderRec) : Bool := r.flags.getLsbD 1
/-- Flag bit 2, CLEAR. -/
def OrderRec.clear (r : OrderRec) : Bool := r.flags.getLsbD 2

/-- An extent: start address and length. -/
structure Extent where
  start  : Nat
  length : Nat
  deriving DecidableEq, Repr

/-- Descriptor `i` of a WRITE or READ (10.9.2). -/
def descriptor (r : OrderRec) (i : Nat) : Extent := ⟨bodyField r (16 + 8 * i) 4, bodyField r (20 + 8 * i) 4⟩

/-- The descriptors a WRITE or READ lists. -/
def descriptors (r : OrderRec) : List Extent := (List.range r.count).map (descriptor r)

/-- The destination of a REPORT: 1,536 bytes (R195). -/
def reportExtent (r : OrderRec) : Extent := ⟨bodyField r 16 4, 1536⟩
/-- The source of a CHECK. -/
def checkSource (r : OrderRec) : Extent := ⟨bodyField r 16 4, bodyField r 20 4⟩
/-- The destination of a CHECK. -/
def checkDestination (r : OrderRec) : Extent := ⟨bodyField r 24 4, bodyField r 28 4⟩

/-- Some byte of one range lies within another. -/
def overlaps (a n b m : Nat) : Bool := decide (0 < n) && decide (0 < m) && decide (a < b + m) && decide (b < a + n)

/-- R25: an extent passes when it lies within memory, outside the exchange area and outside the store. -/
def extentPasses (s : State) (e : Extent) : Bool :=
  decide (e.start + e.length ≤ memoryBytes)
  && !overlaps e.start e.length (exchangeBase s) exchangeBytes
  && !overlaps e.start e.length s.bsm.base (s.bsm.frames.length * frameBytes)

/-! ### The setup record (10.9.4) -/

/-- The head history block as the setup record gives it (10.9.5). -/
structure HeadHistory where
  scores  : List Nat
  states  : List Nat
  call    : Nat
  worn    : Nat
  fence   : Nat
  seconds : Nat
  bundles : Nat
  deriving DecidableEq, Repr

/-- The setup record, field by field. -/
structure Setup where
  firstTicket : Nat
  storeBase   : Nat
  frames      : Nat
  /-- the 19 tunables, by TUNE bit -/
  tunables    : List Nat
  history     : Option HeadHistory
  deriving DecidableEq, Repr

/-- The head history block read from 64 bytes. -/
def readHistory (b : List Byte) : HeadHistory where
  scores := (List.range 16).map (fun c => field b (2 * c) 2)
  states := (List.range 16).map (fun c => field b (32 + c) 1)
  call := field b 48 1
  worn := field b 49 1
  fence := field b 50 1
  seconds := field b 52 4
  bundles := field b 56 4

/-- The setup record read from its 512 bytes: tunable `j` lies at 20 + 4 j (10.9.4). -/
def readSetup (b : List Byte) : Setup where
  firstTicket := field b 8 2
  storeBase := field b 12 4
  frames := field b 16 4
  tunables := (List.range 19).map (fun j => field b (20 + 4 * j) 4)
  history := if field b 96 4 = 0 then none else some (readHistory ((b.drop 128).take 64))

/-- R112: a speed table entry clamped. -/
def clampSpeed (v : Nat) : Nat := clamp 8192 262144 v

/-- R112: the first entry not above the one before, by its place in the table. -/
def firstNotAscending : Nat → List Nat → Option Nat
  | i, a :: b :: rest => if a < b then firstNotAscending (i + 1) (b :: rest) else some (i + 1)
  | _, _ => none

/-- R156: the field number of the head history block at fault, if any. -/
def historyFault (h : HeadHistory) : Option Nat :=
  let retired := (h.states.filter (fun x => x = 1)).length
  if h.states.any (fun x => 1 < x) then some 26
  else if 4 < retired then some 26
  else if 2 < h.call then some 27
  else if 1 < h.worn then some 28
  else if 1 < h.fence then some 29
  else if h.fence = 1 && retired < 4 then some 29
  else none

/-- R162: the structural checks in order: the field number of the first that fails. `a` is the address of the
exchange area (R24, R112, R156). -/
def setupFault (a : Nat) (r : Setup) : Option Nat :=
  let len := r.frames * frameBytes
  if r.storeBase % 4096 ≠ 0 || memoryBytes < r.storeBase + len || overlaps r.storeBase len a exchangeBytes then some 3
  else if r.frames < 8 || 128 < r.frames then some 4
  else
    match firstNotAscending 0 ((r.tunables.drop 13).map clampSpeed) with
    | some i => some (18 + i)
    | none =>
      match r.history with
      | some h => historyFault h
      | none => none

end Sys2Proof.Machine
end

