-- ==== Sys2Proof/Machine/Exchange.lean ====
section
/-! DEFINITION. The exchange unit's accesses to the exchange area, each done at a grant of the memory port (R160): detail
cells (R173), results and completions (R169, R172, R182), the look for the next order and its taking (R167, R168), the
slots of an abort (R170). -/

namespace Sys2Proof.Machine

/-- The number of a status (10.9.3). -/
def Status.code : Status → Nat
  | .ok => 0 | .doneShort => 1 | .aborted => 2 | .badOrder => 3 | .badRecordLength => 4 | .memoryFault => 5
  | .noTape => 6 | .notReady => 7 | .cleanerLoaded => 8 | .cleanerExpired => 9 | .writeProtected => 10
  | .appendOnlyRefused => 11 | .headFenced => 12 | .writeFault => 13 | .mediaError => 14 | .notFound => 15
  | .endOfMedia => 16 | .motionFault => 17 | .speedFault => 18 | .cmFault => 19 | .deferredError => 20
  | .duplicateTicket => 21

/-- The number of a reason (10.9.3). -/
def Reason.code : Reason → Nat
  | .none => 0 | .markMet => 1 | .endOfData => 2 | .botMet => 3

/-- The number of a permanent write fault's reason (10.9.6, R181). -/
def FaultReason.code : FaultReason → Nat
  | .rowFailure => 1 | .endOfMedia => 2

/-- An entry of the per-extent table: bits 0 to 24 the length, bit 31 OVERLENGTH (10.9.3). -/
def extentEntry (e : ExtentResult) : Nat := e.length % 33554432 + (if e.overlength then 2147483648 else 0)

/-- The per-extent table: 16 entries, 0 for an extent that received no record. -/
def extentTable (es : List ExtentResult) : List Byte :=
  ((List.range 16).map (fun i => toBytes 4 (match es[i]? with | some e => extentEntry e | none => 0))).flatten

/-- The 112 bytes of a result area (10.9.3). -/
def resultBytes (r : OrderResult) : List Byte :=
  toBytes 1 r.status.code ++ toBytes 1 r.reason.code ++ toBytes 2 r.flags ++ toBytes 4 r.a ++ toBytes 4 r.b
    ++ toBytes 4 r.c ++ toBytes 4 r.d ++ List.replicate 12 0 ++ extentTable r.extents ++ List.replicate 16 0

/-- The bytes of the setup record's binding outcome field that are written: its first four (10.9.4). Where the outcome is BOUND
no field is at fault, and the field number is written 0 (log 33). -/
def outcomeBytes : BindOutcome → List Byte
  | .setupBad n => toBytes 1 2 ++ toBytes 1 0 ++ toBytes 2 n
  | .bound => toBytes 1 3 ++ toBytes 1 0 ++ toBytes 2 0
  | .boundClamped => toBytes 1 3 ++ toBytes 1 1 ++ toBytes 2 0
  | .none | .baseBad => []

/-! ### The accesses of EXU to the exchange area, each done at its grant (R160, R165, R169, R173) -/

/-- A slot's state byte written. -/
def writeSlotState (slot : Nat) (v : Byte) (s : State) : State :=
  { s with mem := memWrite s.mem (slotAddress (exchangeBase s) slot) v }

/-- A slot's result area written (R169). -/
def writeResult (slot : Nat) (r : OrderResult) (s : State) : State :=
  { s with mem := memWriteN s.mem (slotAddress (exchangeBase s) slot + 144) (resultBytes r) }

/-- Accesses that go on from the one just done, put before those that wait. -/
def goOn (ws : List ExuWork) (s : State) : State := { s with exu.work := ws ++ s.exu.work }

/-- COMPLETIONS noted with the count held and the ticket of the latest completion (R172). -/
def noteCompletions (s : State) : State :=
  noteRaise .completions s.exu.count s.exu.lastTicket.toNat 0 { s with exu.count := 0, exu.quietTimer := none }

/-- R172: one completion counted, of the slot with ticket `t`. -/
def countCompletion (t : Ticket) (s : State) : State :=
  let s := { s with exu.count := bump16 s.exu.count, exu.lastTicket := t }
  if s.exu.trigger ≤ s.exu.count || s.exu.quietTime = 0 then noteCompletions s
  else { s with exu.quietTimer := some (after s s.exu.quietTime) }

/-- The result of a slot completed by EXU without its order being taken: the status alone (R182). -/
def statusOnly (st : Status) : OrderResult := ⟨st, .none, 0, 0, 0, 0, 0, []⟩

/-- Slots to be set DONE with a status, in slot order: each one's result area, then its state (R167, R170). -/
def finishWork (st : Status) (t : Ticket) (slots : List Nat) : List ExuWork :=
  slots.flatMap (fun i => [.result i (statusOnly st), .done i t false])

/-- An access that belongs to a look, before its order is TAKEN. -/
def ExuWork.looks : ExuWork → Bool
  | .scan .look _ _ _ | .copy _ _ _ | .taken _ _ _ _ => true
  | .scan .abort _ _ _ | .cell _ _ _ | .held _ _ | .outcome _ _ | .result _ _ | .done _ _ _ => false

/-- An access that sets the TAKEN order's slot DONE. -/
def ExuWork.completes : ExuWork → Bool
  | .done _ _ active => active
  | .scan _ _ _ _ | .cell _ _ _ | .held _ _ | .outcome _ _ | .result _ _ | .copy _ _ _ | .taken _ _ _ _ => false

/-- R167: EXU is BOUND, no order is TAKEN, and the post mark differs from the taken mark. -/
def lookWanted (s : State) : Bool := s.exu.bind = .bound && s.exu.active.isNone && s.exu.postMark ≠ s.exu.takenMark

/-- R167: the look for the ticket after the taken mark, from the first slot on, where one is wanted and none is in hand. -/
def lookWork (s : State) : List ExuWork :=
  if lookWanted s && !s.exu.work.any ExuWork.looks then [.scan .look (s.exu.takenMark + 1) 0 []] else []

/-- ORD's record made absent when it hands over a completion, and what it held for the order (R178). -/
def dropOrder (s : State) : State :=
  { s with ord.record := none, ord.stage := .checking, ord.releaseMark := none, ord.find := none,
           ord.append := none, ord.outcome := none }

/-- R169, R178: the completion of the TAKEN order handed to EXU: its result is to be written, and then DONE. -/
def handOver (r : OrderResult) (s : State) : State :=
  match s.exu.active with
  | some (slot, t) =>
    if s.exu.work.any ExuWork.completes then s else queueWork [.result slot r, .done slot t true] (dropOrder s)
  | none => s

/-- R178: what ORD clears at a taking. -/
def clearProgress (s : State) : State :=
  { s with ord.stage := .checking, ord.releaseMark := none, ord.records := 0, ord.marks := 0, ord.firstObject := none,
           ord.delivered := 0, ord.extents := [], ord.residual := 0, ord.discardSeen := false, ord.find := none,
           ord.lastHeader := none, ord.lastPlace := none, ord.located := none, ord.outcome := none, ord.append := none,
           ord.fenceSeen := false, ord.loadAborted := false, ord.expired := false, ord.passDone := false,
           ord.unloadFault := false, ord.recovering := false }

/-- R168: the order copied from a slot becomes the active order record, TAKEN is written, and the taken mark set. -/
def takeOrder (slot : Nat) (t : Ticket) (r : OrderRec) (s : State) : State :=
  let s := clearProgress (writeSlotState slot 2 s)
  { s with ord.record := some r, exu.active := some (slot, t), exu.takenMark := t }

/-- R179 step 1, for an order just taken: a kind code that is none of the twelve ends it with BAD_ORDER, the
offset at fault being that of the kind field. The other checks belong to the order's own command (log 5). -/
def rejectBadKind (s : State) : State :=
  match s.ord.record with
  | some r =>
    if (kindOfCode r.kind).isSome then s
    else handOver ⟨.badOrder, .none, 0, 1, s.ord.position, 0, 0, []⟩ s
  | none => s

/-- R168: the ticket sought is on no slot. -/
def stall (t : Ticket) (s : State) : State := noteRaise .exchangeFault t.toNat 2 0 { s with exu.bind := .stalled }

/-- R166, R167: a look for a ticket still stands: the ticket is the next, and a POST write has not made it needless (log 6). -/
def lookStands (t : Ticket) (s : State) : Bool := lookWanted s && decide (t = s.exu.takenMark + 1)

/-- R167: the slots have been read for a look: the ticket is passed over, or the lowest slot found is taken, or EXU stalls. -/
def lookScanned (t : Ticket) (found : List Nat) (s : State) : State :=
  if !lookStands t s then s
  else if s.exu.passedOver.contains t then
    let s := { s with exu.passedOver := s.exu.passedOver.filter (fun x => x ≠ t), exu.takenMark := t }
    goOn (finishWork .duplicateTicket t found ++ lookWork s) s
  else
    match found with
    | slot :: others => goOn [.copy slot t others] s
    | [] => stall t s

/-- R170: a ticket entered in the passed-over list, once. -/
def passOver (t : Ticket) (s : State) : State :=
  if s.exu.passedOver.contains t then s else { s with exu.passedOver := s.exu.passedOver ++ [t] }

/-- R170: the abort is unmatched. -/
def abortUnmatched (t : Ticket) (s : State) : State :=
  noteRaise .exchangeFault t.toNat 4 0 { s with exu.abortOutcome := 3 }

/-- R170: the slots have been read for an abort: those found are to be set DONE with ABORTED. -/
def abortScanned (t : Ticket) (found : List Nat) (s : State) : State :=
  if found.isEmpty then abortUnmatched t s
  else goOn (finishWork .aborted t found) (passOver t { s with exu.abortOutcome := 2 })

/-- The slots have been read. -/
def scanned (why : ScanFor) (t : Ticket) (found : List Nat) (s : State) : State :=
  match why with
  | .look => lookScanned t found s
  | .abort => abortScanned t found s

/-- R167: one slot's state, kind and ticket read. -/
def readSlot (why : ScanFor) (t : Ticket) (i : Nat) (found : List Nat) (s : State) : State :=
  let found := if slotState s i = 1 && slotTicket s i = t then found ++ [i] else found
  if i < 15 then goOn [.scan why t (i + 1) found] s else scanned why t found s

/-- A held detail made absent (R164). -/
def dropHeld (c : Condition) (s : State) : State :=
  match c with
  | .cartridge => { s with exu.heldCartridge := none }
  | .tapeReady => { s with exu.heldTapeReady := none }
  | .dataDiscarded => { s with exu.heldDiscarded := none }
  | .completions | .exchangeFault | .cleanCall | .headWorn | .fenced | .deferredFault | .directoryStale
  | .motionFault | .earlyWarning | .cleanerExpired | .channelRetired | .cmFault => s

/-- R162, R164: the binding outcome field written, and the outcome set to match; a binding that failed is over. -/
def writeOutcome (base : Nat) (o : BindOutcome) (s : State) : State :=
  let s := { s with mem := memWriteN s.mem base (outcomeBytes o), exu.outcome := o }
  match o with
  | .setupBad _ => { s with exu.binding := none }
  | .bound | .boundClamped | .none | .baseBad => s

/-- R169: the slot of the TAKEN order is DONE: no slot is active. -/
def endActive (active : Bool) (s : State) : State := if active then { s with exu.active := none } else s

/-- R169: the look for the next order, after the completion of the TAKEN one. -/
def lookAfter (active : Bool) (s : State) : State := if active then queueWork (lookWork s) s else s

/-- An access done, and what comes of it (R160 to R173). -/
def perform (w : ExuWork) (s : State) : State :=
  match w with
  | .cell c d n => setCond c (writeCell c d n s)
  | .held c d => dropHeld c (writeCell c d 1 s)
  | .outcome base o => writeOutcome base o s
  | .result slot r => writeResult slot r s
  | .done slot t active => lookAfter active (countCompletion t (endActive active (writeSlotState slot 3 s)))
  | .scan why t i found => readSlot why t i found s
  | .copy slot t others => goOn [.taken slot t (slotOrder s slot) others] s
  | .taken slot t r others =>
    if lookStands t s then goOn (finishWork .duplicateTicket t others) (rejectBadKind (takeOrder slot t r s)) else s

/-- The oldest access granted and done (R38). -/
def serveOne (s : State) : State :=
  match s.exu.work with
  | w :: ws => perform w (recordExuGrant { s with exu.work := ws })
  | [] => s

/-- The accesses done while the port is free and goes to EXU; the number is fuel. -/
def serve : Nat → State → State
  | 0, s => s
  | k + 1, s => if exuNext s then serve k (serveOne s) else s

/-- How many accesses may follow from one, at most. -/
def ExuWork.weight : ExuWork → Nat
  | .cell _ _ _ | .held _ _ | .outcome _ _ | .result _ _ => 1
  | .done _ _ active => if active then 72 else 2
  | .scan _ _ i found => 4 * (16 - i) + 5 + 3 * found.length
  | .copy _ _ others => 3 * others.length + 2
  | .taken _ _ _ others => 3 * others.length + 1

/-- How many accesses may follow in all, at most (Sys2Proof.Laws.Exchange). -/
def workBound (s : State) : Nat :=
  (s.exu.work.map ExuWork.weight).sum + 100 * (s.exu.postMark - s.exu.takenMark).toNat

/-- The accesses that wait are done at once where nothing else asks for the port; else they wait for the grant (R38, log 6). -/
def serveFree (s : State) : State := if portFree s then serve (workBound s) s else s

/-- A condition raised with details A, B and C (R173, R174). Its cell is written at once where nothing else asks for the port, and
else waits for the grant (R38, log 6). -/
def raise (c : Condition) (a b c' : Nat) (s : State) : State :=
  if portFree s && !exuWaits s then serveOne (noteRaise c a b c' s) else noteRaise c a b c' s

/-- COMPLETIONS raised with the count held and the ticket of the latest completion (R172). -/
def raiseCompletions (s : State) : State :=
  raise .completions s.exu.count s.exu.lastTicket.toNat 0 { s with exu.count := 0, exu.quietTimer := none }

/-- R169: the completion of the TAKEN order: its result written, DONE written, the active slot made absent, one completion
counted, and the look for the next order. -/
def finishActive (r : OrderResult) (s : State) : State := serveFree (handOver r s)

/-- R167: EXU looks for the next order, where one is wanted. -/
def lookForOrder (s : State) : State := serveFree (queueWork (lookWork s) s)

/-! ### Composing results (R182) -/

/-- The kind of the TAKEN order. -/
def takenKind (s : State) : Option Kind :=
  match s.ord.record with
  | some r => kindOfCode r.kind
  | none => none

/-- The TAKEN order is of this kind and at this stage. -/
def atStage (s : State) (k : Kind) (st : Stage) : Bool := takenKind s = some k && s.ord.stage = st

/-- The TAKEN order is a WRITE or MARK. -/
def takenWrites (s : State) : Bool := takenKind s = some .write || takenKind s = some .mark

/-- R60, R182: the EW flag. -/
def ewBit (s : State) : Nat :=
  if s.fmt.ewFlag && (takenWrites s || takenKind s = some .flush) then 1 else 0

/-- Result flags (10.9.3): bit 0 EW, 1 REBUILT, 2 DATA_DISCARDED, 3 CLAMPED. -/
def resultFlags (s : State) (rebuilt discarded clamped : Bool) : Nat :=
  ewBit s + (if rebuilt then 2 else 0) + (if discarded then 4 else 0) + (if clamped then 8 else 0)

/-- Cartridge type as value A of a LOAD gives it (R182). -/
def cartTypeCode (s : State) : Nat :=
  match s.cml.copy with
  | some c => match c.type with | some .data => 0 | some .appendOnly => 1 | some .cleaning => 2 | none => 3
  | none => 3

/-- R132, R182: the type of the cartridge of a LOAD: a LOAD in its CLEANING stage has a cleaning cartridge, also once
the eject has taken the copy away. -/
def loadTypeCode (s : State) : Nat := if atStage s .load .loadCleaning then 2 else cartTypeCode s

/-- The signed count of a SPACE. -/
def spaceCount (r : OrderRec) : Int := signed32 (bodyField r 16 4)

/-- The residual of a SPACE with the sign of its count, as 32 bits (R190). -/
def residualValue (s : State) : Nat :=
  match s.ord.record with
  | some r => if spaceCount r < 0 then (4294967296 - s.ord.residual) % 4294967296 else s.ord.residual
  | none => 0

/-- The object number of the first object committed or delivered, or the logical position (R182). -/
def firstObjectValue (s : State) : Nat := s.ord.firstObject.getD s.ord.position

/-- Value A of a result, by kind (R182). -/
def valueA (s : State) : Nat :=
  match takenKind s with
  | some .write => s.ord.records
  | some .mark => s.ord.marks
  | some .read => s.ord.delivered
  | some .space => residualValue s
  | some .load => loadTypeCode s
  | some .flush | some .locate | some .rewind | some .unload | some .tune | some .report | some .check | none => 0

/-- Value C of a result, by kind (R182). -/
def valueC (s : State) : Nat :=
  match takenKind s with
  | some .write | some .read => firstObjectValue s
  | some .mark => s.ord.firstObject.getD (Config.firstMarkOfNone s.ord.position)
  | some .locate => orAbsent s.ord.located
  | some .load => orAbsent (s.cml.map.map (fun m => m.eodObject))
  | some .flush | some .space | some .rewind | some .unload | some .tune | some .report | some .check | none => 0

/-- Value D of a result, by kind (R182); `bundle` is that of a WRITE_FAULT or END_OF_MEDIA. -/
def valueD (s : State) (bundle : Nat) : Nat :=
  match takenKind s with
  | some .write | some .mark | some .flush => bundle
  | some .load => orAbsent (s.cml.map.map (fun m => m.eodBundle))
  | some .read | some .space | some .locate | some .rewind | some .unload | some .tune | some .report
  | some .check | none => 0

/-- The per-extent table of a result: a READ's alone (R77). -/
def resultExtents (s : State) : List ExtentResult := if takenKind s = some .read then s.ord.extents else []

/-- R114: the completion of a LOAD ends SPM's session. -/
def loadEnds (s : State) : State := if takenKind s = some .load then endSession s else s

/-- The TAKEN order completed, its result composed as R182 states. -/
def completeFull (st : Status) (rs : Reason) (bundle : Nat) (rebuilt : Bool) (s : State) : State :=
  finishActive ⟨st, rs, resultFlags s rebuilt s.ord.discardSeen false, valueA s, s.ord.position, valueC s,
    valueD s bundle, resultExtents s⟩ (loadEnds s)

/-- The TAKEN order completed with a status and reason. -/
def complete (st : Status) (rs : Reason) (s : State) : State := completeFull st rs 0 false s

/-- The TAKEN order ended at a take-time check (R179): value A names a field for BAD_ORDER and
BAD_RECORD_LENGTH, and is 0 otherwise. -/
def refuseOrder (st : Status) (fieldOffset : Nat) (s : State) : State :=
  finishActive ⟨st, .none, resultFlags s false s.ord.discardSeen false, fieldOffset, s.ord.position, 0, 0, []⟩ s

end Sys2Proof.Machine
end

