-- ==== Sys2Proof/Machine/HeadCare.lean ====
section
/-! DEFINITION. The head care monitor (chapter 8): wear events, the evaluation, retirement, the fence, the
clean call, the worn flag, cleaning, thresholds and the head history block. -/

namespace Sys2Proof.Machine

/-- The number of a clean call (10.9.5). -/
def CleanCall.code : CleanCall → Nat
  | .none => 0 | .advised => 1 | .required => 2

/-- The number of ACTIVE channels. -/
def activeCount (cs : List Channel) : Nat := (cs.filter (fun c => c.active)).length

/-- The sum of the ACTIVE scores. -/
def activeSum : List Channel → Nat
  | [] => 0
  | c :: cs => (if c.active then c.score else 0) + activeSum cs

/-- A channel placed among others: descending score, equal scores in ascending channel number (R151). -/
def insertByScore (x : Nat × Channel) : List (Nat × Channel) → List (Nat × Channel)
  | [] => [x]
  | y :: ys => if y.2.score < x.2.score then x :: y :: ys else y :: insertByScore x ys

/-- R151: the ACTIVE channels at or above the retire threshold, in the order they are taken. -/
def retirees (h : Hcm) : List (Nat × Channel) :=
  ((numbered 0 h.channels).filter (fun c => c.2.active && decide (h.retire ≤ c.2.score))).foldl
    (fun acc c => insertByScore c acc) []

/-- R151: a channel retired. -/
def retireChannel (c score : Nat) (s : State) : State :=
  let s := { s with hcm.channels := modifyAt (fun x => { x with active := false }) s.hcm.channels c,
                    hcm.n := s.hcm.n - 1, hcm.retirements := bump s.hcm.retirements }
  raise .channelRetired score c s.hcm.n s

/-- R152: a channel fences the head. -/
def fenceHead (c score : Nat) (s : State) : State :=
  if s.hcm.fence then s
  else emit .fenced (raise .fenced score c 0 { s with hcm.fence := true, hcm.fences := bump s.hcm.fences })

/-- R151, R152: one channel that has reached the retire threshold. -/
def retireOrFence (c score : Nat) (s : State) : State :=
  if 12 < s.hcm.n then retireChannel c score s else fenceHead c score s

/-- Step 1 of the evaluation (R148): the retirement test. -/
def retirementTest : List (Nat × Channel) → State → State
  | [], s => s
  | c :: cs, s => retirementTest cs (retireOrFence c.1 c.2.score s)

/-- Step 2: the head index (R149). -/
def computeHeadIndex (s : State) : State := { s with hcm.h := activeSum s.hcm.channels / s.hcm.n }

/-- R150: the call and cause that the conditions give, none when they bring no call. The cause of a rise with both the
fence set and H at or above require is HEAD_INDEX, as R150's order has it, R152 notwithstanding (log 78). -/
def callWanted (h : Hcm) : Option (CleanCall × Nat) :=
  if h.require ≤ h.h then some (.required, 1)
  else if h.fence then some (.required, 3)
  else if h.advise ≤ h.h then some (.advised, 1)
  else if h.hours ≤ h.seconds then some (.advised, 2)
  else none

/-- R150: a call held against a call wanted. -/
def callRises (held wanted : CleanCall) : Bool := held.code < wanted.code

/-- Step 4 of the evaluation (R153): the worn test. -/
def wornTest (s : State) : State :=
  if s.hcm.bundles < 500 && !s.hcm.worn then raise .headWorn s.hcm.bundles 0 0 { s with hcm.worn := true } else s

/-- The clean call raised to a new state for a cause (R150). -/
def raiseCall (call : CleanCall) (cause : Nat) (s : State) : State :=
  raise .cleanCall 0 call.code cause { s with hcm.call := call, hcm.rises := bump s.hcm.rises }

/-- Steps 3 and 4: the clean call, and the worn test when it became REQUIRED. -/
def callTest (s : State) : State :=
  match callWanted s.hcm with
  | some (call, cause) =>
    if callRises s.hcm.call call then
      (if call = .required then wornTest (raiseCall call cause s) else raiseCall call cause s)
    else s
  | none => s

/-- R148: the evaluation. -/
def evaluate (s : State) : State := callTest (computeHeadIndex (retirementTest (retirees s.hcm) s))

/-- R145: a weight added to the score of an ACTIVE channel, saturating at 65,535. -/
def addWear (w : Nat) (c : Channel) : Channel := if c.active then { c with score := min (c.score + w) 65535 } else c

/-- R145: a wear event of a channel with its weight (REWRITE 16, EXHAUSTED 256, LOST_READ 8). -/
def wearEvent (c w : Nat) (s : State) : State :=
  evaluate { s with hcm.channels := modifyAt (addWear w) s.hcm.channels c }

/-- R146: a channel eased by one sixty-fourth. -/
def easeChannel (c : Channel) : Channel := if c.active then { c with score := c.score - c.score / 64 } else c

/-- R146: the release of a bundle. -/
def bundleVerified (s : State) : State :=
  evaluate { s with hcm.channels := s.hcm.channels.map easeChannel, hcm.bundles := bump s.hcm.bundles }

/-- R147: one motion second. -/
def addMotionSecond (s : State) : State := evaluate { s with hcm.seconds := bump s.hcm.seconds }

/-- R154: a channel's score quartered, the channel returned to service unless the head is worn. -/
def cleanChannel (worn : Bool) (c : Channel) : Channel := ⟨c.score / 4, c.active || !worn⟩

/-- R154: cleaning done. -/
def applyCleaning (s : State) : State :=
  evaluate { s with hcm.channels := s.hcm.channels.map (cleanChannel s.hcm.worn),
                    hcm.n := if s.hcm.worn then s.hcm.n else 16,
                    hcm.fence := false, hcm.call := .none, hcm.seconds := 0, hcm.bundles := 0,
                    hcm.cleanings := bump s.hcm.cleanings }

/-- R144: the thresholds clamped, each to its range, the order of the scores enforced. -/
def setThresholds (advise require retire hours : Nat) (s : State) : State :=
  let a := clamp 256 32768 advise
  let q := max a (min 49152 require)
  let r := max q (min 65535 retire)
  { s with hcm.advise := a, hcm.require := q, hcm.retire := r, hcm.hours := clamp 3600 1800000 hours }

/-- The clean call a number names (10.9.5). -/
def callOfCode : Nat → CleanCall
  | 0 => .none | 1 => .advised | _ => .required

/-- R156: the channels of a head history block. -/
def historyChannels (b : HeadHistory) : List Channel :=
  (List.range 16).map (fun c => ⟨b.scores.getD c 0, b.states.getD c 0 = 0⟩)

/-- R156: HCM's state replaced by a head history block. -/
def restoreHistory (b : HeadHistory) (s : State) : State :=
  { s with hcm.channels := historyChannels b, hcm.n := activeCount (historyChannels b),
           hcm.call := callOfCode b.call, hcm.worn := b.worn = 1, hcm.fence := b.fence = 1,
           hcm.seconds := b.seconds, hcm.bundles := b.bundles }

/-- R155: the 64 bytes of the head history block. -/
def headHistoryBlock (h : Hcm) : List Byte :=
  (h.channels.map (fun c => toBytes 2 c.score)).flatten
    ++ (h.channels.map (fun c => toBytes 1 (if c.active then 0 else 1))).flatten
    ++ toBytes 1 h.call.code ++ toBytes 1 h.worn.toNat ++ toBytes 1 h.fence.toNat ++ toBytes 1 0
    ++ toBytes 4 h.seconds ++ toBytes 4 h.bundles ++ toBytes 4 0

end Sys2Proof.Machine
end

