-- ==== Sys2Proof/Machine/Speed.lean ====
section
/-! DEFINITION. The speed matcher (chapter 6): effective rates, sessions and seeding, excluded time, samples,
smoothing, the fill adjustment, the choice and the step-down. -/

namespace Sys2Proof.Machine

/-- R113: the effective rate of speed `k`. -/
def effectiveRate (s : State) (k : Nat) : Nat := s.spm.table.getD k 0 * s.hcm.n / 16

/-- R114: a session begun and seeded from the effective rate of the current speed. -/
def seedSession (kind : SessionKind) (s : State) : State :=
  { s with spm.session := kind, spm.rate := effectiveRate s s.mot.speed, spm.start := some s.timebase,
           spm.excluded := 0, spm.openSince := none, spm.vote := none, spm.next := s.mot.speed }

/-- R114: a WRITE session begins when a frame becomes OPEN, unless one stands. -/
def beginWriteSession (s : State) : State := if s.spm.session = .write then s else seedSession .write s

/-- R114: a READ session begins whatever session stands. -/
def beginReadSession (s : State) : State := seedSession .read s

/-- R115: the start of a blocked interval or of a wait. -/
def exclusionStart (s : State) : State := { s with spm.openSince := some s.timebase }

/-- R115: its end. -/
def exclusionEnd (s : State) : State :=
  match s.spm.openSince with
  | some t => { s with spm.excluded := min (s.spm.excluded + interval t s.timebase) maxWord, spm.openSince := none }
  | none => s

/-- R116: the elapsed time of the interval, less the excluded time, not below 1. -/
def sampleTime (s : State) : Nat :=
  max 1 (interval (s.spm.start.getD s.timebase) s.timebase - s.spm.excluded)

/-- R116: the sample of `p` payload bytes in `t` milliseconds. -/
def sampleOf (p t : Nat) : Nat := p * 1000 / (t * 1024)

/-- R118: the smoothed rate moved toward a sample by an eighth of the difference, truncated toward zero. -/
def smooth (r sample : Nat) : Nat := ((r : Int) + trunc ((sample : Int) - (r : Int)) 8).toNat

/-- R119: the demand, from the rate, the waiting frames and the frame count. -/
def demand (kind : SessionKind) (r waiting frames : Nat) : Nat :=
  let more := if kind = .write then r + r / 4 else r - r / 4
  let less := if kind = .write then r - r / 4 else r + r / 4
  if frames * 3 ≤ waiting * 4 then more else if waiting * 8 ≤ frames then less else r

/-- R120: the lowest speed index whose effective rate reaches the demand, 5 if none does. -/
def chooseSpeed (s : State) (d : Nat) : Nat :=
  ((List.range 6).find? (fun k => decide (d ≤ effectiveRate s k))).getD 5

/-- R121: the next speed set from the choice and the current speed. -/
def applyChoice (k : Nat) (s : State) : State :=
  let c := s.mot.speed
  let s := { s with spm.lastChoice := some k }
  if c < k then { s with spm.next := k, spm.vote := none, spm.rises := bump s.spm.rises }
  else if k = c then { s with spm.next := c, spm.vote := none }
  else
    match s.spm.vote with
    | none => { s with spm.next := c, spm.vote := some k }
    | some v => { s with spm.next := max k v, spm.vote := none, spm.falls := bump s.spm.falls }

/-- R118 to R121: a sample smoothed, adjusted for fill, and the choice made. -/
def useSample (sample waiting : Nat) (s : State) : State :=
  let r := smooth s.spm.rate sample
  let d := demand s.spm.session r waiting s.bsm.frames.length
  let s := { s with spm.rate := r, spm.lastSample := some sample, spm.lastDemand := some d }
  applyChoice (chooseSpeed s d) s

/-- R116: the interval restarted. -/
def restartInterval (s : State) : State := { s with spm.start := some s.timebase, spm.excluded := 0 }

/-- R116: a seal handed to SPM, of a bundle with `p` payload bytes used. A frame's OPEN report reaches SPM in the step
that opens it, so a seal finds no session only where one ended after that report; it is then not sampled (log 55). -/
def writeSample (p : Nat) (s : State) : State :=
  if s.spm.session ≠ .write then s
  else if p = 0 then restartInterval s
  else
    let sample := sampleOf p (sampleTime s)
    let s := restartInterval { s with spm.writeSamples := bump s.spm.writeSamples }
    useSample sample (frameCount s .sealed) s

/-- R117: a drain event handed to SPM, of a bundle with `p` payload bytes used. -/
def readSample (p : Nat) (s : State) : State :=
  if s.spm.session ≠ .read then s
  else if p = 0 then restartInterval s
  else
    let sample := sampleOf p (sampleTime s)
    let s := restartInterval { s with spm.readSamples := bump s.spm.readSamples }
    useSample sample (frameCount s .decoded + frameCount s .draining) s

/-- R123: a step-down at an underrun stop or a read overrun stop. -/
def stepDown (s : State) : State :=
  let lowered := decide (0 < s.mot.speed)
  let s := { s with mot.speed := s.mot.speed - 1 }
  { s with spm.rate := min s.spm.rate (effectiveRate s s.mot.speed), spm.vote := none, spm.next := s.mot.speed,
           spm.stepDowns := if lowered then bump s.spm.stepDowns else s.spm.stepDowns }

/-- R124: SPM after a soft reset and at the end of a cartridge session. -/
def spmSessionReset (s : State) : State :=
  let s := endSession s
  { s with spm.excluded := 0, spm.openSince := none, spm.vote := none, spm.next := s.mot.speed }

end Sys2Proof.Machine
end

