-- ==== Sys2Proof/Machine/Arbiter.lean ====
section
/-! DEFINITION. The memory arbiter (section 2.8): the grant, the transfers in hand, and the bytes a burst moves. -/

namespace Sys2Proof.Machine

/-- The first transfer of a requester. -/
def transferOf (s : State) (r : Requester) : Option Transfer := s.marb.transfers.find? (fun t => t.who = r)

/-- The bytes the next burst of a transfer moves: to the next 512-byte boundary at most (R38). -/
def burstLength (t : Transfer) : Nat := min t.left (512 - t.addr % 512)

/-- The burst granted to a requester. -/
def grantedBurst (s : State) (r : Requester) : Option Burst :=
  match transferOf s r with
  | some t => some ⟨r, burstLength t⟩
  | none => none

/-- R38: the port granted to a requester, and the grant recorded. -/
def grantTo (r : Requester) (wasUrgent : Bool) (s : State) : State :=
  { s with marb.burst := grantedBurst s r,
           marb.lastTape := if r.group = .tape then r else s.marb.lastTape,
           marb.lastGeneral := if r.group = .general then r else s.marb.lastGeneral,
           marb.lastGroup := r.group,
           marb.lastUrgent := if wasUrgent then r else s.marb.lastUrgent }

/-- R38: the port, when free, granted to one of the requests raised. The accesses of EXU to the exchange area are done at
their grants, one burst each (R160, log 6); a burst of a transfer that is granted then holds the port. -/
def grant (s : State) : State :=
  let s := serve (workBound s) s
  if s.marb.burst.isSome then s
  else
    match urgentChoice s with
    | some r => grantTo r true s
    | none =>
      match rotationChoice s with
      | some r => grantTo r false s
      | none => s

/-- A requester's transfer raised, behind those it has in hand. -/
def addTransfer (t : Transfer) (s : State) : State := { s with marb.transfers := s.marb.transfers ++ [t] }

/-- A read of `n` bytes raised. -/
def raiseRead (who : Requester) (p : Purpose) (addr n : Nat) (s : State) : State :=
  addTransfer ⟨who, p, false, addr, n, []⟩ s

/-- A write of bytes raised. -/
def raiseWrite (who : Requester) (p : Purpose) (addr : Nat) (bytes : List Byte) (s : State) : State :=
  addTransfer ⟨who, p, true, addr, bytes.length, bytes⟩ s

/-- The burst in progress is one of a transfer for which a test holds. -/
def burstServes (p : Purpose → Bool) (s : State) : Bool :=
  match s.marb.burst with
  | some b => (transferOf s b.who).any (fun t => p t.purpose)
  | none => false

/-- The transfers for some purposes dropped. A burst of one of them that is in progress holds the port to its end, and
serves nothing (R43, log 7). -/
def dropTransfers (p : Purpose → Bool) (s : State) : State :=
  { s with marb.burst := if burstServes p s then s.marb.burst.map (fun b => { b with len := 0 }) else s.marb.burst,
           marb.transfers := s.marb.transfers.filter (fun t => !p t.purpose) }

/-- A transfer for a purpose is in hand. -/
def transferInHand (s : State) (p : Purpose) : Bool := s.marb.transfers.any (fun t => t.purpose = p)

/-- A transfer after a burst of `n` bytes, given memory. -/
def advanceTransfer (m : Memory) (n : Nat) (t : Transfer) : Transfer :=
  if t.write then { t with addr := t.addr + n, left := t.left - n, data := t.data.drop n }
  else { t with addr := t.addr + n, left := t.left - n, data := t.data ++ memReadN m t.addr n }

/-- Memory after a burst of `n` bytes of a transfer. -/
def burstMemory (m : Memory) (n : Nat) (t : Transfer) : Memory :=
  if t.write then memWriteN m t.addr (t.data.take n) else m

/-- The first transfer of a requester replaced, or removed. -/
def replaceTransfer (r : Requester) (new : Option Transfer) : List Transfer → List Transfer
  | [] => []
  | t :: ts => if t.who = r then new.toList ++ ts else t :: replaceTransfer r new ts

/-- The frames whose rows 0 and 1 hold an address: the frame's number, and the offset in it. -/
def headerFrameAt (s : State) (a : Nat) : Option (Nat × Nat) :=
  if s.bsm.base ≤ a && a < s.bsm.base + s.bsm.frames.length * frameBytes
      && (a - s.bsm.base) % frameBytes < headerBytes then
    some ((a - s.bsm.base) / frameBytes, (a - s.bsm.base) % frameBytes)
  else none

/-- A write in hand has a byte still to put at an address. -/
def stillToWrite (s : State) (a : Nat) : Bool :=
  s.marb.transfers.any (fun t => t.write && t.purpose ≠ .windowWrite && decide (t.addr ≤ a) && decide (a < t.addr + t.left))

/-- R26: a window write within rows 0 and 1 of a frame changes the header and index they hold (log 30), but where a
header, or a row, that is being written there will write over it. -/
def tamperHeader (a : Nat) : List Byte → State → State
  | [], s => s
  | b :: bs, s =>
    match (if stillToWrite s a then none else headerFrameAt s a) with
    | some (i, o) =>
      tamperHeader (a + 1) bs (updateFrame i (fun f =>
        { f with header := (Config.headerAfterWrite f.header f.index o b).1,
                 index := (Config.headerAfterWrite f.header f.index o b).2 }) s)
    | none => tamperHeader (a + 1) bs s

end Sys2Proof.Machine
end

