-- ==== Sys2Proof/Machine/Motion.lean ====
section
/-! DEFINITION. The motion controller (chapter 5): the speed lock, starts, stops and the backhitch, travel,
threading, unthreading, recovery, and the requests the other blocks make of it. -/

namespace Sys2Proof.Machine

/-! ### The speed lock and its timer (R91, R92) -/

/-- The lock level and count set; a fall from LOCKED is counted. -/
def setLock (level : LockLevel) (count : Nat) (s : State) : State :=
  { s with mot.lock := level, mot.lockCount := count,
           mot.lockLosses := if s.mot.lock = .locked && level ≠ .locked then bump s.mot.lockLosses
             else s.mot.lockLosses }

/-- The level falls to UNLOCKED with count 0. -/
def dropLock (s : State) : State := setLock .unlocked 0 s

/-- The lock limit timer started, to expire 2,000 ms later. -/
def startLimit (s : State) : State := { s with mot.limitTimer := some (after s 2000) }

/-- The level and count after one more in-tolerance frame (R91). -/
def inToleranceLevel (m : Mot) : LockLevel × Nat :=
  let n := min (m.lockCount + 1) 64
  if n = 64 then (.locked, n)
  else if n = 32 then (if m.lock = .locked then .locked else .settled, n)
  else (m.lock, n)

/-- The level and count after an out-of-tolerance frame (R91). -/
def outOfToleranceLevel (m : Mot) : LockLevel × Nat :=
  if m.lock = .locked then (.settled, 32) else (.unlocked, 0)

/-- The dwell timer started, unless the dwell time is 0 (R90). -/
def startDwell (s : State) : State :=
  { s with mot.dwellTimer := if s.mot.dwellTime = 0 then none else some (after s (s.mot.dwellTime * 1000)) }

/-! ### Speed adoption (R93) -/

/-- SPM's next speed made the current speed, if it differs. -/
def adoptSpeed (s : State) : State :=
  if s.spm.next = s.mot.speed then s
  else { s with mot.speed := s.spm.next, mot.speedChanges := bump s.mot.speedChanges }

/-- The tape streams. -/
def MotionState.streams : MotionState → Bool
  | .streamingWrite | .streamingRead => true
  | .starting | .stopping | .repositioning | .turning | .travel | .cleaning | .empty | .seated | .threading | .threadedIdle
  | .relaxed | .positioned | .unthreading | .stranded | .faultHeld => false

/-- The adoption at a bundle boundary, in the streaming states alone (R93): a new speed drops the lock and starts the limit timer
(R92). -/
def adoptAtBoundary (s : State) : State :=
  if !s.mot.state.streams || s.spm.next = s.mot.speed then s else startLimit (dropLock (adoptSpeed s))

/-! ### Row slots of the row time in hand (R45) -/

/-- FMT's emission work as R45 counts it while the out-buffer is empty. -/
def blankWork (f : Fmt) : Bool := f.outBuffer.isEmpty && (f.cursor.isSome || f.rewrites.any (fun e => !e.sent))

/-- The row time in hand ends: the slots that passed without a row are blank slots when FMT had emission work
at LOCKED, and otherwise trailing slots or a lock gap (R45). -/
def closeRowTime (s : State) : State :=
  let blank := s.mot.state = .streamingWrite && s.mot.lock = .locked && blankWork s.fmt
  { s with fmt.slots := [],
           fmt.blankSlots := if blank then min (s.fmt.blankSlots + s.fmt.slots.length) maxWord else s.fmt.blankSlots }

/-! ### Motion -/

/-- The tape is braked gently from a moving state; `rest` follows when it is at rest (R97). -/
def enterStopping (rest : AfterRest) (s : State) : State :=
  let s := dropLock (closeRowTime s)
  { s with mot.state := .stopping, mot.limitTimer := none, mot.dwellTimer := none, mot.afterRest := rest,
           mot.runOn := .none }

/-- The wrap and index a destination names; a place at or past the physical end is clamped to it (R103). -/
def destinationPlace (s : State) : Destination → Nat × Nat
  | .runUp _ => runUpPoint s (s.mot.splice.getD 0)
  | .named p =>
    if physicalEnd s ≤ p then ((geometry s).wraps - 1, wrapLength s - 1) else (p / wrapLength s, p % wrapLength s)
  | .bot => (0, 0)
  | .recovery => (0, 0)

/-- The position after the heads step to another wrap: the same place along the tape (log 29). -/
def stepHeads (s : State) (wrap : Nat) : Option Pos :=
  match s.mot.pos with
  | some p => some ⟨wrap, if p.wrap % 2 = wrap % 2 then p.index else wrapLength s - 1 - p.index, p.dir⟩
  | none => none

/-- The direction of motion from a position on a wrap to an index of that wrap. -/
def toward (target : Nat) (p : Pos) : Pos :=
  { p with dir := if p.index < target then wrapDirection p.wrap else (wrapDirection p.wrap).opposite }

/-- TRAVEL entered (R103). A travel to anywhere but a run-up point gives up the splice point. -/
def enterTravel (d : Destination) (s : State) : State :=
  let keep := match d with | .runUp _ => true | .named _ | .bot | .recovery => false
  { s with mot.state := .travel, mot.dest := d, mot.dwellTimer := none,
           mot.pos := (stepHeads s (destinationPlace s d).1).map (toward (destinationPlace s d).2),
           mot.splice := if keep then s.mot.splice else none,
           mot.startKind := if keep then s.mot.startKind else none }

/-- The heads stand at the run-up point of a splice point. -/
def atRunUp (s : State) (splice : Nat) : Bool :=
  match s.mot.pos with
  | some p => (p.wrap, p.index) = runUpPoint s splice
  | none => false

/-- STARTING entered (R95): the next speed adopted, the lock dropped, the limit timer started. -/
def enterStarting (s : State) : State :=
  let s := startLimit (dropLock (adoptSpeed s))
  { s with mot.state := .starting, mot.dwellTimer := none, mot.held := none,
           mot.pos := s.mot.pos.map (fun p => { p with dir := wrapDirection p.wrap }) }

/-- A start at a place, or at the splice point held, from still tape at tension (R95, R102). With neither it is disregarded
(log 71). -/
def startFrom (place : Option Nat) (kind : StartKind) (s : State) : State :=
  match place.or s.mot.splice with
  | none => s
  | some sp =>
    if physicalEnd s ≤ sp then emit (if kind = .write then .physicalEnd else .readPhysicalEnd) s
    else
      let s := { s with mot.splice := some sp, mot.startKind := some kind }
      if atRunUp s sp then enterStarting s
      else enterTravel (.runUp false) { s with mot.held := some (.start place kind) }

/-- The tape brought to the run-up point of the splice point after a stop (R97). -/
def moveToRunUp (s : State) : State :=
  let target := runUpPoint s (s.mot.splice.getD 0)
  match s.mot.pos with
  | some p =>
    if p.wrap = target.1 && target.2 < p.index then
      { s with mot.state := .repositioning, mot.dwellTimer := none,
               mot.pos := some { p with dir := (wrapDirection p.wrap).opposite } }
    else enterTravel (.runUp true) s
  | none => enterTravel (.runUp true) s

/-- A request held while the tension of RELAXED tape is raised (R90). -/
def holdForTension (r : HeldRequest) (s : State) : State :=
  { s with mot.held := some r, mot.retension := true }

/-- R95: the states in which a start request is carried out or held; the others disregard it or answer that the tape is
not threaded. -/
def MotionState.takesStart : MotionState → Bool
  | .threadedIdle | .positioned | .relaxed | .stopping | .repositioning | .travel => true
  | .starting | .streamingWrite | .streamingRead | .turning => false
  | .empty | .seated | .threading | .unthreading | .cleaning | .stranded | .faultHeld => false

/-- R95: the states in which a start request is disregarded: the tape runs already. -/
def MotionState.runs : MotionState → Bool
  | .starting | .streamingWrite | .streamingRead | .turning => true
  | .threadedIdle | .positioned | .relaxed | .stopping | .repositioning | .travel => false
  | .empty | .seated | .threading | .unthreading | .cleaning | .stranded | .faultHeld => false

/-- A start request (R95), with the splice point given or the one held. -/
def requestStart (place : Option Nat) (kind : StartKind) (s : State) : State :=
  match s.mot.state with
  | .threadedIdle | .positioned => startFrom place kind s
  | .relaxed => holdForTension (.start place kind) s
  | .stopping | .repositioning | .travel => { s with mot.held := some (.start place kind) }
  | .starting | .streamingWrite | .streamingRead | .turning => s
  | .empty | .seated | .threading | .unthreading | .cleaning | .stranded | .faultHeld => emit .notThreaded s

/-- R98, R100: what waits for the end of a turn, or of the run-on, once a stop is asked there: the stop, or the start at a
splice point of its own, or the travel, that waited, since the tape stops for them too (log 72). -/
def stopHeld (place : Nat) : Option HeldRequest → HeldRequest
  | some (.start (some p) kind) => .start (some p) kind
  | some (.go d) => .go d
  | some (.unthread why) => .unthread why
  | some (.start none _) | some (.stop _) | none => .stop place

/-- What follows rest once a stop is asked in STOPPING: the run-up point, or the travel that waited for rest (log 72). -/
def stopRest : AfterRest → AfterRest
  | .go d => .go d
  | .runUp | .stay => .runUp

/-- R97, R99, R100: at the end of a turn, or of the run-on, the tape stops for what was asked in it; else `on` follows. -/
def heldStop (kind : StartKind) (on : State → State) (s : State) : State :=
  match s.mot.held with
  | some (.stop p) => enterStopping .runUp { s with mot.held := none, mot.splice := some p, mot.startKind := some kind }
  | some (.start (some p) k) => enterStopping .runUp { s with mot.splice := some p, mot.startKind := some k }
  | some (.go d) => enterStopping (.go d) { s with mot.held := none }
  | some (.start none _) | some (.unthread _) => on { s with mot.held := none }
  | none => on s

/-- R98: a restart waits to be carried out. -/
def restartHeld (m : Mot) : Bool :=
  match m.held with
  | some (.start _ _) => true
  | some (.stop _) | some (.go _) | some (.unthread _) | none => false

/-- A stop request with a splice point (R97, R98, R100). A restart that waits is carried out at the new splice point, a start
that names one of its own at that (log 72). -/
def requestStop (place : Nat) (s : State) : State :=
  let toward := { s with mot.splice := some place }
  match s.mot.state with
  | .streamingWrite =>
    if s.mot.runOn ≠ .none then { s with mot.held := some (stopHeld place s.mot.held) }
    else enterStopping .runUp { toward with mot.startKind := some .write }
  | .streamingRead => enterStopping .runUp { toward with mot.startKind := some .read }
  | .starting => enterStopping .runUp toward
  | .turning => { s with mot.held := some (stopHeld place s.mot.held) }
  | .stopping => { toward with mot.afterRest := stopRest s.mot.afterRest }
  | .repositioning =>
    if s.mot.splice = some place then s else { toward with mot.state := .stopping, mot.afterRest := .runUp }
  | .travel =>
    match s.mot.dest with
    | .runUp _ =>
      if s.mot.splice = some place then s else { toward with mot.state := .stopping, mot.afterRest := .runUp }
    | .named _ | .bot =>
      { toward with mot.startKind := some .read, mot.state := .stopping, mot.afterRest := .runUp,
                    mot.afterRewind := .nothing }
    | .recovery => s
  | .positioned => if s.mot.splice = some place then s else moveToRunUp toward
  | .relaxed =>
    if restartHeld s.mot then toward
    else if s.mot.splice = some place then s else holdForTension (.stop place) s
  | .threadedIdle => moveToRunUp { toward with mot.startKind := some .read }
  | .empty | .seated | .threading | .unthreading | .cleaning | .stranded | .faultHeld => s

/-- The rewind of a recovery runs (R108). -/
def recoveryRewinds (s : State) : Bool := s.mot.state = .travel && s.mot.dest = .recovery

/-- A travel request (R103). From CLEANING the tape comes to rest before it travels (log 63), and from REPOSITIONING too; in
TURNING, in the run-on of a wrap (R100) and in the rewind of a recovery (R108) it is held to the end (log 73). -/
def requestTravel (d : Destination) (s : State) : State :=
  match s.mot.state with
  | .threadedIdle | .positioned => enterTravel d s
  | .relaxed => holdForTension (.go d) s
  | .starting | .streamingRead => enterStopping (.go d) { s with mot.held := none }
  | .streamingWrite =>
    if s.mot.runOn ≠ .none then { s with mot.held := some (.go d) } else enterStopping (.go d) { s with mot.held := none }
  | .stopping => { s with mot.afterRest := .go d, mot.held := none }
  | .repositioning | .cleaning => { s with mot.state := .stopping, mot.afterRest := .go d, mot.held := none }
  | .travel => if recoveryRewinds s then { s with mot.held := some (.go d) } else enterTravel d { s with mot.held := none }
  | .turning => { s with mot.held := some (.go d) }
  | .empty | .seated | .threading | .unthreading | .stranded | .faultHeld => emit .notThreaded s

/-- The requests that wait for the tape given up. -/
def dropWaiting (s : State) : State :=
  { s with mot.held := none, mot.afterRest := if s.mot.state = .stopping then .runUp else s.mot.afterRest }

/-- The tape brought to a start at a place from whatever it is doing: a stop first where it streams, in the run-on at its
end (R69, R100, R104, R105). -/
def restartAt (place : Nat) (kind : StartKind) (s : State) : State :=
  match s.mot.state with
  | .starting | .streamingWrite | .streamingRead | .stopping | .repositioning =>
    { requestStop place (dropWaiting s) with mot.held := some (.start (some place) kind) }
  | .travel =>
    match s.mot.dest with
    | .runUp _ => { requestStop place (dropWaiting s) with mot.held := some (.start (some place) kind) }
    | .named _ | .bot | .recovery => { s with mot.held := some (.start (some place) kind) }
  | .turning => { s with mot.held := some (.start (some place) kind) }
  | .threadedIdle | .positioned | .relaxed => requestStart (some place) kind s
  | .empty | .seated | .threading | .unthreading | .cleaning | .stranded | .faultHeld => emit .notThreaded s

/-- UNTHREADING entered with its 8,000 ms timer (R86, R107). The leader counts as off the reel from here on (log 74). -/
def enterUnthreading (why : UnthreadWhy) (s : State) : State :=
  let s := dropLock s
  { s with mot.state := .unthreading, mot.tension := .off, mot.leader := .inPath, mot.splice := none,
           mot.startKind := none, mot.held := none, mot.limitTimer := none, mot.dwellTimer := none,
           mot.retension := false, mot.recovering := false, mot.afterRewind := .nothing, mot.runOn := .none,
           mot.threadTimer := some (after s 8000), mot.unthreadWhy := why }

/-- The request held carried out from still tape at tension (R90, R95, R98, R107). -/
def serveHeld (s : State) : State :=
  match s.mot.held with
  | some (.start place kind) => startFrom place kind { s with mot.held := none }
  | some (.stop place) => requestStop place { s with mot.held := none }
  | some (.go d) => enterTravel d { s with mot.held := none }
  | some (.unthread why) => enterUnthreading why { s with mot.held := none }
  | none => s

/-- Arrival at the run-up point of the splice point (R97, R98, R105): POSITIONED, the dwell timer, a backhitch
when a stop is being carried out, then the held request; a locate that has found its bundle reports it. -/
def arriveRunUp (backhitch : Bool) (s : State) : State :=
  let at' := runUpPoint s (s.mot.splice.getD 0)
  let s := startDwell { s with
    mot.state := .positioned, mot.pos := some ⟨at'.1, at'.2, wrapDirection at'.1⟩,
    mot.backhitches := if backhitch then bump s.mot.backhitches else s.mot.backhitches }
  if s.mot.held.isSome then serveHeld s
  else
    match s.mot.locate with
    | some l =>
      match l.phase with
      | .found p => emit (.located p) { s with mot.locate := none }
      | .approaching | .scanning => emit .positioned s
    | none => emit .positioned s

/-! ### Unthreading, threading, eject, recovery -/

/-- The heads stand at BOT. -/
def atBot (s : State) : Bool :=
  match s.mot.pos with
  | some p => p.wrap = 0 && p.index = 0
  | none => false

/-- A request to unthread (R107): a rewind to BOT first if the heads are not there. RELAXED tape is brought to tension first, at
BOT too, since an unthread needs motion (R90, log 66). -/
def requestUnthread (why : UnthreadWhy) (s : State) : State :=
  match s.mot.state with
  | .threadedIdle | .positioned =>
    if atBot s then enterUnthreading why s
    else requestTravel .bot { s with mot.afterRewind := .unthread, mot.unthreadWhy := why }
  | .relaxed =>
    if atBot s then holdForTension (.unthread why) s
    else requestTravel .bot { s with mot.afterRewind := .unthread, mot.unthreadWhy := why }
  | .starting | .streamingWrite | .streamingRead | .stopping | .repositioning | .turning | .travel | .cleaning =>
    requestTravel .bot { s with mot.afterRewind := .unthread, mot.unthreadWhy := why }
  | .empty | .seated | .threading | .unthreading | .stranded | .faultHeld => s

/-- A request to thread (R84), in SEATED. -/
def requestThread (s : State) : State :=
  if s.mot.state = .seated then
    { s with mot.state := .threading, mot.threadPhase := .capture, mot.attempt := 1,
             mot.threadTimer := some (after s 3000), mot.ejecting := false }
  else s

/-- A request to eject (R107), answered only in SEATED. -/
def requestEject (s : State) : State := if s.mot.state = .seated then { s with mot.ejecting := true } else s

/-- A recovery (R108), chosen by the leader place. -/
def requestRecovery (s : State) : State :=
  if s.mot.state = .stranded || s.mot.state = .faultHeld then
    match s.mot.leader with
    | .onReel => { s with mot.recovering := true, ord.position := 0 }
    | .inPath => enterUnthreading .recovery { s with ord.position := 0 }
    | .none | .home => s
  else s

/-- A cleaning pass (R106) of a length in row times, from BOT. -/
def requestPass (length : Nat) (s : State) : State :=
  { s with mot.state := .cleaning, mot.cleanLeft := length, mot.dwellTimer := none, mot.splice := none,
           mot.startKind := none }

/-- A motion fault of threading or unthreading: counted, raised with its detail and the motion state in which
it was sensed, and reported to ORD (R84, R86, R107; log 23). -/
def motionFault (detail : Nat) (sensed : MotionState) (s : State) : State :=
  emit .motionFailed
    (raise .motionFault 0 detail sensed.code { s with mot.motionFaults := bump s.mot.motionFaults })

/-- The leader is home after an unthread (R86, R107). -/
def leaderIsHome (s : State) : State :=
  let s := { s with mot.state := .seated, mot.leader := .home, mot.pos := none, mot.threadTimer := none,
                    mot.tension := .off, mot.ejecting := false, mot.word := none }
  if s.mot.unthreadWhy = .pathFault then motionFault 2 .unthreading s else emit .seated s

/-- The unthread timer expired first (R86, R107). -/
def unthreadFailed (s : State) : State :=
  motionFault 3 .unthreading { s with
    mot.state := .faultHeld, mot.leader := .inPath, mot.pos := none, mot.threadTimer := none, mot.tension := .off }

/-- Threading abandoned (R87). -/
def abandonThreading (s : State) : State :=
  match s.mot.threadPhase with
  | .capture => emit .seated { s with mot.state := .seated, mot.leader := .home, mot.threadTimer := none }
  | .path | .tensioning => enterUnthreading .abandoned s

/-! ### Locates (R104, R105) -/

/-- The bundle range of a directory entry contains a bundle. -/
def rangeHolds (b : Nat) (e : DirEntry) : Bool :=
  match e.part with
  | some p => p.firstBundle ≤ b && b < p.firstBundle + p.bundleCount
  | none => false

/-- A directory entry's first bundle lies below a bundle. -/
def startsBelow (b : Nat) (e : DirEntry) : Bool :=
  match e.part with
  | some p => p.firstBundle < b
  | none => false

/-- The wrap directory of CML's copy. -/
def directory (s : State) : List DirEntry :=
  match s.cml.copy with
  | some c => c.directory
  | none => []

/-- R104: the entry from which a bundle's place is estimated. -/
def locateEntry (s : State) (b : Nat) : Option DirEntry :=
  ((directory s).find? (rangeHolds b)).or ((directory s).reverse.find? (startsBelow b))

/-- R104: the estimated index of a bundle from an entry. -/
def estimateIndex (b : Nat) (p : DirPart) : Nat :=
  if p.bundleCount = 0 then 0 else (b - p.firstBundle) * p.rowTimes / p.bundleCount

/-- R104: the wrap of a bundle, and its estimated index. -/
def estimatePlace (s : State) (b : Nat) : Nat × Nat :=
  match locateEntry s b with
  | some e => (e.wrap, match e.part with | some p => estimateIndex b p | none => 0)
  | none => (0, 0)

/-- R104: a locate of bundle `b` begun. -/
def requestLocate (b : Nat) (s : State) : State :=
  let place := estimatePlace s b
  let scan := serpentine s place.1 (place.2 - 200)
  restartAt scan .read { s with mot.locate := some ⟨b, place.1, scan, 0, .approaching⟩, rdc.blankRun := 0,
                                rdc.blankStart := none }

/-- R105: a locate ends without finding its bundle; the tape stops at the current position. At the physical end, where R102 has
set the splice point to the end, this is the last row time of the last wrap (log 99). -/
def failLocate (s : State) : State :=
  emit .locateFailed (requestStop ((headPlace s).getD 0) { s with mot.locate := none })

/-- R105, R191: motion stopped at the current position, the locate record and the start that waited for it dropped. -/
def stopHere (s : State) : State :=
  let s := dropWaiting { s with mot.locate := none }
  match headPlace s with
  | some p => requestStop p s
  | none => s

end Sys2Proof.Machine
end

