-- ==== Sys2Proof/Machine/Directory.lean ====
section
/-! DEFINITION. The wrap directory and the tape map (chapter 7): extension at a release, the cut at an append
point, the estimate for an object, the checks of contents read from cartridge memory. -/

namespace Sys2Proof.Machine

/-- The cartridge copy changed. -/
def updateCopy (f : CartCopy → CartCopy) (s : State) : State := { s with cml.copy := s.cml.copy.map f }

/-- The entry begins an object: a first chunk or a mark. -/
def beginsObject (e : IndexEntry) : Bool := e.kind = .mark || e.first

/-- The objects begun in an index (R134). -/
def objectsBegun (ix : List IndexEntry) : Nat := (ix.filter beginsObject).length

/-- The marks of an index. -/
def marksIn (ix : List IndexEntry) : Nat := (ix.filter (fun e => e.kind = .mark)).length

/-- R134: an optional part extended by one bundle of the wrap. The first object is that of the header of the wrap's first bundle,
which may be an object begun on an earlier wrap (log 101). -/
def extendPart (part : Option DirPart) (bundle firstObject objects marks rowTimes : Nat) : DirPart :=
  match part with
  | none => ⟨bundle, 1, firstObject, objects, some marks, rowTimes⟩
  | some p =>
    { p with bundleCount := p.bundleCount + 1, objectCount := p.objectCount + objects,
             markCount := p.markCount.map (fun m => m + marks), rowTimes := max p.rowTimes rowTimes }

/-- R134: row times used as the latest placement of a bundle of wrap `w0` gives it. -/
def rowTimesUsed (s : State) (w0 latest : Nat) : Nat :=
  if w0 < (placeOf s latest).1 then wrapLength s else (placeOf s latest).2 + 1

/-- R134: the directory extended at the release of a bundle with this header, index and placement. -/
def extendDirectory (h : BundleHeader) (ix : List IndexEntry) (p : Placement) (s : State) : State :=
  let w0 := (placeOf s p.first).1
  let used := rowTimesUsed s w0 p.latest
  updateCopy (fun c =>
    { c with directory := c.directory.map (fun e =>
        if e.wrap = w0 then
          { e with part := some (extendPart e.part p.bundle h.firstObject (objectsBegun ix) (marksIn ix) used) }
        else e) }) s

/-- The end position of the tape map set to a serpentine position. -/
def setEndPosition (p : Nat) (s : State) : State :=
  { s with cml.map := s.cml.map.map (fun m =>
      { m with endWrap := p / wrapLength s, endIndex := p % wrapLength s }) }

/-- R134: the end position raised to one past the latest placement, if that lies beyond it. -/
def raiseEndPosition (latest : Nat) (s : State) : State :=
  if endPosition s < latest + 1 then setEndPosition (latest + 1) s else s

/-- R134: what CML does at the release of a bundle. -/
def cmlRelease (h : BundleHeader) (ix : List IndexEntry) (p : Placement) (s : State) : State :=
  raiseEndPosition p.latest (extendDirectory h ix p s)

/-- R135: the optional part of the located start's wrap after the cut at bundle `b`. -/
def cutPart (b firstObject index : Nat) (p : DirPart) : Option DirPart :=
  if b ≤ p.firstBundle then none
  else
    some { p with bundleCount := b - p.firstBundle, objectCount := firstObject - p.firstObject,
                  markCount := if b < p.firstBundle + p.bundleCount then none else p.markCount,
                  rowTimes := if index = 0 then 1 else index }

/-- R135: a directory entry after the cut. -/
def cutEntry (wrap index b firstObject : Nat) (e : DirEntry) : DirEntry :=
  if wrap < e.wrap then { e with part := none }
  else if e.wrap = wrap then { e with part := e.part.bind (cutPart b firstObject index) }
  else e

/-- R20, R135: the cartridge truncated at object `p`, bundle `b`, whose header's first object and located start
are given. -/
def truncateAt (p b firstObject start : Nat) (s : State) : State :=
  let at' := placeOf s start
  let s := updateCopy (fun c =>
    { c with directory := c.directory.map (cutEntry at'.1 at'.2 b firstObject) }) s
  let s := setEndPosition start (setEod p b s)
  { s with bsm.sealedThrough := b, bsm.writtenThrough := b, bsm.verifiedThrough := b }

/-- R136: the estimate from an entry's optional part. -/
def estimateFrom (object : Nat) (p : DirPart) : Nat :=
  if p.objectCount = 0 then p.firstBundle
  else min (p.firstBundle + (object - p.firstObject) * p.bundleCount / p.objectCount) (p.firstBundle + p.bundleCount - 1)

/-- The entry's first object lies at or below an object. -/
def objectFrom (object : Nat) (e : DirEntry) : Bool :=
  match e.part with
  | some p => p.firstObject ≤ object
  | none => false

/-- R136: the estimated bundle of an object. -/
def estimateBundle (s : State) (object : Nat) : Nat :=
  match ((directory s).filter (objectFrom object)).getLast? with
  | some e => match e.part with | some p => estimateFrom object p | none => 0
  | none => 0

/-! ### Contents read from cartridge memory (R128) -/

/-- The geometry lies in the ranges of section 7.4. -/
def geometryOk (g : Geometry) : Bool :=
  decide (8 ≤ g.wraps) && decide (g.wraps ≤ 64) && decide (1000 ≤ g.length) && decide (g.length ≤ 100000)
    && decide (g.margin ≤ 100000)

/-- R128, first class: identity, type and geometry. -/
def firstClass (c : CmContents) : Bool :=
  c.type.isSome && geometryOk c.geometry
    && (c.type ≠ some .cleaning
      || (decide (1 ≤ c.passLimit) && decide (1 ≤ c.cleaningLength) && decide (c.cleaningLength ≤ 100000)))

/-- The optional parts of a directory, in wrap order. -/
def dirParts (d : List DirEntry) : List DirPart := d.filterMap (fun e => e.part)

/-- R133: an optional part by itself. -/
def partOk (length : Nat) (p : DirPart) : Bool :=
  decide (1 ≤ p.bundleCount) && decide (1 ≤ p.rowTimes) && decide (p.rowTimes ≤ length)

/-- R133: each range begins where the one before ends, and so do the objects. A wrap whose first bundle goes on with an object of
the wrap before does not pass (log 101). -/
def partsFollow : List DirPart → Bool
  | p :: q :: rest =>
    decide (q.firstBundle = p.firstBundle + p.bundleCount) && decide (q.firstObject = p.firstObject + p.objectCount)
      && partsFollow (q :: rest)
  | _ => true

/-- R133: no entry without an optional part stands between two that have one. -/
def noGap (d : List DirEntry) : Bool :=
  let rest := d.dropWhile (fun e => e.part.isNone)
  (rest.dropWhile (fun e => e.part.isSome)).all (fun e => e.part.isNone)

/-- The directory holds exactly W entries in ascending wrap order. -/
def wrapsInOrder (w : Nat) (d : List DirEntry) : Bool := d.map (fun e => e.wrap) = List.range w

/-- R128, second class: the directory and the EOD record. -/
def secondClass (c : CmContents) : Bool :=
  let ps := dirParts c.directory
  let eodBundle' := match ps.getLast? with | some p => p.firstBundle + p.bundleCount | none => 0
  let eodObject' := match ps.getLast? with | some p => p.firstObject + p.objectCount | none => 0
  wrapsInOrder c.geometry.wraps c.directory && noGap c.directory && partsFollow ps
    && ps.all (partOk c.geometry.length)
    && c.eod.eodBundle = eodBundle' && c.eod.eodObject = eodObject'
    && decide (c.eod.endWrap < c.geometry.wraps) && decide (c.eod.endIndex < c.geometry.length)

end Sys2Proof.Machine
end

