-- ==== Sys2Proof/Machine/Bsm.lean ====
section
/-! DEFINITION. The bundle store manager (chapter 2): allocation, mode, release and the discards. -/

namespace Sys2Proof.Machine

/-! ### Reports to ORD -/

/-- R178, R182: the discard seen mark, taken whenever a discard is reported. -/
def markDiscardSeen (s : State) : State := { s with ord.discardSeen := true }

/-- R35, R36: the logical position lowered to an object if it stood above it. -/
def lowerPosition (object : Nat) (s : State) : State := { s with ord.position := min s.ord.position object }

/-! ### The open bundle -/

/-- R23: CMP's open bundle lost with all work in hand; a blocked interval ends. -/
def cmpLose (s : State) : State :=
  let s := if s.cmp.blocked then exclusionEnd s else s
  dropTransfers (fun p => p = .chunkIn || p = .chunkOut || p = .headerOut)
    { s with cmp.cursor := none, cmp.marksLeft := 0, cmp.history := [], cmp.table := [], cmp.index := [],
             cmp.payloadFill := 0, cmp.rawCount := 0, cmp.idleTimer := none, cmp.blocked := false,
             cmp.candidate := none, cmp.sealing := none }

/-- CMP's values for a bundle just opened: nothing in it yet (R3). -/
def emptyBundle (s : State) : State :=
  { s with cmp.history := [], cmp.table := [], cmp.index := [], cmp.payloadFill := 0, cmp.rawCount := 0 }

/-- R59: a write session begins, its first start to be made at `start`. One that begins before FMT has stopped keeps the
row time after the last that held a row, for the stop to come (R56). -/
def beginFmtSession (start : Nat) (s : State) : State :=
  { s with fmt.startPoint := some start, fmt.resume := if s.fmt.phase = .stopped then none else s.fmt.resume,
           fmt.lastCause := none }

/-- R28, R33: frame `i` made OPEN for a new bundle numbered sealed-through. -/
def openFrameAt (i : Nat) (s : State) : State :=
  let s := if s.bsm.mode = .write then s else beginFmtSession (endPosition s) s
  let s := updateFrame i (fun _ => ⟨.opened, some s.bsm.sealedThrough, some 0, none, []⟩) s
  beginWriteSession (emptyBundle { s with bsm.mode := .write })

/-- R3: intake becomes blocked, unless it is already. -/
def blockIntake (s : State) : State :=
  if s.cmp.blocked then s else exclusionStart { s with cmp.blocked := true }

/-- R3, R28: with no frame OPEN, CMP asks for one: the lowest FREE one is opened, or intake is blocked. -/
def obtainBundle (s : State) : State :=
  if (openFrame s).isSome then s
  else
    match (if s.bsm.mode = .read then none else findFrame s (fun f => f.state = .free)) with
    | some i => openFrameAt i s
    | none => blockIntake s

/-- R28: a frame just released handed to a blocked CMP, which has none OPEN. -/
def handFrame (i : Nat) (s : State) : State :=
  if s.bsm.mode = .read || (openFrame s).isSome then s
  else emit .frameHanded (openFrameAt i (exclusionEnd { s with cmp.blocked := false }))

/-! ### Store mode -/

/-- R28: the write-mode request held through READ mode is served once the store is IDLE. -/
def serveCmp (s : State) : State :=
  if s.cmp.blocked then
    match findFrame s (fun f => f.state = .free) with
    | some i => handFrame i s
    | none => s
  else s

/-- R28: RDC told that the store is IDLE when it holds a request. -/
def tellRdc (s : State) : State := if s.bsm.claims.isEmpty then s else emit .storeIdle s

/-- R33: the store becomes IDLE when the last frame of its mode has gone to FREE; from WRITE, write drained is
reported to ORD. A request of the other mode held meanwhile is then served (R28). -/
def settleMode (s : State) : State :=
  match s.bsm.mode with
  | .write => if holdsWriteFrames s then s else tellRdc (emit .writeDrained { s with bsm.mode := .idle })
  | .read => if holdsReadFrames s then s else serveCmp { s with bsm.mode := .idle }
  | .idle => s

/-! ### Release (R31) -/

/-- R31, R184: ORD judges whether a release completes the TAKEN order's release point. -/
def judgeRelease (s : State) : State :=
  match s.ord.releaseMark with
  | some m =>
    if takenWrites s && s.ord.stage = .waiting && m ≤ s.bsm.verifiedThrough then complete .ok .none s else s
  | none => s

/-- R41: the placement record of a bundle. -/
def placementOf (s : State) (b : Nat) : Option Placement := s.fmt.placements.find? (fun p => p.bundle = b)

/-- A bundle's pass map and placement record dropped. -/
def dropRecords (p : Nat → Bool) (s : State) : State :=
  { s with fmt.passMaps := s.fmt.passMaps.filter (fun m => !p m.bundle),
           fmt.placements := s.fmt.placements.filter (fun m => !p m.bundle) }

/-- R31: CML told of a release. -/
def tellCml (f : Frame) (b : Nat) (s : State) : State :=
  match f.header, placementOf s b with
  | some h, some p => cmlRelease h f.index p s
  | some _, none | none, _ => s

/-- R31: the release of bundle `b` in frame `i`: the counter, then CML, HCM, ORD, and a blocked CMP. -/
def releaseFrame (i : Nat) (f : Frame) (b : Nat) (s : State) : State :=
  let s := freeFrameAt i { s with bsm.verifiedThrough := b + 1 }
  let s := dropRecords (fun x => x = b) (tellCml f b s)
  let s := judgeRelease (bundleVerified s)
  if s.cmp.blocked then handFrame i s else settleMode s

/-- R31: the run of VERIFIED frames from verified-through on, released in ascending order. -/
def releaseRun : Nat → State → State
  | 0, s => s
  | k + 1, s =>
    let b := s.bsm.verifiedThrough
    match findFrame s (fun f => f.state = .verified && f.bundle = some b) with
    | some i =>
      match frameAt s i with
      | some f => releaseRun k (releaseFrame i f b s)
      | none => s
    | none => s

/-- The releases that follow a frame becoming VERIFIED. -/
def releaseVerified (s : State) : State := releaseRun s.bsm.frames.length s

/-! ### Drain and discards -/

/-- R32: frame `i` goes from DRAINING to FREE: the drain event, and SPM's read sample. -/
def drainFrame (i : Nat) (s : State) : State :=
  match frameAt s i with
  | some f => settleMode (readSample (match f.header with | some h => h.payloadUsed | none => 0) (freeFrameAt i s))
  | none => s

/-- The frame table with every read-mode frame gone to FREE. -/
def readDiscarded (fs : List Frame) : List Frame := fs.map (fun f => if f.state.readMode then freeFrame else f)

/-- R37: the frames in a read-mode state discarded to FREE, without report. -/
def discardRead (s : State) : State := settleMode { s with bsm.frames := readDiscarded s.bsm.frames }

/-- The open bundle holds entries, or is being sealed with them. -/
def openHoldsEntries (s : State) : Bool := !s.cmp.index.isEmpty || s.cmp.sealing.isSome

/-- The frame holds write work a discard counts: a sealed bundle, or the OPEN frame with entries (R35, R36). -/
def holdsWork (s : State) (f : Frame) : Bool :=
  f.state.writeMode && (f.state ≠ .opened || openHoldsEntries s)

/-- The bundle number of a frame. -/
def bundleOf (f : Frame) : Nat := f.bundle.getD 0

/-- R36: the first object of the bundle in a frame: for the open bundle by its first entry, which CMP holds or has put into
the header being written; for any other by its header. -/
def firstObjectOf (s : State) (f : Frame) : Option Nat :=
  if f.state = .opened then
    match s.cmp.sealing with
    | some x => some x.header.firstObject
    | none => s.cmp.index.head?.map (fun e => e.object)
  else f.header.map (fun h => h.firstObject)

/-- The frame of lowest bundle number among some. -/
def lowestFrame : List Frame → Option Frame
  | [] => none
  | f :: fs =>
    match lowestFrame fs with
    | some g => if bundleOf f ≤ bundleOf g then some f else some g
    | none => some f

/-- R35, R36: the tape map and the logical position set back to where discarded work began. -/
def setBack (b : Nat) (object : Option Nat) (s : State) : State :=
  let o := object.getD (eodObject s)
  lowerPosition o (setEod o b s)

/-- R35: the discard of a permanent write fault at bundle `b`; the count of bundles lost goes to FMT. -/
def discardFrom (b : Nat) (s : State) : Nat × State :=
  let lost := s.bsm.frames.filter (fun f => f.state.writeMode && b ≤ bundleOf f)
  let count := (lost.filter (holdsWork s)).length
  let first := (lowestFrame (lost.filter (holdsWork s))).bind (firstObjectOf s)
  let left := s.bsm.frames.map (fun f => if f.state.writeMode && b ≤ bundleOf f then freeFrame else f)
  let s := setBack b first (cmpLose { s with bsm.frames := left, bsm.sealedThrough := b, bsm.writtenThrough := b })
  (count, s)

/-- R36: DATA_DISCARDED, the counters and the tape map at a discard of all frames. -/
def discardReport (lost : List Frame) (s : State) : State :=
  if lost.isEmpty then s
  else
    let v := s.bsm.verifiedThrough
    let first := (lowestFrame lost).bind (firstObjectOf s)
    let s := setBack v first { s with bsm.sealedThrough := v, bsm.writtenThrough := v }
    markDiscardSeen (raise .dataDiscarded lost.length 0 0 s)

/-- R36: every frame discarded to FREE, at a soft reset and at a discard at unload. -/
def discardAll (s : State) : State :=
  let lost := s.bsm.frames.filter (holdsWork s)
  let s := cmpLose (discardReport lost s)
  settleMode { s with bsm.frames := s.bsm.frames.map (fun _ => freeFrame) }

end Sys2Proof.Machine
end

