-- ==== Sys2Proof/Machine/Fmt.lean ====
section
/-! DEFINITION. The formatter (chapter 3): rows read into the out-buffer, row slots, verify results, rewrites,
repeats, permanent write faults, stopping, restarting and the HELD phase. -/

namespace Sys2Proof.Machine

/-! ### Reading rows into the out-buffer (R43, R40) -/

/-- The lowest-numbered SEALED frame's row 0. -/
def nextSealed (s : State) : Option RowName :=
  match lowestFrame (s.bsm.frames.filter (fun f => f.state = .sealed)) with
  | some f => some ⟨bundleOf f, f.copy.getD 0, 0⟩
  | none => none

/-- R56: FMT has emission work. -/
def emissionWork (f : Fmt) : Bool :=
  !f.rewrites.isEmpty || f.cursor.isSome || !f.outBuffer.isEmpty || f.reading.isSome

/-- Where a row is read from: its place in the frame, or, for a parity row, the work area: its reading moves the area's
first 16,384 bytes, in 32 bursts (log 58). -/
def rowAddress (s : State) (frame row : Nat) : Nat :=
  frameBase s frame + (if row < 66 then row * rowBytes else workOffset)

/-- R43: the reading of a row begun. -/
def beginFetch (r : OutRow) (s : State) : State :=
  match frameOf s r.bundle with
  | some i => raiseRead .rowOut .rowFetch (rowAddress s i r.row) rowBytes { s with fmt.reading := some r }
  | none => s

/-- R43: the cursor after the row it names has been read. -/
def advanceCursor (c : RowName) (s : State) : State :=
  { s with fmt.cursor := if c.row < 71 then some { c with row := c.row + 1 }
      else match nextSealed s with
        | some n => if n.bundle = c.bundle then none else some n
        | none => none }

/-- R43: the first WAITING entry becomes SENT. -/
def sendFirst : List Rewrite → List Rewrite
  | [] => []
  | e :: es => if e.sent then e :: sendFirst es else { e with sent := true } :: es

/-- A burst of ROW_OUT holds the port. -/
def rowOutHolds (s : State) : Bool := s.marb.burst.any (fun b => b.who = .rowOut)

/-- R43: FMT begins to read a row when it may and there is one. A row abandoned is being read to the end of the burst in hand: the
next is chosen once that burst has ended. -/
def fetchRow (s : State) : State :=
  if s.bsm.mode = .write && s.fmt.phase ≠ .held && decide (s.fmt.outBuffer.length < 8) && s.fmt.reading.isNone
      && !rowOutHolds s then
    match s.fmt.rewrites.find? (fun e => !e.sent) with
    | some e =>
      beginFetch ⟨e.bundle, e.copy, e.row, e.attempt, []⟩ { s with fmt.rewrites := sendFirst s.fmt.rewrites }
    | none =>
      match s.fmt.cursor with
      | some c => beginFetch ⟨c.bundle, c.copy, c.row, 1, []⟩ (advanceCursor c s)
      | none => s
  else s

/-- R40: payload bytes beyond those used are carried as zero bytes. -/
def maskPayload (row used : Nat) (data : List Byte) : List Byte :=
  if row < 2 then data
  else data.take (used - (row - 2) * rowBytes) ++ List.replicate (data.length - (used - (row - 2) * rowBytes)) 0

/-- The payload bytes used of the bundle in a frame. -/
def payloadUsedOf (f : Frame) : Nat :=
  match f.header with
  | some h => h.payloadUsed
  | none => 0

/-- The outer-code working values of a frame. -/
def workValues (s : State) (i : Nat) : List Byte := memReadN s.mem (frameBase s i + workOffset) headerBytes

/-- R40: a data row folded into the working values in the frame's work area; row 0 starts them afresh. The values stand
there from the row's last burst, without bursts of their own (log 58). -/
def foldWork (i row : Nat) (data : List Byte) (s : State) : State :=
  let old := if row = 0 then [] else workValues s i
  { s with mem := memWriteN s.mem (frameBase s i + workOffset) (foldRow old row data) }

/-- R43: the row being read joins the out-buffer at its last burst. -/
def rowFetched (data : List Byte) (s : State) : State :=
  match s.fmt.reading with
  | some r =>
    match frameOf s r.bundle with
    | some i =>
      let used := match frameAt s i with | some f => payloadUsedOf f | none => 0
      let bytes := if r.row < 66 then maskPayload r.row used data else parityRow (workValues s i) r.row
      let s := if r.row < 66 && r.attempt = 1 then foldWork i r.row bytes s else s
      { s with fmt.reading := none, fmt.outBuffer := s.fmt.outBuffer ++ [{ r with data := bytes }] }
    | none => { s with fmt.reading := none }
  | none => s

/-- A row being read of a bundle for which a test holds is abandoned (R43). -/
def abandonReading (p : Nat → Bool) (s : State) : State :=
  match s.fmt.reading with
  | some r => if p r.bundle then dropTransfers (fun x => x = .rowFetch) { s with fmt.reading := none } else s
  | none => s

/-! ### Stopping and restarting (R56 to R59) -/

/-- R57: the stop is an underrun stop. -/
def underrunStop (f : Fmt) : Bool := !f.faultMark && (f.lastCause = some .full || f.lastCause = some .index)

/-- R56: the splice point of a stop: one past the last row time that held a row. A session that has placed no row takes its
emission start point, else the splice point MOT holds, else the position of the heads (log 69). -/
def stopPoint (s : State) : Nat := ((s.fmt.resume.or s.mot.splice).or (headPlace s)).getD 0

/-- The tape stands still and threaded, and no request waits to move it. -/
def tapeStands (m : Mot) : Bool :=
  (m.state = .threadedIdle || m.state = .positioned || m.state = .relaxed) && m.held.isNone

/-- R102: the tape has stopped, or is being brought to stop, with the splice point at the physical end; or it stands, a
start there having been refused without motion. -/
def stoppedAtEnd (s : State) : Bool :=
  s.mot.splice = some (physicalEnd s) || (tapeStands s.mot && decide (physicalEnd s ≤ stopPoint s))

/-- R56, R57: FMT goes to STOPPED, asks MOT to stop and tells SPM the class. At the physical end the request changes
nothing (R102). -/
def fmtStop (s : State) : State :=
  let under := underrunStop s.fmt
  let s := { s with fmt.phase := .stopped, fmt.faultMark := false }
  let s := if stoppedAtEnd s then s else requestStop (stopPoint s) s
  if under then stepDown s else s

/-- R56: the phase follows the emission work and the verify window. -/
def fmtCheck (s : State) : State :=
  match s.fmt.phase with
  | .emitting =>
    if emissionWork s.fmt then s
    else if s.fmt.window.isEmpty then fmtStop s else { s with fmt.phase := .drainingWindow }
  | .drainingWindow =>
    if emissionWork s.fmt then { s with fmt.phase := .emitting } else if s.fmt.window.isEmpty then fmtStop s else s
  | .stopped | .held => s

/-- R58, R59: FMT asks MOT to restart, with the emission start point at the first start of a write session. A request that
MOT disregards leaves the point for the next; after one answered as not threaded FMT goes on waiting in STOPPED (R95,
log 56). -/
def askRestart (s : State) : State :=
  let point := s.fmt.startPoint
  if s.mot.state.takesStart then
    requestStart point .write
      { s with fmt.phase := .emitting, fmt.startPoint := none, fmt.resume := point.or s.fmt.resume }
  else if s.mot.state.runs then { s with fmt.phase := .emitting }
  else requestStart point .write s

/-- R98: FMT makes its restart again when one that MOT disregarded leaves the tape standing (log 57). -/
def askAgain (s : State) : State :=
  if s.fmt.phase = .emitting && emissionWork s.fmt && tapeStands s.mot then askRestart s else s

/-- R58: the restart threshold, clamped to half the frame count. -/
def restartThreshold (s : State) : Nat := min s.fmt.restart (s.bsm.frames.length / 2)

/-- R58: the SEALED count has changed. -/
def sealedCountCheck (s : State) : State :=
  if s.fmt.phase = .stopped && decide (restartThreshold s ≤ frameCount s .sealed) then askRestart s else s

/-- R58: a flush-type seal cause found no open bundle with entries. -/
def flushFoundNone (s : State) : State :=
  if s.fmt.phase = .stopped && decide (0 < frameCount s .sealed) then askRestart s else s

/-- The seal causes that restart the tape by themselves (R58). -/
def flushType : SealCause → Bool
  | .full | .index => false
  | .sync | .flush | .idle | .drain => true

/-- R15, R43, R58: a seal handed to FMT once the frame is SEALED. -/
def fmtSealed (cause : SealCause) (s : State) : State :=
  let s := { s with fmt.lastCause := some cause, fmt.cursor := if s.fmt.cursor.isSome then s.fmt.cursor else nextSealed s }
  let s := if s.fmt.phase = .stopped && flushType cause then askRestart s else sealedCountCheck s
  fmtCheck s

/-! ### Repeats and permanent write faults (R52 to R54) -/

/-- Verify window entries of bundles from `b` on get the dropped mark. -/
def dropWindow (b : Nat) (w : List WindowEntry) : List WindowEntry :=
  w.map (fun e => if b ≤ e.bundle then { e with dropped := true } else e)

/-- R53, R54: everything FMT holds of bundles from `b` on dropped. -/
def dropFrom (b : Nat) (s : State) : State :=
  let headGoes := match s.fmt.outBuffer.head? with | some r => decide (b ≤ r.bundle) | none => false
  let s := dropRecords (fun x => b ≤ x) (abandonReading (fun x => b ≤ x) s)
  { s with fmt.outBuffer := s.fmt.outBuffer.filter (fun r => r.bundle < b),
           fmt.rewrites := s.fmt.rewrites.filter (fun e => e.bundle < b),
           fmt.window := dropWindow b s.fmt.window,
           fmt.boundaryDone := if headGoes then false else s.fmt.boundaryDone }

/-- The frame is one a repeat of bundle `b` returns to SEALED (R30). -/
def repeatsFrame (b : Nat) (f : Frame) : Bool :=
  (f.state = .writing || f.state = .pending || f.state = .verified) && b ≤ bundleOf f

/-- R30: a frame after a repeat of bundle `b`. -/
def repeatFrame (b : Nat) (f : Frame) : Frame :=
  if repeatsFrame b f then { f with state := .sealed, copy := some (f.copy.getD 0 + 1) } else f

/-- R53: the bundle repeat of bundle `b`. -/
def repeatBundle (b : Nat) (s : State) : State :=
  let frames := s.bsm.frames.map (repeatFrame b)
  let s := dropFrom b { s with bsm.frames := frames, bsm.writtenThrough := b }
  { s with fmt.cursor := nextSealed s, fmt.repeats := bump s.fmt.repeats }

/-- The status of a permanent write fault's reason (R54). -/
def FaultReason.status : FaultReason → Status
  | .rowFailure => .writeFault
  | .endOfMedia => .endOfMedia

/-- R54: ORD learns of a permanent write fault at bundle `b`. -/
def ordFault (b : Nat) (r : FaultReason) (s : State) : State :=
  if takenWrites s || takenKind s = some .flush then completeFull r.status .none b false s
  else { s with ord.deferred := s.ord.deferred.or (some (b, r)) }

/-- R54: the permanent write fault at bundle `b`. -/
def permanentFault (b : Nat) (r : FaultReason) (s : State) : State :=
  let d := discardFrom b (dropFrom b s)
  let s := raise .dataDiscarded d.1 0 0 (raise .deferredFault b r.code 0 d.2)
  let keep := match s.fmt.cursor with | some c => decide (c.bundle < b) | none => false
  let s := { s with fmt.cursor := if keep then s.fmt.cursor else none, fmt.faultMark := true,
                    fmt.writeFaults := bump s.fmt.writeFaults }
  let s := if 0 < d.1 then markDiscardSeen s else s
  fmtCheck (settleMode (ordFault b r s))

/-- R52: a failure that cannot be rewritten: a repeat, or a permanent write fault where a copy number is 2. -/
def repeatOrFault (b : Nat) (s : State) : State :=
  if s.bsm.frames.any (fun f => repeatsFrame b f && f.copy = some 2) then permanentFault b .rowFailure s
  else sealedCountCheck (repeatBundle b s)

/-! ### Verification (R47 to R51) -/

/-- A window entry's row is the row of a rewrite entry. -/
def sameRow (e : WindowEntry) (r : Rewrite) : Bool := r.bundle = e.bundle && r.copy = e.copy && r.row = e.row

/-- R48: a row marked passed in its pass map. -/
def markPassed (e : WindowEntry) (m : PassMap) : PassMap :=
  if m.bundle = e.bundle && !m.passed.contains e.row then { m with passed := m.passed ++ [e.row] } else m

/-- R48: every row of a bundle's pass map is passed. -/
def allPassed (f : Fmt) (b : Nat) : Bool := f.passMaps.any (fun m => m.bundle = b && m.passed.length = 72)

/-- R48: a PENDING frame with every row passed becomes VERIFIED, and releases follow (R31). -/
def verifyFrame (b : Nat) (s : State) : State :=
  match findFrame s (fun f => f.state = .pending && f.bundle = some b) with
  | some i => if allPassed s.fmt b then releaseVerified (setFrameState i .verified s) else s
  | none => s

/-- R48: a row passes. -/
def rowPassed (e : WindowEntry) (s : State) : State :=
  verifyFrame e.bundle { s with fmt.passMaps := s.fmt.passMaps.map (markPassed e),
                                fmt.rewrites := s.fmt.rewrites.filter (fun r => !sameRow e r) }

/-- R51: the rewrite list after a rewrite of attempt 2 fails: the entry rejoins as the newest. -/
def rejoin (e : WindowEntry) (rs : List Rewrite) : List Rewrite :=
  rs.filter (fun r => !sameRow e r) ++ [⟨e.bundle, e.copy, e.row, e.attempt + 1, e.channel, false⟩]

/-- R49 to R52: a row fails; `scored` when the lock was LOCKED. A head fenced by it is told to ORD after a permanent write fault of
the same result (log 87). -/
def rowFailed (e : WindowEntry) (scored : Bool) (s : State) : State :=
  let s := if scored then s else { s with fmt.unscoredFailures := bump s.fmt.unscoredFailures }
  let exhausted := e.attempt = 3
  let full := e.attempt = 1 && decide (32 ≤ s.fmt.rewrites.length)
  let s := if scored then wearEvent e.channel (if exhausted then 256 else 16) s else s
  if exhausted || full then repeatOrFault e.bundle s
  else { s with fmt.rewrites := rejoin e s.fmt.rewrites }

/-- R48: a result passes its row. -/
def resultPasses (s : State) : VerifyOutcome → Bool
  | .found e => decide (e.toNat ≤ s.fmt.threshold) && s.mot.lock = .locked
  | .notFound => false

/-- R47, R48: a verify result taken against the oldest window entry. -/
def takeResult (r : VerifyOutcome) (s : State) : State :=
  match s.fmt.window with
  | [] => s
  | e :: rest =>
    let passes := resultPasses s r
    let s := { s with fmt.window := rest }
    if e.dropped then s else if passes then rowPassed e s else rowFailed e (s.mot.lock = .locked) s

/-! ### Wrap ends in STREAMING_WRITE (R47, R60, R100, R102) -/

/-- R99: a wrap turn begins. -/
def enterTurning (kind : StartKind) (s : State) : State :=
  let s := dropLock (closeRowTime s)
  { s with mot.state := .turning, mot.turnFrom := kind, mot.limitTimer := none, mot.runOn := .none }

/-- R60: the physical end, with every result owed taken: the fault if FMT has emission work, else a stop. -/
def endOfMediaCheck (s : State) : State :=
  if emissionWork s.fmt then permanentFault s.bsm.verifiedThrough .endOfMedia s else fmtCheck s

/-- R102: the stop at the physical end, its splice point there. -/
def stopAtEnd (kind : StartKind) (s : State) : State :=
  enterStopping .runUp { s with mot.splice := some (physicalEnd s), mot.startKind := some kind }

/-- R102: at the physical end a stop with another splice point gives way to the stop there. -/
def forgetStop (s : State) : State :=
  match s.mot.held with
  | some (.stop _) => { s with mot.held := none }
  | some (.start _ _) | some (.go _) | some (.unthread _) | none => s

/-- R100, R102: FMT's report that the verify window is empty, once the wrap has ended: what was asked in the run-on is
carried out, or the wrap turns, or the tape stops at the physical end. -/
def windowEmptyReport (s : State) : State :=
  if !s.fmt.window.isEmpty then s
  else
    match s.mot.runOn with
    | .none => s
    | .wrapEnd => heldStop .write (enterTurning .write) s
    | .physicalEnd => endOfMediaCheck (heldStop .write (stopAtEnd .write) (forgetStop s))

/-- What follows each verify result: the phase, then the window-empty report. -/
def afterResult (s : State) : State := windowEmptyReport (fmtCheck s)

/-! ### Placement (R42, R44, R46) -/

/-- R42: the channels of the row time that begins: those ACTIVE in the latched table, ascending. -/
def activeChannels (h : Hcm) : List Nat := (numbered 0 h.channels).filterMap (fun x => if x.2.active then some x.1 else none)

/-- R41: the row as it goes to tape. Rows 0 and 1 carry the header and index the frame holds at the placement: a window write into
them after the row was read into the out-buffer still counts (log 97). -/
def tapeRow (s : State) (r : OutRow) (f : Frame) : TapeRow :=
  let wrap := (placementOf s r.bundle).map (fun p => (placeOf s p.first).1)
  let shown := if r.row < 2 then wrap else none
  { ident := ⟨s.cml.copy.bind (fun c => c.identity), r.bundle, r.copy, r.row, shown⟩
    header := if r.row = 0 then f.header.map (fun h => { h with copy := r.copy, wrap := shown }) else none
    index := if r.row = 1 then some f.index else none
    data := r.data }

/-- R41, R46: the placement record after a row of its bundle is placed at `place`. -/
def notePlacement (r : OutRow) (place : Nat) (ps : List Placement) : List Placement :=
  if r.row = 0 && r.attempt = 1 then ps.filter (fun p => p.bundle ≠ r.bundle) ++ [⟨r.bundle, place, place⟩]
  else ps.map (fun p => if p.bundle = r.bundle then { p with latest := place } else p)

/-- R46: the pass map begun at the placement of row 0. -/
def beginPassMap (r : OutRow) (ms : List PassMap) : List PassMap :=
  if r.row = 0 && r.attempt = 1 then ms.filter (fun m => m.bundle ≠ r.bundle) ++ [⟨r.bundle, []⟩] else ms

/-- R34, R46: what BSM is told when a row of a first emission is placed: at row 0 the frame goes from SEALED to WRITING, at
row 71 from WRITING to PENDING. -/
def bsmPlaced (i : Nat) (r : OutRow) (s : State) : State :=
  let state := (frameAt s i).map (fun f => f.state)
  if r.attempt ≠ 1 then s
  else if r.row = 0 && state = some .sealed then setFrameState i .writing s
  else if r.row = 71 && state = some .writing then
    setFrameState i .pending { s with bsm.writtenThrough := r.bundle + 1 }
  else s

/-- R44: the row at the head of the out-buffer placed on a channel in the row time at the heads. A session that begins before
the tape has stopped is without a first start once a row of it is placed (R56, R59). The header is the frame's of this moment
(log 97). -/
def placeRow (r : OutRow) (rest : List OutRow) (channel : Nat) (channels : List Nat) (s : State) : State :=
  let place := (headPlace s).getD 0
  match frameOf s r.bundle with
  | some i =>
    let f := (frameAt s i).getD freeFrame
    let s := { s with fmt.placements := notePlacement r place s.fmt.placements,
                      fmt.passMaps := beginPassMap r s.fmt.passMaps }
    let s := bsmPlaced i r s
    { s with writeHeads := s.writeHeads ++ [(channel, tapeRow s r f)],
             fmt.outBuffer := rest, fmt.slots := channels,
             fmt.window := s.fmt.window ++ [⟨r.bundle, r.copy, r.row, channel, place, r.attempt, false⟩],
             fmt.rowsPlaced := bump s.fmt.rowsPlaced,
             fmt.rewritesPlaced := if r.attempt = 1 then s.fmt.rewritesPlaced else bump s.fmt.rewritesPlaced,
             fmt.resume := some (place + 1), fmt.startPoint := none, fmt.lastPlaced := r.bundle,
             fmt.boundaryDone := false }
  | none => { s with fmt.outBuffer := rest }

/-- An access of cartridge memory begun (R127). -/
def beginAccess (k : AccessKind) (fields : Option CmWrite) (s : State) : State :=
  { s with cml.access := some ⟨k, 1, fields, false⟩, cml.accesses := bump s.cml.accesses }

/-- The load count of the copy. -/
def loadCountOf (s : State) : Nat := match s.cml.copy with | some c => c.loadCount | none => 0

/-- R137: the dirty flag write asked by FMT; one access at a time. -/
def askDirtyWrite (s : State) : State :=
  if s.cml.access.isSome then s
  else beginAccess .dirtyWrite (some ⟨loadCountOf s, some true, none, none, none⟩)
    (updateCopy (fun c => { c with dirty := true }) s)

/-- R46: the bundle boundary reported to MOT once for the row at the head. -/
def reportBoundary (r : OutRow) (s : State) : State :=
  if r.row = 0 && r.attempt = 1 && !s.fmt.boundaryDone then adoptAtBoundary { s with fmt.boundaryDone := true } else s

/-- R44 to R46, R59: rows placed into the slots left of the row time in hand, while they may be. The first row of a load waits
for the write of the dirty flag before its bundle boundary is reported (log 70). -/
def placeRows : Nat → State → State
  | 0, s => s
  | k + 1, s =>
    match s.fmt.slots, s.fmt.outBuffer with
    | c :: cs, r :: rest =>
      if s.mot.state ≠ .streamingWrite || s.mot.lock ≠ .locked then s
      else if !s.cml.dirtyWritten then askDirtyWrite s
      else
        let s := reportBoundary r s
        if s.mot.lock = .locked then placeRows k (placeRow r rest c cs s) else s
    | _, _ => s

/-- Rows placed as the slots of the row time in hand allow (log 8). -/
def fmtPlace (s : State) : State :=
  if s.fmt.phase = .emitting || s.fmt.phase = .drainingWindow then fmtCheck (placeRows 16 s) else s

/-- R60: the early-warning crossing. The bundle named is the last one placed, 0 where none has been placed (log 59). -/
def earlyWarning (s : State) : State :=
  if s.fmt.ewFlag then s else raise .earlyWarning s.fmt.lastPlaced 0 0 { s with fmt.ewFlag := true }

/-- R96: the index from which the early-warning position is crossed. -/
def earlyWarningIndex (g : Geometry) : Nat := min (g.length - g.margin) (g.length - 1)

/-- R96: a row time of STREAMING_WRITE begins: the early-warning crossing, once for each entry. -/
def crossEarlyWarning (s : State) : State :=
  match s.mot.pos with
  | some p =>
    if !s.mot.ewReported && p.wrap + 1 = (geometry s).wraps && earlyWarningIndex (geometry s) ≤ p.index then
      earlyWarning { s with mot.ewReported := true }
    else s
  | none => s

/-- R42, R96: a row time reported to FMT: the channel table latched, the row slots offered. -/
def beginWriteRowTime (s : State) : State :=
  crossEarlyWarning { s with fmt.slots := activeChannels s.hcm, writeHeads := [] }

/-! ### HELD and resets (R55, R61) -/

/-- R55: FMT told of an emergency stop. With no write-mode frame held there is nothing to hold: the window empties and FMT
is STOPPED (log 60). -/
def fmtEmergency (s : State) : State :=
  let s := dropTransfers (fun p => p = .rowFetch) { s with fmt.window := [], fmt.slots := [], writeHeads := [] }
  if holdsWriteFrames s then
    let back := (s.bsm.frames.find? (fun f => f.state = .writing)).map (fun f => (⟨bundleOf f, f.copy.getD 0, 0⟩ : RowName))
    { s with fmt.phase := .held, fmt.outBuffer := [], fmt.reading := none, fmt.boundaryDone := false,
             fmt.rewrites := s.fmt.rewrites.map (fun e => { e with sent := false }),
             fmt.cursor := back.or s.fmt.cursor }
  else { s with fmt.phase := .stopped, fmt.faultMark := false }

/-- R61: FMT after a soft reset and after a discard at unload. -/
def fmtReset (s : State) : State :=
  let s := dropTransfers (fun p => p = .rowFetch) s
  { s with writeHeads := [], fmt.cursor := none, fmt.outBuffer := [], fmt.reading := none, fmt.window := [],
           fmt.rewrites := [], fmt.passMaps := [], fmt.placements := [], fmt.phase := .stopped, fmt.faultMark := false,
           fmt.slots := [], fmt.boundaryDone := false, fmt.lastCause := none, fmt.startPoint := none, fmt.resume := none }

end Sys2Proof.Machine
end

