-- ==== Sys2Proof/Machine/Compress.lean ====
section
/-! DEFINITION. The compression computation (section 1.3): keys, the matcher, tokens and the candidate; and the
decoding of a chunk's stored bytes (R75). -/

namespace Sys2Proof.Machine

/-- R6: the key of three bytes. -/
def matchKey (b0 b1 b2 : Byte) : Nat := (b0.toNat * 2809 + b1.toNat * 53 + b2.toNat) % 4096

/-- What a candidate is computed against: the history, the raw position of the chunk's first byte, the chunk. -/
structure MatchInput where
  history  : List Byte
  rawCount : Nat
  chunk    : List Byte
  deriving DecidableEq, Repr

/-- R5: the byte at a raw position of the chunk or of the history. -/
def MatchInput.byteAt (m : MatchInput) (p : Nat) : Option Byte :=
  if m.rawCount ≤ p then m.chunk[p - m.rawCount]?
  else if m.rawCount - p ≤ m.history.length then m.history[m.history.length - (m.rawCount - p)]?
  else none

/-- The bytes of the chunk from raw position `p` on. -/
def MatchInput.rest (m : MatchInput) (p : Nat) : List Byte := m.chunk.drop (p - m.rawCount)

/-- R6: the key of raw position `p`, absent with fewer than 3 bytes left. -/
def MatchInput.key (m : MatchInput) (p : Nat) : Option Nat :=
  match m.rest p with
  | b0 :: b1 :: b2 :: _ => some (matchKey b0 b1 b2)
  | _ => none

/-- R7 step 2: equal bytes from `q` and from `p` on, at most the limit. -/
def MatchInput.matchLength (m : MatchInput) : Nat → Nat → Nat → Nat
  | 0, _, _ => 0
  | limit + 1, q, p =>
    if (m.byteAt q).isSome && m.byteAt q = m.byteAt p then m.matchLength limit (q + 1) (p + 1) + 1 else 0

/-- R6: position `p` inserted, if it has a key. -/
def MatchInput.insert (m : MatchInput) (p : Nat) (table : List (Nat × Nat)) : List (Nat × Nat) :=
  match m.key p with
  | some h => tableSet table h p
  | none => table

/-- R7 step 3: `n` positions from `p` on inserted in ascending order. -/
def MatchInput.insertRange (m : MatchInput) : Nat → Nat → List (Nat × Nat) → List (Nat × Nat)
  | _, 0, table => table
  | p, n + 1, table => m.insertRange (p + 1) n (m.insert p table)

/-- R7 steps 1 and 2: the candidate position and its match length; length 0 when the candidate is not valid. -/
def MatchInput.look (m : MatchInput) (p : Nat) (table : List (Nat × Nat)) : Nat × Nat :=
  match m.key p with
  | some h =>
    match tableGet table h with
    | some q =>
      if q < p && decide (p - q ≤ historyBytes) then (q, m.matchLength (min 130 (m.rest p).length) q p) else (q, 0)
    | none => (0, 0)
  | none => (0, 0)

/-- The matcher's working values: the table, the pending literal run, the token stream so far. -/
structure Matcher where
  table   : List (Nat × Nat)
  literal : List Byte
  stream  : List Byte
  deriving DecidableEq, Repr

/-- R9: a literal-run token; an empty run is not recorded. -/
def literalToken : List Byte → List Byte
  | [] => []
  | b :: bs => BitVec.ofNat 8 bs.length :: b :: bs

/-- R9: a match token. -/
def matchToken (length distance : Nat) : List Byte := BitVec.ofNat 8 (length + 125) :: toBytes 2 (distance - 1)

/-- R8: the pending run recorded and emptied. -/
def Matcher.flushRun (w : Matcher) : Matcher := { w with literal := [], stream := w.stream ++ literalToken w.literal }

/-- R8: a byte appended to the pending run, recorded at once at 128 bytes. -/
def Matcher.addLiteral (w : Matcher) (b : Byte) : Matcher :=
  if w.literal.length + 1 = 128 then Matcher.flushRun { w with literal := w.literal ++ [b] }
  else { w with literal := w.literal ++ [b] }

/-- R7, R8: the matcher from raw position `p` to the chunk's end; the first number is fuel. -/
def MatchInput.scan (m : MatchInput) : Nat → Nat → Matcher → Matcher
  | 0, _, w => w.flushRun
  | k + 1, p, w =>
    match m.rest p with
    | [] => w.flushRun
    | b :: _ =>
      let found := m.look p w.table
      if 3 ≤ found.2 then
        let w := w.flushRun
        m.scan k (p + found.2) { w with stream := w.stream ++ matchToken found.2 (p - found.1),
                                        table := m.insertRange p found.2 w.table }
      else m.scan k (p + 1) (Matcher.addLiteral { w with table := m.insert p w.table } b)

/-- R7 to R9: the token stream of a chunk, and the table it leaves. -/
def MatchInput.tokens (m : MatchInput) (table : List (Nat × Nat)) : Matcher :=
  m.scan (m.chunk.length + 1) m.rawCount ⟨table, [], []⟩

/-- R10: the candidate of a chunk; `plain` when its form is decided before computation. -/
def MatchInput.candidate (m : MatchInput) (table : List (Nat × Nat)) (plain : Bool) : Candidate :=
  if plain then ⟨.plain, m.chunk, m.chunk, m.insertRange m.rawCount m.chunk.length table⟩
  else
    let w := m.tokens table
    if m.chunk.length ≤ w.stream.length then ⟨.plain, m.chunk, m.chunk, w.table⟩ else ⟨.packed, m.chunk, w.stream, w.table⟩

/-- The most recent 8,192 bytes (R11). -/
def recentBytes (bs : List Byte) : List Byte := bs.drop (bs.length - historyBytes)

/-! ### Decoding stored bytes (R9, R75) -/

/-- Bytes copied one at a time from a distance back. -/
def copyBack (d : Nat) : Nat → List Byte → List Byte
  | 0, w => w
  | n + 1, w => copyBack d n (w ++ [w.getD (w.length - d) 0])

/-- R75: a token stream read. `w` is the history and what the chunk has produced, `produced` counts the raw bytes of
the bundle so far, `left` what the chunk still owes. The first number is fuel; `none` is CORRUPT. -/
def readTokens : Nat → List Byte → Nat → Nat → List Byte → Option (List Byte)
  | 0, _, _, _, _ => none
  | k + 1, w, produced, left, stream =>
    match stream with
    | [] => if left = 0 then some w else none
    | c :: rest =>
      if c.toNat < 128 then
        let m := c.toNat + 1
        if left < m || rest.length < m then none
        else readTokens k (w ++ rest.take m) (produced + m) (left - m) (rest.drop m)
      else
        match rest with
        | lo :: hi :: rest' =>
          let n := c.toNat - 125
          let d := lo.toNat + 256 * hi.toNat + 1
          if left < n || produced < d || historyBytes < d then none
          else readTokens k (copyBack d n w) (produced + n) (left - n) rest'
        | _ => none

/-- R75: the raw bytes of an entry's stored bytes, `none` when they make the bundle CORRUPT. -/
def decodeStored (e : IndexEntry) (history : List Byte) (produced : Nat) (stored : List Byte) : Option (List Byte) :=
  match e.form with
  | .plain => some stored
  | .packed =>
    (readTokens (stored.length + 1) history produced e.rawLen stored).map (fun w => w.drop history.length)

end Sys2Proof.Machine
end

