-- ==== Sys2Proof/Machine/Cmp.lean ====
section
/-! DEFINITION. The compressor at work (chapter 1): intake, commits, seals, the append inside a bundle, rollback. -/

namespace Sys2Proof.Machine

/-! ### Intake (R1) -/

/-- The PLAIN flag of the TAKEN order. -/
def orderPlain (s : State) : Bool := match s.ord.record with | some r => r.plain | none => false

/-- The SYNC flag of the TAKEN order. -/
def orderSync (s : State) : Bool := match s.ord.record with | some r => r.sync | none => false

/-- The record extent at the intake cursor. -/
def cursorExtent (s : State) (c : IntakeCursor) : Extent :=
  match s.ord.record with
  | some r => descriptor r c.record
  | none => ⟨0, 0⟩

/-- R1: the number of chunks of a record. -/
def chunkCount (length : Nat) : Nat := (length + chunkBytes - 1) / chunkBytes

/-- R1: the raw bytes chunk `k` of a record covers, as an extent. -/
def chunkExtent (e : Extent) (k : Nat) : Extent :=
  ⟨e.start + chunkBytes * k, min chunkBytes (e.length - chunkBytes * k)⟩

/-- R1: the reading of the chunk at the cursor begun. -/
def readChunk (s : State) : State :=
  match s.cmp.cursor with
  | some c =>
    let e := chunkExtent (cursorExtent s c) c.chunk
    raiseRead .cmpIn .chunkIn e.start e.length s
  | none => s

/-- R1: the work of a WRITE handed to CMP. -/
def beginIntake (s : State) : State := readChunk { s with cmp.cursor := some ⟨0, 0, 0⟩, cmp.candidate := none }

/-- R1: the byte of the intake cursor advanced by a burst. -/
def advanceByte (n : Nat) (s : State) : State :=
  { s with cmp.cursor := s.cmp.cursor.map (fun c => { c with byte := c.byte + n }) }

/-- The chunk's candidate computed against the open bundle as it stands (R10). -/
def computeCandidate (raw : List Byte) (s : State) : State :=
  let m : MatchInput := ⟨s.cmp.history, s.cmp.rawCount, raw⟩
  { s with cmp.candidate := some (m.candidate s.cmp.table (orderPlain s || !s.cmp.compression)) }

/-- A chunk that waits for an open bundle: its raw bytes held. -/
def holdChunk (raw : List Byte) (s : State) : State := { s with cmp.candidate := some ⟨.plain, raw, raw, []⟩ }

/-- R3, R12: a chunk whose candidate is to be computed; while a seal is being written it waits for that (R29). With
no bundle open the history and the table are empty, as a new bundle's are. -/
def prepareChunk (raw : List Byte) (s : State) : State :=
  if s.cmp.sealing.isSome then holdChunk raw s else computeCandidate raw s

/-! ### Sealing (R15, R16, R29) -/

/-- The cartridge identity held by CML. -/
def identityOf (s : State) : Option (BitVec 64) := s.cml.copy.bind (fun c => c.identity)

/-- R15: the header of the open bundle. -/
def sealHeader (cause : SealCause) (s : State) : BundleHeader :=
  { bundle := s.bsm.sealedThrough, copy := 0, identity := identityOf s,
    firstObject := match s.cmp.index with | e :: _ => e.object | [] => 0,
    entryCount := s.cmp.index.length, payloadUsed := s.cmp.payloadFill, cause := cause, wrap := none }

/-- The bytes of rows 0 and 1 (log 11). -/
def headerRows (h : BundleHeader) (ix : List IndexEntry) : List Byte :=
  (List.range headerBytes).map (Config.headerByte h ix)

/-- R15, R29: the open bundle sealed: its header and index go through CMP_OUT into rows 0 and 1. The frame holds them from
here on, but for what a window write then changes in the bytes already written (R26). -/
def beginSeal (cause : SealCause) (s : State) : State :=
  match openFrame s with
  | some i =>
    let h := sealHeader cause s
    let ix := s.cmp.index
    let s := updateFrame i (fun f => { f with header := some h, index := ix })
      (raiseWrite .cmpOut .headerOut (frameBase s i) (headerRows h ix) s)
    emptyBundle { s with cmp.sealing := some ⟨h, ix, false, s.cmp.candidate.isSome⟩, cmp.idleTimer := none }
  | none => s

/-- R15: an open bundle without entries: its frame goes back to FREE. -/
def returnEmptyBundle (s : State) : State :=
  match openFrame s with
  | some i => settleMode (emptyBundle (freeFrameAt i { s with cmp.idleTimer := none }))
  | none => s

/-- R16, R58: a SYNC, FLUSH or DRAIN seal cause. -/
def sealCause (cause : SealCause) (s : State) : State :=
  match s.cmp.sealing with
  | some x => { s with cmp.sealing := some { x with flushSeen := true } }
  | none =>
    if (openFrame s).isNone then flushFoundNone s
    else if s.cmp.index.isEmpty then flushFoundNone (returnEmptyBundle s)
    else beginSeal cause s

/-! ### Commits (R11, R13, R14) -/

/-- R17: the idle timer started afresh. -/
def restartIdle (s : State) : State := { s with cmp.idleTimer := some (after s s.cmp.idleSeal) }

/-- R14: an object number taken: the EOD object advanced, and the logical position with it. -/
def takeObject (s : State) : State :=
  let n := eodObject s + 1
  let s := setEod n (eodBundle s) s
  { s with ord.position := n }

/-- The object number of the next entry: a new one, or that of the record whose later chunk this is. -/
def entryObject (s : State) (isFirst : Bool) : Nat := if isFirst then eodObject s else eodObject s - 1

/-- R182: the first object of the order noted. -/
def noteFirst (object : Nat) (s : State) : State := { s with ord.firstObject := s.ord.firstObject.or (some object) }

/-- R11: an entry appended to the open index; a full index seals the bundle. -/
def appendEntry (e : IndexEntry) (s : State) : State :=
  let s := restartIdle { s with cmp.index := s.cmp.index ++ [e] }
  if indexEntries ≤ s.cmp.index.length then beginSeal .index s else s

/-- R11: the candidate fits the open bundle. -/
def candidateFits (c : Candidate) (s : State) : Bool :=
  decide (c.stored.length ≤ payloadBytes - s.cmp.payloadFill) && decide (s.cmp.index.length < indexEntries)

/-- R13: the entry of the chunk at the cursor. -/
def chunkEntry (c : Candidate) (k : IntakeCursor) (s : State) : IndexEntry :=
  { kind := .data, object := entryObject s (k.chunk = 0), first := k.chunk = 0,
    last := k.chunk + 1 = chunkCount (cursorExtent s k).length, form := c.form, rawLen := c.raw.length,
    storedLen := c.stored.length }

/-- R11: the stored bytes, the history, the counts and the table at a commit. -/
def commitBytes (c : Candidate) (frame : Nat) (s : State) : State :=
  let s := raiseWrite .cmpOut .chunkOut (frameBase s frame + headerBytes + s.cmp.payloadFill) c.stored s
  { s with cmp.payloadFill := s.cmp.payloadFill + c.stored.length,
           cmp.history := recentBytes (s.cmp.history ++ c.raw), cmp.rawCount := s.cmp.rawCount + c.raw.length,
           cmp.table := c.table, cmp.candidate := none }

/-- R1: the intake cursor after the chunk at it is committed; absent at the last. -/
def nextCursor (s : State) (k : IntakeCursor) : Option IntakeCursor :=
  if k.chunk + 1 < chunkCount (cursorExtent s k).length then some ⟨k.record, k.chunk + 1, 0⟩
  else
    match s.ord.record with
    | some r => if k.record + 1 < r.count then some ⟨k.record + 1, 0, 0⟩ else none
    | none => none

/-- R1: intake goes on with the next chunk, or is complete. -/
def continueIntake (s : State) : State := if s.cmp.cursor.isSome then readChunk s else emit .intakeComplete s

/-- R11: the chunk at the cursor committed into the open frame. The first chunk of the first record notes its object, for value C
of the WRITE (log 91). -/
def commitChunk (c : Candidate) (k : IntakeCursor) (frame : Nat) (s : State) : State :=
  let e := chunkEntry c k s
  let next := nextCursor s k
  let s := commitBytes c frame s
  let s := if e.first then noteFirst e.object (takeObject s) else s
  let s := if e.last then { s with ord.records := s.ord.records + 1 } else s
  continueIntake (appendEntry e { s with cmp.cursor := next })

/-- R11, R12: the candidate committed when it fits the open bundle, else a FULL seal, after which its chunk is computed
again (sealDone). -/
def commitOrSeal (c : Candidate) (k : IntakeCursor) (s : State) : State :=
  match openFrame s with
  | some i => if candidateFits c s then commitChunk c k i s else beginSeal .full s
  | none => s

/-- R3, R11: the candidate is to be committed: with no frame OPEN, a bundle is obtained first. -/
def commitCandidate (s : State) : State :=
  if s.cmp.blocked || s.cmp.sealing.isSome then s
  else
    match s.cmp.candidate, s.cmp.cursor with
    | some c, some k => commitOrSeal c k (obtainBundle s)
    | _, _ => s

/-- R2: one mark committed to the open bundle. -/
def commitMark (s : State) : State :=
  let o := eodObject s
  let s := noteFirst o (takeObject { s with cmp.marksLeft := s.cmp.marksLeft - 1, ord.marks := s.ord.marks + 1 })
  appendEntry ⟨.mark, o, false, false, .plain, 0, 0⟩ s

/-- R2: the marks still to commit, as far as a bundle can be had; intake complete after the last. -/
def commitMarks : Nat → State → State
  | 0, s => s
  | k + 1, s =>
    if s.cmp.sealing.isSome then s
    else
      let s := obtainBundle s
      if (openFrame s).isSome then
        let s := commitMark s
        if s.cmp.marksLeft = 0 then emit .intakeComplete s else commitMarks k s
      else s

/-- R2: the work of a MARK handed to CMP. -/
def beginMarks (n : Nat) (s : State) : State := commitMarks n { s with cmp.marksLeft := n }

/-- Intake goes on once a bundle can be had again: after a seal (R12, R29), or with a frame handed over (R28). -/
def resumeIntake (s : State) : State :=
  match s.cmp.candidate with
  | some c => prepareChunk c.raw s
  | none => if 0 < s.cmp.marksLeft then commitMarks s.cmp.marksLeft s else s

/-- R12, R17: a chunk whose candidate was computed against the bundle now sealed: a new bundle is obtained first, and
intake is blocked until there is one. -/
def computeAgain (s : State) : State :=
  let s := obtainBundle s
  if (openFrame s).isSome then resumeIntake s else s

/-- R15, R29, R34: the header and index are written: the frame is SEALED, and BSM, SPM and FMT are told. -/
def sealDone (s : State) : State :=
  match s.cmp.sealing, openFrame s with
  | some x, some i =>
    let b := s.bsm.sealedThrough
    let s := setFrameState i .sealed s
    let s := setEod (eodObject s) (b + 1) { s with cmp.sealing := none, bsm.sealedThrough := b + 1 }
    let s := writeSample x.header.payloadUsed s
    let s := fmtSealed x.header.cause s
    let s := if x.flushSeen then flushFoundNone s else s
    if x.again && s.cmp.candidate.isSome then computeAgain s else resumeIntake s
  | _, _ => s

/-- R15 to R17: the idle timer expires: the open bundle is sealed, or without entries returned. -/
def idleExpiry (s : State) : State :=
  if !expired s.cmp.idleTimer s then s
  else
    let s := { s with cmp.idleTimer := none }
    if s.cmp.sealing.isSome then s else if s.cmp.index.isEmpty then returnEmptyBundle s else beginSeal .idle s

/-! ### The history and table rebuilt (R21, R22) -/

/-- Payload bytes of a frame, as they stand once the writes CMP has in hand are done. -/
def payloadMemory (s : State) : Memory :=
  (s.marb.transfers.filter (fun t => t.who = .cmpOut)).foldl (fun m t => memWriteN m t.addr t.data) s.mem

/-- The working values of a rebuild: history, table, raw count, and where the next stored bytes lie. -/
structure Rebuilt where
  history  : List Byte
  table    : List (Nat × Nat)
  rawCount : Nat
  offset   : Nat
  deriving DecidableEq, Repr

/-- R21: one kept entry passed through the insertion rule. -/
def rebuildEntry (m : Memory) (payload : Nat) (r : Rebuilt) (e : IndexEntry) : Rebuilt :=
  match e.kind with
  | .mark => r
  | .data =>
    let stored := memReadN m (payload + r.offset) e.storedLen
    let raw := (decodeStored e r.history r.rawCount stored).getD []
    let inp : MatchInput := ⟨r.history, r.rawCount, raw⟩
    ⟨recentBytes (r.history ++ raw), inp.insertRange r.rawCount raw.length r.table, r.rawCount + e.rawLen,
      r.offset + e.storedLen⟩

/-- R21, R22: the open bundle cut to the entries kept, its history and table as they would stand. -/
def keepEntries (frame : Nat) (kept : List IndexEntry) (s : State) : State :=
  let r := kept.foldl (rebuildEntry (payloadMemory s) (frameBase s frame + headerBytes)) ⟨[], [], 0, 0⟩
  { s with cmp.index := kept, cmp.payloadFill := r.offset, cmp.rawCount := r.rawCount, cmp.history := r.history,
           cmp.table := r.table }

/-! ### Rollback (R22) -/

/-- The candidate, the reading of a chunk and the blocked interval ended. -/
def dropIntake (s : State) : State :=
  let s := if s.cmp.blocked then exclusionEnd s else s
  dropTransfers (fun p => p = .chunkIn)
    { s with cmp.cursor := none, cmp.marksLeft := 0, cmp.candidate := none, cmp.blocked := false }

/-- R22: a record none of whose chunks lies in a sealed bundle ceases. -/
def ceaseRecord (object : Nat) (s : State) : State :=
  let s := setEod object (eodBundle s) s
  { s with ord.position := object,
           ord.firstObject := if s.ord.firstObject = some object then none else s.ord.firstObject }

/-- R22: the record being taken in rolled back out of the open bundle. -/
def rollbackRecord (k : IntakeCursor) (s : State) : State :=
  if k.chunk = 0 then s
  else
    let object := eodObject s - 1
    let kept := s.cmp.index.filter (fun e => !(e.kind = .data && e.object = object))
    let removed := s.cmp.index.length - kept.length
    let s := match openFrame s with
      | some i => if s.cmp.sealing.isSome then s else keepEntries i kept s
      | none => s
    if removed = k.chunk then ceaseRecord object s else s

/-- R22: an abort or a fence while intake is in hand: a WRITE is rolled back, a MARK's marks stay. -/
def rollback (s : State) : State :=
  match s.cmp.cursor with
  | some k => dropIntake (rollbackRecord k s)
  | none => dropIntake s

end Sys2Proof.Machine
end

