-- ==== Sys2Proof/Machine/Rdc.lean ====
section
/-! DEFINITION. The read decoder (chapter 4): the read session, screening, the in-buffer, closing and decoding,
rereads, copy recovery, overruns and the end of data. -/

namespace Sys2Proof.Machine

/-! ### Sessions -/

/-- A transfer's purpose is the writing of a restored row (R67) of a bundle for which a test holds. -/
def restores (p : Nat → Bool) : Purpose → Bool
  | .rowRestore b => p b
  | .setupRecord | .reportRecord | .windowRead | .windowWrite | .chunkIn | .chunkOut | .headerOut | .rowFetch | .rowStore
  | .headerIn | .entryIn | .deliver | .loopChunkIn | .loopChunkOut | .loopHeaderOut | .loopRowOut | .loopRowIn
  | .loopHeaderIn | .loopEntryIn | .loopDeliver | .loopSource | .loopDestination => false

/-- R82: RDC's state cleared; the counters and the reread limit are kept. -/
def rdcClear (s : State) : State :=
  dropTransfers (fun p => p = .rowStore || restores (fun _ => true) p)
    { s with bsm.claims := [], rdc.phase := .none, rdc.next := none, rdc.frontier := none, rdc.blankRun := 0,
             rdc.blankStart := none, rdc.inBuffer := [], rdc.assemblies := [], rdc.recovery := none,
             rdc.firstAfter := 0, rdc.onlyBundle := none, rdc.resumeAt := none, rdc.skipped := [],
             rdc.rowTime := none }

/-- R62: a session begun at bundle `b`, reading from a serpentine position; `first` is the object after the last of the
bundle before; `only` for an append read-back (R81). -/
def rdcBegin (b place first : Nat) (only : Bool) (s : State) : State :=
  { s with rdc.phase := .reading, rdc.next := some b, rdc.frontier := some place, rdc.blankRun := 0,
           rdc.blankStart := none, rdc.firstAfter := first, rdc.onlyBundle := if only then some b else none,
           rdc.resumeAt := none }

/-- The phases in which rows are screened (R65, R66). -/
def SessionPhase.active : SessionPhase → Bool
  | .reading | .overrun | .rereading | .searching => true
  | .none | .ended _ | .failed _ => false

/-- The phases in which frames are claimed (R65). -/
def SessionPhase.claims : SessionPhase → Bool
  | .reading | .rereading | .searching => true
  | .none | .overrun | .ended _ | .failed _ => false

/-- L + 1. -/
def nextBundle (s : State) : Nat := s.rdc.next.getD 0

/-- The assembly of a bundle. -/
def assemblyOf (s : State) (b : Nat) : Option Assembly := s.rdc.assemblies.find? (fun a => a.bundle = b)

/-- The assembly of a bundle changed. -/
def updateAssembly (b : Nat) (f : Assembly → Assembly) (s : State) : State :=
  { s with rdc.assemblies := s.rdc.assemblies.map (fun a => if a.bundle = b then f a else a) }

/-- The bundle's frame is DECODED or already DRAINING. -/
def hasDecoded (s : State) (b : Nat) : Bool :=
  s.bsm.frames.any (fun f => f.bundle = some b && (f.state = .decoded || f.state = .draining))

/-- Assemblies and waiting rows of bundles for which a test holds dropped, with the rows being written for them. -/
def dropAssemblies (p : Nat → Bool) (s : State) : State :=
  let headGoes := match s.rdc.inBuffer.head? with | some r => p r.bundle | none => false
  let s := dropTransfers (fun x => (headGoes && x = .rowStore) || restores p x) s
  { s with rdc.assemblies := s.rdc.assemblies.filter (fun a => !p a.bundle),
           rdc.inBuffer := s.rdc.inBuffer.filter (fun r => !p r.bundle) }

/-- The frames of bundles in FILLING for which a test holds returned to FREE, with their assemblies. -/
def freeFilling (p : Nat → Bool) (s : State) : State :=
  let left := s.bsm.frames.map (fun f => if f.state = .filling && p (bundleOf f) then freeFrame else f)
  settleMode (dropAssemblies p { s with bsm.frames := left })

/-- R73: MOT asked to stop reading at the heads. -/
def stopReading (s : State) : State := requestStop ((headPlace s).getD 0) s

/-! ### Frames claimed (R65, R68) -/

/-- R198: the loop frame, set aside while a CHECK is TAKEN. -/
def setAside (s : State) : Option Nat := if takenKind s = some .check then s.loop.map (fun l => l.frame) else none

/-- R28, R198: the lowest-numbered frame that is FREE and not set aside. -/
def lowestFree (s : State) : Option Nat :=
  match setAside s with
  | none => findFrame s (fun f => f.state = .free)
  | some i => (List.range s.bsm.frames.length).find? (fun j => j ≠ i && (frameAt s j).any (fun f => f.state = .free))

/-- R28: a frame made FILLING for bundle `b`, copy `c`, in the lowest FREE frame, the loop frame of a CHECK left out (R198);
none when none is FREE. -/
def claimFrame (b c : Nat) (s : State) : Option State :=
  match lowestFree s with
  | some i => some (updateFrame i (fun _ => ⟨.filling, some b, some c, none, []⟩) { s with bsm.mode := .read })
  | none => none

/-- R65: the read overrun stop with a splice point; SPM is told (R123). -/
def overrunStop (splice : Nat) (s : State) : State :=
  stepDown (requestStop splice { s with rdc.phase := .overrun })

/-- R65: bundle `k` is to be kept. -/
def toBeKept (s : State) (k : Nat) : Bool :=
  decide (nextBundle s ≤ k) && decide (k < eodBundle s) && !hasDecoded s k && (assemblyOf s k).isNone
    && s.rdc.phase.claims && (match s.rdc.onlyBundle with | some b => decide (k ≤ b) | none => true)

/-- R70: the frame of a bundle claimed while SEARCHING joins the held-bundle list. -/
def holdBundle (k : Nat) (s : State) : State :=
  if s.rdc.phase = .searching then
    { s with rdc.recovery := s.rdc.recovery.map (fun r => { r with held := r.held ++ [k] }) }
  else s

/-- R65, R93: row 0 of a kept copy at its first arrival is a bundle boundary. -/
def boundaryOf (row : TapeRow) (s : State) : State :=
  match assemblyOf s row.ident.bundle with
  | some a =>
    if row.ident.row ≠ 0 || a.begun.contains row.ident.copy then s
    else adoptAtBoundary (updateAssembly a.bundle (fun x => { x with begun := x.begun ++ [row.ident.copy] }) s)
  | none => s

/-- R64: a row to be kept joins the in-buffer, or is lost to a full one. -/
def keepRow (row : TapeRow) (place : Nat) (s : State) : State :=
  boundaryOf row
    (if 8 ≤ s.rdc.inBuffer.length then { s with rdc.overruns := bump s.rdc.overruns }
     else { s with rdc.inBuffer := s.rdc.inBuffer ++ [⟨row.ident.bundle, row.ident.row, place, row⟩] })

/-- An assembly just begun, with no row present (R65, R68). -/
def newAssembly (b c place : Nat) (st : AsmState) : Assembly := ⟨b, c, [], place, place, 0, st, false, [], 0⟩

/-- R65: a frame claimed for bundle `k`: its assembly begun in a state. -/
def beginAssembly (k c place : Nat) (st : AsmState) (s : State) : State :=
  holdBundle k { s with rdc.assemblies := s.rdc.assemblies ++ [newAssembly k c place st] }

/-- R28: a request of a frame for bundle `k` held while the store is in WRITE mode. -/
def holdClaim (k c place : Nat) (s : State) : State :=
  if s.bsm.claims.any (fun x => x.1 = k) then s else { s with bsm.claims := s.bsm.claims ++ [(k, c, place)] }

/-- R65: a header row of a copy to be kept claims a frame, or makes an overrun stop; in WRITE mode the claim is held. -/
def claimFor (row : TapeRow) (place : Nat) (s : State) : State :=
  let k := row.ident.bundle
  if s.bsm.mode = .write then holdClaim k row.ident.copy place s
  else
    match claimFrame k row.ident.copy s with
    | some s => keepRow row place (beginAssembly k row.ident.copy place .gathering s)
    | none => overrunStop place s

/-- R28: the held claims served as if made now, in the order they came. -/
def serveEach : List (Nat × Nat × Nat) → State → State
  | [], s => s
  | (k, c, place) :: rest, s =>
    if toBeKept s k && s.bsm.mode ≠ .write then
      match claimFrame k c s with
      | some s => serveEach rest (beginAssembly k c place .gathering s)
      | none => serveEach rest (overrunStop place s)
    else serveEach rest s

/-- R28: the store has become IDLE: RDC's held claims are served. -/
def serveClaims (s : State) : State := serveEach s.bsm.claims { s with bsm.claims := [] }

/-! ### Screening (R66, R70) -/

/-- Row 0 or row 1. -/
def headerRow (row : TapeRow) : Bool := decide (row.ident.row < 2)

/-- R66: the copy number seen, raised on the assembly and on the frame. -/
def raiseCopy (k c : Nat) (s : State) : State :=
  let s := updateAssembly k (fun a => { a with copy := max a.copy c }) s
  { s with bsm.frames := s.bsm.frames.map (fun f =>
      if f.bundle = some k && f.state = .filling then { f with copy := some (max (f.copy.getD 0) c) } else f) }

/-- R70: a header of a copy of the bundle sought returns its assembly to GATHERING. Its latest arrival position becomes
the header's, so that it does not close at once (log 61). -/
def regather (row : TapeRow) (place : Nat) (s : State) : State :=
  if headerRow row && s.rdc.phase = .searching then
    updateAssembly row.ident.bundle (fun a =>
      if a.state = .sought then { a with state := .gathering, latest := max a.latest place } else a) s
  else s

/-- R66: a row for an existing assembly: kept unless already present. Row 0 of a copy that joins the assembly is a bundle
boundary at its first arrival (R93), present or not. -/
def keepForAssembly (a : Assembly) (row : TapeRow) (place : Nat) (s : State) : State :=
  let s := regather row place (raiseCopy a.bundle row.ident.copy s)
  if a.present.contains row.ident.row then boundaryOf row s else keepRow row place s

/-- R66: a header row of a superseded copy, or of a copy of a bundle with a DECODED frame, is counted once for its copy. -/
def skipCopy (row : TapeRow) (s : State) : State :=
  let c := (row.ident.bundle, row.ident.copy)
  if headerRow row && !s.rdc.skipped.contains c then
    { s with rdc.superseded := bump s.rdc.superseded, rdc.skipped := c :: s.rdc.skipped }
  else s

/-- R70: a header row of a copy of another bundle beyond the frontier counts while SEARCHING, once for its copy. -/
def countPosition (row : TapeRow) (beyond : Bool) (s : State) : State :=
  match s.rdc.recovery with
  | some r =>
    let c := (row.ident.bundle, row.ident.copy)
    if s.rdc.phase = .searching && beyond && headerRow row && row.ident.bundle ≠ r.bundle && !r.passed.contains c then
      { s with rdc.recovery := some { r with count := r.count + 1, passed := c :: r.passed } }
    else s
  | none => s

/-- R65, R66: one good row screened. -/
def screenRow (place : Nat) (row : TapeRow) (s : State) : State :=
  let k := row.ident.bundle
  match assemblyOf s k with
  | some a => keepForAssembly a row place s
  | none =>
    if k < nextBundle s || hasDecoded s k then skipCopy row s
    else if headerRow row && toBeKept s k then claimFor row place s
    else s

/-! ### What the read heads report (R63) -/

/-- R63: a head's outcome is a sensed but unreadable row: more than 8 symbol errors. -/
def headFails : HeadOutcome → Bool
  | .unreadable => true
  | .found e _ => decide (8 < e.toNat)
  | .absent => false

/-- R63, R130: the row's identification names the cartridge loaded. -/
def sameCartridge (s : State) (row : TapeRow) : Bool :=
  match identityOf s with
  | some i => row.ident.identity = some i
  | none => true

/-- R63: the good rows of a row time, in channel order. -/
def goodRows (s : State) (heads : List (Fin 16 × HeadOutcome)) : List TapeRow :=
  heads.filterMap (fun h =>
    match h.2 with
    | .found e row => if e.toNat ≤ 8 && sameCartridge s row then some row else none
    | .unreadable | .absent => none)

/-- R63: unreadable rows counted and told to HCM as LOST_READ. -/
def countUnreadable : List (Fin 16 × HeadOutcome) → State → State
  | [], s => s
  | h :: hs, s =>
    countUnreadable hs
      (if headFails h.2 then wearEvent h.1.val 8 { s with rdc.unreadable := bump s.rdc.unreadable } else s)

/-- The row time at a serpentine position is beyond the frontier. -/
def beyondFrontier (place : Nat) (s : State) : Bool :=
  match s.rdc.frontier with
  | some f => decide (f < place)
  | none => true

/-- A head has already reported in the row time in hand. -/
def reportedBefore (s : State) : Bool := s.rdc.rowTime.isSome

/-- The row time in hand lay beyond the frontier when its first head reported. -/
def rowTimeBeyond (s : State) : Bool :=
  match s.rdc.rowTime with
  | some t => t.2
  | none => false

/-- The row time in hand noted at its first report. -/
def noteRowTime (place : Nat) (s : State) : State :=
  if reportedBefore s then s else { s with rdc.rowTime := some (place, beyondFrontier place s) }

/-- R63: the first report of a row time: one without a good row adds 1 to the blank run (log 42). -/
def openRowTime (n place : Nat) (s : State) : State :=
  { noteRowTime place s with
           rdc.blankRun := if n = 0 then min (s.rdc.blankRun + 1) 2000 else 0,
           rdc.blankStart := if n = 0 then (if s.rdc.blankRun = 0 then some place else s.rdc.blankStart) else none }

/-- R63: the rows received, and the blank run, after a report with `n` good rows in the row time at a place: a good row
on some channel sets the run to 0. -/
def countRows (n place : Nat) (s : State) : State :=
  let s := { s with rdc.rowsReceived := min (s.rdc.rowsReceived + n) maxWord }
  if !reportedBefore s then openRowTime n place s
  else if n = 0 then s
  else { s with rdc.blankRun := 0, rdc.blankStart := none }

/-! ### Rows written into frames (R64) -/

/-- The header and index that a frame's rows 0 and 1 bring. -/
def frameTakes (row : TapeRow) (f : Frame) : Frame :=
  if row.ident.row = 0 then { f with header := row.header }
  else if row.ident.row = 1 then { f with index := row.index.getD [] }
  else f

/-- R64: the writing of the oldest in-buffer row begun. A parity row is not stored: its traffic is a reading of the first
16,384 bytes of the work area it is folded into (log 17). The frame holds the header or index that row 0 or 1 brings from
here on, but for what a window write then changes in the bytes already written (R26). -/
def storeRow (s : State) : State :=
  if transferInHand s .rowStore then s
  else
    match s.rdc.inBuffer with
    | r :: rest =>
      match findFrame s (fun f => f.state = .filling && f.bundle = some r.bundle) with
      | some i =>
        if r.row < 66 then
          raiseWrite .rowIn .rowStore (rowAddress s i r.row) r.tape.data (updateFrame i (frameTakes r.tape) s)
        else raiseRead .rowIn .rowStore (rowAddress s i r.row) rowBytes s
      | none => { s with rdc.inBuffer := rest }
    | [] => s

/-- R64: the present map and the latest arrival position after a row is stored. -/
def markPresent (r : InRow) (a : Assembly) : Assembly :=
  { a with present := if a.present.contains r.row then a.present else a.present ++ [r.row],
           latest := max a.latest r.place }

/-- R64: the working values of a read frame folded with a row. -/
def foldRead (i : Nat) (first : Bool) (r : InRow) (s : State) : State :=
  let old := if first then [] else workValues s i
  { s with mem := memWriteN s.mem (frameBase s i + workOffset) (foldRow old r.row r.tape.data) }

/-- R64: the last burst of the oldest in-buffer row. -/
def rowStored (s : State) : State :=
  match s.rdc.inBuffer with
  | r :: rest =>
    let s := { s with rdc.inBuffer := rest }
    match findFrame s (fun f => f.state = .filling && f.bundle = some r.bundle), assemblyOf s r.bundle with
    | some i, some a =>
      updateAssembly r.bundle (markPresent r) (foldRead i a.present.isEmpty r s)
    | _, _ => s
  | [] => s

/-! ### Decoding (R67) -/

/-- R67: L advanced through each following bundle whose frame is DECODED. -/
def advanceNext : Nat → State → State
  | 0, s => s
  | k + 1, s =>
    if s.rdc.next.isSome && hasDecoded s (nextBundle s) then
      advanceNext k { s with rdc.next := some (nextBundle s + 1) }
    else s

/-- The FILLING frame of a bundle. -/
def fillingFrame (s : State) (b : Nat) : Option Nat :=
  findFrame s (fun f => f.state = .filling && f.bundle = some b)

/-- R67: the frame of a bundle becomes DECODED, and L advances. Rows of the bundle that still wait in the in-buffer are removed
unwritten, and the writing of one in hand is dropped (log 84). -/
def makeDecoded (i b : Nat) (s : State) : State :=
  let s := setFrameState i .decoded (dropAssemblies (fun x => x = b) s)
  advanceNext s.bsm.frames.length s

/-- R67: one absent data row restored from the working values: its writing through ROW_IN begun. -/
def restoreInto (i b : Nat) (work : List Byte) (present : List Nat) (r : Nat) (s : State) : State :=
  let s := raiseWrite .rowIn (.rowRestore b) (rowAddress s i r) (restoreRow work present r) s
  if r = 0 then updateFrame i (fun f => { f with header := Config.restoreHeader work present }) s
  else if r = 1 then updateFrame i (fun f => { f with index := Config.restoreIndex work present }) s
  else s

/-- R67: the absent data rows restored. -/
def restoreRows (i b : Nat) (work : List Byte) (present : List Nat) : List Nat → State → State
  | [], s => s
  | r :: rs, s => restoreRows i b work present rs (restoreInto i b work present r s)

/-- R70: a recovery of bundle `b` has succeeded. -/
def recoverySucceeds (b : Nat) (s : State) : State :=
  match s.rdc.recovery with
  | some r =>
    if r.bundle = b then
      { s with rdc.recovery := none, rdc.phase := if s.rdc.phase = .searching then .reading else s.rdc.phase }
    else s
  | none => s

/-- R67: an assembly's bundle decodes: the frame is DECODED at once with all data rows present, and otherwise once the rows
restored have been written; meanwhile every row counts as present. -/
def decodeBundle (a : Assembly) (s : State) : State :=
  match fillingFrame s a.bundle with
  | some i =>
    let absent := (List.range 66).filter (fun r => !a.present.contains r)
    let s := recoverySucceeds a.bundle s
    if absent.isEmpty then makeDecoded i a.bundle s
    else
      restoreRows i a.bundle (workValues s i) a.present absent (updateAssembly a.bundle (fun x =>
        { x with present := List.range 72, state := .gathering, closing := false, restoring := absent.length }) s)
  | none => dropAssemblies (fun b => b = a.bundle) s

/-- R67: a restored row of bundle `b` is written; after the last the frame is DECODED. -/
def rowRestored (b : Nat) (s : State) : State :=
  match assemblyOf s b, fillingFrame s b with
  | some a, some i =>
    if 1 < a.restoring then updateAssembly b (fun x => { x with restoring := x.restoring - 1 }) s else makeDecoded i b s
  | _, _ => s

/-- R71: copy recovery for bundle `b` fails. -/
def failRecovery (b : Nat) (s : State) : State :=
  stopReading { s with rdc.recoveriesFailed := bump s.rdc.recoveriesFailed, rdc.phase := .failed b,
                       rdc.recovery := none }

/-- R67: the decode test of an assembly. One that does not decode waits for a reread; the bundle sought fails its
recovery (R70). -/
def decodeTest (a : Assembly) (s : State) : State :=
  if 66 ≤ a.present.length then decodeBundle a s
  else
    let s := updateAssembly a.bundle (fun x => { x with state := .awaiting, closing := false }) s
    match s.rdc.recovery with
    | some r => if r.bundle = a.bundle then failRecovery a.bundle s else s
    | none => s

/-- No row of a bundle waits in the in-buffer. -/
def bufferClear (s : State) (b : Nat) : Bool := s.rdc.inBuffer.all (fun r => r.bundle ≠ b)

/-- R67: a GATHERING assembly is to close as the frontier stands. -/
def closes (frontier : Nat) (a : Assembly) : Bool :=
  a.state = .gathering && a.restoring = 0 && (a.present.length = 72 || decide (a.latest + 32 ≤ frontier))

/-- R67, R69: GATHERING assemblies closed, but for a reread pass, in which none closes behind the frontier. -/
def closeAssemblies (s : State) : State :=
  if s.rdc.phase = .rereading then s
  else { s with rdc.assemblies := s.rdc.assemblies.map (fun a =>
      if closes (s.rdc.frontier.getD 0) a then { a with closing := true } else a) }

/-- R67: all 72 rows of the assembly are present. -/
def allPresent (a : Assembly) : Bool := a.present.length = 72 && a.restoring = 0

/-- R67: an assembly with all 72 rows present whose decode test is due: at once in AWAITING_REREAD, REREADING or SOUGHT; in
GATHERING, where the count closes it, once no row of the bundle waits in the in-buffer, in a pass too (log 82). -/
def fullDue (s : State) (a : Assembly) : Bool := allPresent a && (a.state ≠ .gathering || bufferClear s a.bundle)

/-- R67: an assembly whose decode test is due: all 72 rows present, or closed with no row of it waiting. -/
def testDue (s : State) (a : Assembly) : Bool := fullDue s a || (a.closing && bufferClear s a.bundle)

/-- R67: the decode tests for which a condition holds; the first number is fuel. -/
def runTests (due : State → Assembly → Bool) : Nat → State → State
  | 0, s => s
  | k + 1, s =>
    match s.rdc.assemblies.find? (due s) with
    | some a => runTests due k (decodeTest a s)
    | none => s

/-! ### Rereads and recovery (R69, R70) -/

/-- The lowest-numbered assembly in a state. -/
def lowestAssembly (st : AsmState) : List Assembly → Option Assembly
  | [] => none
  | a :: as =>
    match lowestAssembly st as with
    | some b => if a.state = st && a.bundle ≤ b.bundle then some a else some b
    | none => if a.state = st then some a else none

/-- R69: the reread pass of an assembly: MOT resumes reading from its earliest arrival position. -/
def startPass (a : Assembly) (s : State) : State :=
  restartAt a.earliest .read
    (updateAssembly a.bundle (fun x => { x with state := .rereading, closing := false }) { s with rdc.phase := .rereading })

/-- R69: a reread pass begun. -/
def beginReread (a : Assembly) (s : State) : State :=
  startPass a (updateAssembly a.bundle (fun x => { x with attempts := x.attempts + 1 })
    { s with rdc.rereads := bump s.rdc.rereads })

/-- The session has read to the physical end. -/
def atPhysicalEnd (s : State) : Bool :=
  match s.rdc.frontier with
  | some p => decide (physicalEnd s ≤ p + 1)
  | none => false

/-- R70: copy recovery begun; at the physical end it fails (R72). -/
def beginRecovery (a : Assembly) (s : State) : State :=
  let s := updateAssembly a.bundle (fun x => { x with state := .sought, closing := false })
    { s with rdc.recoveries := bump s.rdc.recoveries, rdc.phase := .searching, rdc.recovery := some ⟨a.bundle, 0, [], []⟩ }
  if atPhysicalEnd s then failRecovery a.bundle s else requestStart none .read s

/-- R69: the turn of an assembly awaiting a reread. -/
def takeTurn (a : Assembly) (s : State) : State :=
  if a.attempts < s.rdc.limit then beginReread a s else beginRecovery a s

/-- R69, R73: in READING the turn of the lowest-numbered assembly awaiting a reread comes; one whose pass an overrun broke off
begins its pass again, with the attempt already counted. -/
def rereadTurn (s : State) : State :=
  if s.rdc.phase = .reading then
    match lowestAssembly .rereading s.rdc.assemblies, lowestAssembly .awaiting s.rdc.assemblies with
    | some r, some a => if a.bundle < r.bundle then takeTurn a s else startPass r s
    | some r, none => startPass r s
    | none, some a => takeTurn a s
    | none, none => s
  else s

/-- R69: the heads have reached the frontier: the pass ends and the decode test is applied at once. -/
def endPass (s : State) : State :=
  let s := { s with rdc.phase := .reading }
  match lowestAssembly .rereading s.rdc.assemblies with
  | some a => decodeTest a s
  | none => s

/-- R69: the heads have reached the frontier, as it stood before this row time. -/
def passReaches (place : Nat) (s : State) : Bool :=
  s.rdc.phase = .rereading && (match s.rdc.frontier with | some f => decide (f ≤ place) | none => true)

/-! ### Missed bundles (R68) -/

/-- R68: the missed bundle L + 1 claimed as one that did not decode, or an overrun stop. No header of it was met: its frame
and assembly hold copy number 0 (log 62). In WRITE mode the request waits, and is made again by the next check (R28). -/
def claimMissed (earliest : Nat) (s : State) : State :=
  if s.bsm.mode = .write then s
  else
    match claimFrame (nextBundle s) 0 s with
    | some s => beginAssembly (nextBundle s) 0 earliest .awaiting s
    | none => overrunStop earliest s

/-- The bundle L + 1 has no assembly and no DECODED frame. -/
def nextAbsent (s : State) : Bool :=
  s.rdc.next.isSome && !hasDecoded s (nextBundle s) && (assemblyOf s (nextBundle s)).isNone

/-- R68, R81: L + 1 is absent and is one the session is to have. -/
def nextWanted (s : State) : Bool :=
  nextAbsent s && decide (nextBundle s < eodBundle s)
    && (match s.rdc.onlyBundle with | some b => decide (nextBundle s ≤ b) | none => true)

/-- R68: an assembly above L + 1 that the frontier has left 32 row times behind. -/
def higherPassed (s : State) : Option Assembly :=
  s.rdc.assemblies.find? (fun a => decide (nextBundle s < a.bundle) && decide (a.earliest + 32 ≤ s.rdc.frontier.getD 0))

/-- R68: L + 1 found missed by the frontier. -/
def missedCheck (s : State) : State :=
  if s.rdc.phase.claims && nextWanted s then
    match higherPassed s with
    | some a => claimMissed (a.earliest - 64) s
    | none => s
  else s

/-! ### End of data (R72) -/

/-- R72: every bundle of the data has been made DECODED, in the read-back of an append too (R81). -/
def endCheck (s : State) : State :=
  if s.rdc.phase.active && s.rdc.next.isSome && decide (eodBundle s ≤ nextBundle s) then
    stopReading { s with rdc.phase := .ended (eodBundle s) }
  else s

/-- R70: the search ends when the count reaches 4. -/
def searchCheck (s : State) : State :=
  match s.rdc.recovery with
  | some r => if s.rdc.phase = .searching && 4 ≤ r.count then failRecovery r.bundle s else s
  | none => s

/-! ### Overruns (R65) -/

/-- Reading goes on after an overrun: a reread pass in hand begins again from its start, a search goes on. -/
def resumeReading (s : State) : State :=
  match lowestAssembly .rereading s.rdc.assemblies with
  | some a => startPass a s
  | none => requestStart none .read { s with rdc.phase := if s.rdc.recovery.isSome then .searching else .reading }

/-- R65: the FREE count has reached the restart threshold. While a turn lasts MOT would disregard the restart: it is asked
once the stop is under way (R95, R98). -/
def overrunRestart (s : State) : State :=
  if s.rdc.phase = .overrun && decide (restartThreshold s ≤ frameCount s .free) && s.mot.state.takesStart then
    resumeReading s
  else s

/-- R65: a stalled overrun: L + 1 not DECODED, nothing at or below L in the store, so no drain can free a frame. -/
def stalled (s : State) : Bool :=
  s.rdc.phase = .overrun && s.mot.state.takesStart && s.rdc.next.isSome && !hasDecoded s (nextBundle s)
    && s.bsm.frames.all (fun f => !(f.state.readMode && decide (bundleOf f < nextBundle s)))

/-- R65: the highest-numbered bundle above L + 1 that is FILLING or DECODED. -/
def highestAbove (s : State) : List Frame → Option Nat
  | [] => none
  | f :: fs =>
    let here := (f.state = .filling || f.state = .decoded) && decide (nextBundle s < bundleOf f)
    match highestAbove s fs with
    | some b => if here && decide (b < bundleOf f) then some (bundleOf f) else some b
    | none => if here then some (bundleOf f) else none

/-- R65: the frame of a bundle discarded to make room, with its assembly and its place in the held-bundle list. -/
def discardBundle (b : Nat) (s : State) : State :=
  let left := s.bsm.frames.map (fun f => if f.state.readMode && f.bundle = some b then freeFrame else f)
  let s := dropAssemblies (fun x => x = b) { s with bsm.frames := left }
  { s with rdc.recovery := s.rdc.recovery.map (fun r => { r with held := r.held.filter (fun x => x ≠ b) }) }

/-- Where a missed bundle's reread begins: 64 row times before the earliest arrival above it (R68), or, where no assembly stands
above it, before the frontier, which the spec does not say (log 83). -/
def missedFrom (s : State) : Nat :=
  (s.rdc.assemblies.foldl (fun e a => min e a.earliest) (s.rdc.frontier.getD 0)) - 64

/-- R65: room made once L + 1 has been tested; the turn of L + 1 follows (rereadTurn). -/
def makeRoom (s : State) : State :=
  if s.rdc.phase ≠ .overrun || !stalled s || (assemblyOf s (nextBundle s)).any (fun a => decide (0 < a.restoring)) then s
  else
    let from' := missedFrom s
    match highestAbove s s.bsm.frames with
    | some b =>
      let s := discardBundle b s
      let s := if nextAbsent s then claimMissed from' s else s
      { s with rdc.phase := .reading }
    | none => s

/-- R65: what RDC does at a stalled overrun, once no row of L + 1 waits in the in-buffer. -/
def stalledRoom (s : State) : State :=
  if stalled s && bufferClear s (nextBundle s) then
    match assemblyOf s (nextBundle s) with
    | some a =>
      if 0 < a.restoring then s
      else if a.state = .gathering || a.state = .sought then makeRoom (decodeTest a s)
      else makeRoom s
    | none => makeRoom s
  else s

/-! ### The checks after each event -/

/-- What follows from the session's state: closings, tests, the search's end, missed bundles, the turn of a reread,
the end of data, overruns. An ENDED or FAILED session makes no claim and asks for no motion, and its assemblies close and are
tested as before (R67, R71, R72). In FAULT_HELD all stands as it is (R89), but that a bundle with all its rows present decodes
wherever the session stands (R67). -/
def rdcCheck (s : State) : State :=
  if s.rdc.phase.active && s.mot.state ≠ .faultHeld then
    let s := runTests testDue (s.rdc.assemblies.length + 1) (closeAssemblies s)
    let s := searchCheck s
    let s := if s.rdc.phase = .rereading && (lowestAssembly .rereading s.rdc.assemblies).isNone then
        { s with rdc.phase := .reading } else s
    let s := missedCheck s
    let s := endCheck s
    let s := stalledRoom (overrunRestart s)
    rereadTurn s
  else if s.rdc.phase = .none then s
  else if s.mot.state = .faultHeld then runTests fullDue s.rdc.assemblies.length s
  else runTests testDue s.rdc.assemblies.length (closeAssemblies s)

/-- The good rows of a row time screened in channel order; a header that brings the count to 4 fails the search before it
is screened (R70). -/
def screenRows (place : Nat) (beyond : Bool) : List TapeRow → State → State
  | [], s => s
  | r :: rs, s => screenRows place beyond rs (screenRow place r (searchCheck (countPosition r beyond s)))

/-- R63 to R69: a report in the row time at a place in a read session; `first` when no head reported in it before. -/
def sessionRowTime (rows : List TapeRow) (place : Nat) (first : Bool) (s : State) : State :=
  let reached := first && passReaches place s
  let s := screenRows place (rowTimeBeyond s) rows { s with rdc.frontier := some (max (s.rdc.frontier.getD 0) place) }
  rdcCheck (if reached && s.rdc.phase = .rereading then endPass s else s)

/-- R70, R72: the recovery in progress fails at the physical end, unless its bundle closes there and its test is due
(log 54). -/
def endSearch (s : State) : State :=
  match s.rdc.recovery with
  | some r =>
    if s.rdc.phase = .searching && !(assemblyOf s r.bundle).any (fun a => a.closing) then failRecovery r.bundle s else s
  | none => s

/-- R72: the physical end in STREAMING_READ: every GATHERING assembly closes and is tested, a recovery in progress
fails. -/
def rdcPhysicalEnd (s : State) : State :=
  if s.rdc.phase.active then
    let s := { s with rdc.assemblies := s.rdc.assemblies.map (fun a =>
      if a.state = .gathering && a.restoring = 0 then { a with closing := true } else a) }
    endSearch (rdcCheck (if s.rdc.phase = .rereading then endPass s else s))
  else s

/-- The last object of an index. -/
def lastObject (ix : List IndexEntry) : Option Nat := ix.getLast?.map (fun e => e.object)

/-- The object after the last object of bundle L (R72): from its frame, from DCP where it has been delivered, or, where L lies
before the session's start bundle, from the header that bundle was found by. -/
def objectAfterL (s : State) : Nat :=
  let last := match frameOf s (nextBundle s - 1) with
    | some i => (frameAt s i).bind (fun f => lastObject f.index)
    | none => s.dcp.lastObject
  match last with
  | some o => o + 1
  | none => s.rdc.firstAfter

/-- R72: the blank run has reached its limit on a rebuilt cartridge: the session ends at L + 1, and the EOD values
are lowered. In an append read-back they stay as they were, since its bundle then cannot be decoded (R21; log 96). -/
def endByBlank (s : State) : State :=
  let s := stopReading (freeFilling (fun _ => true)
    { s with rdc.phase := .ended (nextBundle s), rdc.recovery := none })
  if nextBundle s < eodBundle s && s.rdc.onlyBundle.isNone then
    let o := objectAfterL s
    truncateAt o (nextBundle s) o (s.rdc.blankStart.getD 0) s
  else s

/-- R68, R70, R72: the blank run reaches 2,000 row times in a read session. -/
def sessionBlank (s : State) : State :=
  if !s.rdc.phase.active then s
  else
    match (if s.rdc.phase = .searching then s.rdc.recovery else none) with
    | some r => failRecovery r.bundle s
    | none =>
      if s.cml.rebuilt then endByBlank s
      else if s.rdc.phase.claims && nextWanted s then rdcCheck (claimMissed (s.rdc.blankStart.getD 0 - 64) s)
      else s

end Sys2Proof.Machine
end

