-- ==== Sys2Proof/Machine/Dcp.lean ====
section
/-! DEFINITION. The decompressor (chapter 4): frames taken in bundle order, the checks of a bundle, delivery into
read extents, release points of a READ, abort, and the read-back of an append. -/

namespace Sys2Proof.Machine

/-- A wait reported as ended (R74, R82). -/
def endWait (s : State) : State :=
  if s.dcp.waiting then exclusionEnd { s with dcp.waiting := false } else s

/-- R82: DCP's state cleared; a wait is reported as ended. -/
def dcpClear (s : State) : State :=
  let s := dropTransfers (fun p => p = .headerIn || p = .entryIn || p = .deliver) (endWait s)
  { s with dcp.phase := .idle, dcp.next := none, dcp.frame := none, dcp.entry := 0, dcp.history := [],
           dcp.produced := 0, dcp.stored := [], dcp.extent := 0, dcp.record := none, dcp.lastObject := none,
           dcp.replay := false }

/-- A read session ended: RDC and DCP cleared, and the tape stopped if it is running to read, reading, or turning in reading
(R59: a write session may follow). -/
def endReadSession (s : State) : State :=
  let reading := s.mot.state = .streamingRead || (s.mot.state = .starting && s.mot.startKind = some .read)
    || (s.mot.state = .turning && s.mot.turnFrom = .read)
  let s := dcpClear (rdcClear s)
  if reading then stopReading s else s

/-- R37, R82: every read-mode frame discarded and the session ended. -/
def discardReadAhead (s : State) : State :=
  let s := discardRead s
  if s.rdc.phase = .none && s.rdc.resumeAt.isNone && s.dcp.next.isNone then s else endReadSession s

/-! ### The frame in hand -/

/-- The frame DCP has begun. -/
def dcpFrame (s : State) : Option Frame := s.dcp.frame.bind (frameAt s)

/-- The index of the frame in hand, as the frame holds it at each entry: a window write into its row 1 after the reading of the
header and index still counts (log 97). -/
def dcpIndex (s : State) : List IndexEntry := match dcpFrame s with | some f => f.index | none => []

/-- Where the stored bytes of entry `k` begin in the payload. -/
def storedOffset (ix : List IndexEntry) (k : Nat) : Nat := (ix.take k).foldl (fun n e => n + e.storedLen) 0

/-- An append is being read back (R81). -/
def readingBack (s : State) : Bool := s.ord.append.isSome

/-- A READ is delivering. -/
def delivering (s : State) : Bool := atStage s .read .reading && s.ord.find.isNone

/-! ### The checks of R74 -/

/-- R74: an entry after the object number of the one before it. -/
def entryFollows (before : Nat) (e : IndexEntry) : Bool :=
  if e.kind = .data && !e.first then e.object = before else e.object = before + 1

/-- R74: the object numbers run on from entry to entry. -/
def entriesFollow : List IndexEntry → Bool
  | e :: f :: rest => entryFollows e.object f && entriesFollow (f :: rest)
  | _ => true

/-- R74: the lengths of one entry. -/
def entryLengths (e : IndexEntry) : Bool :=
  e.kind = .mark
    || (decide (1 ≤ e.rawLen) && decide (e.rawLen ≤ chunkBytes) && (e.form = .packed || e.storedLen = e.rawLen))

/-- R74: the header and index of a bundle are consistent; `before` is the last object of the bundle finished before. -/
def consistent (h : BundleHeader) (ix : List IndexEntry) (before : Option Nat) : Bool :=
  decide (1 ≤ h.entryCount) && decide (h.entryCount ≤ indexEntries) && h.entryCount = ix.length
    && (ix.head?.map (fun e => e.object)) = some h.firstObject
    && entriesFollow ix && ix.all entryLengths
    && storedOffset ix ix.length = h.payloadUsed && decide (h.payloadUsed ≤ payloadBytes)
    && (match before with | some o => decide (h.firstObject ≤ o + 1) | none => true)

/-! ### Records (R76, R77) -/

/-- The extent being filled. -/
def readExtent (s : State) : Extent :=
  match s.ord.record with
  | some r => descriptor r s.dcp.extent
  | none => ⟨0, 0⟩

/-- R76, R77: the record in hand ends: its extent's result, the position, the next extent. -/
def finishRecord (s : State) : State :=
  match s.dcp.record with
  | some r =>
    { s with dcp.record := none, dcp.extent := s.dcp.extent + 1,
             ord.extents := s.ord.extents ++ [⟨r.length, decide ((readExtent s).length < r.length)⟩],
             ord.delivered := s.ord.delivered + 1, ord.firstObject := s.ord.firstObject.or (some r.object),
             ord.position := r.object + 1 }
  | none => s

/-- R78: every extent of the READ has its record. -/
def extentsFilled (s : State) : Bool :=
  match s.ord.record with
  | some r => decide (r.count ≤ s.dcp.extent)
  | none => false

/-- A READ completed: the wait ends, DCP rests with its cursor. -/
def completeRead (st : Status) (rs : Reason) (s : State) : State :=
  complete st rs { endWait s with dcp.phase := if s.dcp.phase = .header then .header else .idle, dcp.record := none }

/-- R71, R75: a READ ends with MEDIA_ERROR; every read-mode frame is discarded and the session ends. -/
def mediaError (s : State) : State := discardReadAhead (completeRead .mediaError .none s)

/-- R75, R81: the bundle in hand is CORRUPT. -/
def corruptBundle (s : State) : State :=
  let s := { s with dcp.corrupt := bump s.dcp.corrupt, dcp.phase := .idle }
  if readingBack s then emit (.readBack false) s else mediaError s

/-! ### Going on from the cursor (R74, R76, R78, R79) -/

/-- R79: the last entry is finished with: the frame goes to FREE and DCP is ready for the next bundle. -/
def finishFrame (s : State) : State :=
  match s.dcp.frame with
  | some i =>
    let last := lastObject (dcpIndex s)
    drainFrame i { s with dcp.frame := none, dcp.entry := 0, dcp.history := [], dcp.produced := 0,
                          dcp.lastObject := last, dcp.next := s.dcp.next.map (fun b => b + 1) }
  | none => s

/-- The cursor moved past the entry it names; past the last, the frame is finished. -/
def passEntry (s : State) : State :=
  let s := { s with dcp.entry := s.dcp.entry + 1, dcp.stored := [], dcp.phase := .idle }
  if (dcpIndex s).length ≤ s.dcp.entry && !readingBack s then finishFrame s else s

/-- The stored bytes of the entry at the cursor are fetched; an entry without any is ready at once. -/
def fetchEntry (i : Nat) (e : IndexEntry) (s : State) : State :=
  if e.kind = .mark || e.storedLen = 0 then { s with dcp.phase := .ready, dcp.stored := [] }
  else raiseRead .dcpIn .entryIn (frameBase s i + headerBytes + storedOffset (dcpIndex s) s.dcp.entry) e.storedLen
    { s with dcp.phase := .fetching }

/-- R74: DCP begins a DECODED frame; for a READ it becomes DRAINING. -/
def beginFrame (i : Nat) (s : State) : State :=
  let s := endWait s
  let s := if readingBack s then s else setFrameState i .draining s
  raiseRead .dcpIn .headerIn (frameBase s i) headerBytes
    { s with dcp.phase := .header, dcp.frame := some i, dcp.entry := 0, dcp.history := [], dcp.produced := 0 }

/-- The frame of a bundle, when DECODED. -/
def decodedFrame (s : State) (b : Nat) : Option Nat :=
  findFrame s (fun f => f.bundle = some b && f.state = .decoded)

/-- R74: DCP waits for the next bundle during a READ. In an append read-back it sets no mark and tells SPM of no wait, as
the table of 4.1 has it (log 85). -/
def beginWait (s : State) : State :=
  if s.dcp.waiting || readingBack s then s else exclusionStart { s with dcp.waiting := true }

/-- R78: the session stands ended, or failed, at or below the bundle DCP needs. -/
def endedAt (s : State) (b : Nat) : Bool := match s.rdc.phase with | .ended e => decide (e ≤ b) | _ => false

/-- R71: the session has failed at or below the bundle DCP needs. -/
def failedAt (s : State) (b : Nat) : Bool := match s.rdc.phase with | .failed e => decide (e ≤ b) | _ => false

/-- R78: the end of the data is met: a record without its last entry ends there first (R76). -/
def meetEnd (s : State) : State :=
  let s := finishRecord s
  if extentsFilled s then completeRead .ok .none s else completeRead .doneShort .endOfData s

/-- R74, R78: DCP is ready for a bundle. -/
def needBundle (b : Nat) (s : State) : State :=
  match decodedFrame s b with
  | some i => beginFrame i s
  | none =>
    if readingBack s then (if failedAt s b || endedAt s b then emit (.readBack false) s else s)
    else if endedAt s b then meetEnd s
    else if failedAt s b then mediaError s
    else beginWait s

/-- R76: the record in hand ends before an entry that begins an object. -/
def endsBefore (e : IndexEntry) (s : State) : State :=
  if beginsObject e && s.dcp.record.isSome then finishRecord s else s

/-- What DCP does at the entry at its cursor: a release point, or its stored bytes are fetched. -/
def atEntry (i : Nat) (e : IndexEntry) (s : State) : State :=
  if readingBack s then fetchEntry i e s
  else
    let s := endsBefore e s
    if extentsFilled s then completeRead .ok .none s else fetchEntry i e s

/-- R78: the next object to be delivered is the EOD object. -/
def nothingLeft (s : State) : Bool := s.dcp.record.isNone && s.ord.position = eodObject s && !readingBack s

/-- DCP goes on when it has nothing in hand and work to do. -/
def dcpCheck (s : State) : State :=
  if s.dcp.phase ≠ .idle || !(delivering s || readingBack s) then s
  else if nothingLeft s then completeRead .doneShort .endOfData s
  else
    match s.dcp.frame, s.dcp.next with
    | some i, _ =>
      match (dcpIndex s)[s.dcp.entry]? with
      | some e => atEntry i e s
      | none => if readingBack s then emit (.readBack true) { s with dcp.frame := none } else finishFrame s
    | none, some b => needBundle b s
    | none, none => s

/-- R74: the header and index have been read: the checks of the bundle. -/
def headerRead (s : State) : State :=
  match dcpFrame s with
  | some f =>
    match f.header with
    | some h => if consistent h f.index s.dcp.lastObject then { s with dcp.phase := .idle } else corruptBundle s
    | none => corruptBundle s
  | none => { s with dcp.phase := .idle }

/-- The raw bytes of an entry taken into the history (R75). -/
def takeRaw (raw : List Byte) (s : State) : State :=
  { s with dcp.history := recentBytes (s.dcp.history ++ raw), dcp.produced := s.dcp.produced + raw.length }

/-- R77: the bytes of the record in hand that the extent still has room for. -/
def roomFor (s : State) (r : RecordInHand) (raw : List Byte) : List Byte := raw.take ((readExtent s).length - r.written)

/-- R76: the entry's bytes are in the extent, or passed over: the record goes on or ends. -/
def entryDelivered (s : State) : State :=
  match (dcpIndex s)[s.dcp.entry]? with
  | some e =>
    let s := passEntry s
    if e.last then
      let s := finishRecord s
      if extentsFilled s then completeRead .ok .none s else s
    else s
  | none => { s with dcp.phase := .idle }

/-- R76, R77: raw bytes of an object being delivered: the part the extent takes goes through DCP_OUT. -/
def deliverRaw (object : Nat) (raw : List Byte) (s : State) : State :=
  let r := s.dcp.record.getD ⟨object, 0, 0⟩
  let part := roomFor s r raw
  let at' := (readExtent s).start + r.written
  let s := { s with dcp.record := some ⟨r.object, r.length + raw.length, r.written + part.length⟩ }
  if part.isEmpty then entryDelivered s else raiseWrite .dcpOut .deliver at' part { s with dcp.phase := .delivering }

/-- R76, R78: a MARK entry decoded. -/
def decodeMark (e : IndexEntry) (s : State) : State :=
  if readingBack s || e.object < s.ord.position then passEntry s
  else if s.ord.position < e.object then corruptBundle s
  else completeRead .doneShort .markMet { passEntry s with ord.position := e.object + 1 }

/-- R75, R76: a DATA entry decoded: passed over, delivered, or the bundle found CORRUPT. -/
def decodeData (e : IndexEntry) (s : State) : State :=
  match decodeStored e s.dcp.history s.dcp.produced s.dcp.stored with
  | none => corruptBundle s
  | some raw =>
    if readingBack s || e.object < s.ord.position then passEntry (takeRaw raw s)
    else if s.ord.position < e.object then corruptBundle s
    else deliverRaw e.object raw (takeRaw raw s)

/-- R75: the entry whose stored bytes have been read is decoded. -/
def decodeEntryNow (s : State) : State :=
  if s.dcp.phase = .ready && (delivering s || readingBack s) then
    match (dcpIndex s)[s.dcp.entry]? with
    | some e => if e.kind = .mark then decodeMark e s else decodeData e s
    | none => s
  else s

/-! ### Abort, continuation, read-back (R62, R80, R81) -/

/-- R80: the entry to which the cursor returns: the first of the first object not delivered, or past the last. -/
def abortCursor (s : State) : Nat × Bool :=
  match (dcpIndex s).findIdx? (fun e => beginsObject e && e.object = s.ord.position) with
  | some k => (k, true)
  | none => if s.dcp.record.isSome then ((dcpIndex s).length, false) else (s.dcp.entry, s.dcp.replay)

/-- R80: DCP stops; bytes already written stay. -/
def dcpStop (s : State) : State :=
  let back := if s.dcp.frame.isSome then abortCursor s else (0, false)
  let s := dropTransfers (fun p => p = .headerIn || p = .entryIn || p = .deliver) (endWait s)
  { s with dcp.phase := if s.dcp.phase = .header then .header else .idle, dcp.stored := [], dcp.record := none,
           dcp.entry := back.1, dcp.replay := back.2 }

/-- R80: where reading resumes: the lowest earliest arrival of the assemblies dropped, or the frontier. -/
def resumePlace (s : State) : Nat := s.rdc.assemblies.foldl (fun p a => min p a.earliest) (s.rdc.frontier.getD 0)

/-- R80: RDC stops taking rows, its incomplete frames go to FREE, and MOT is asked for an abort stop. The session phase
stands at NONE until a READ continues it (log 65). -/
def rdcStop (s : State) : State :=
  if s.rdc.phase.active then
    let place := resumePlace s
    let s := dropTransfers (fun p => p = .rowStore) (freeFilling (fun _ => true) s)
    stopReading { s with rdc.phase := .none, rdc.resumeAt := some place, rdc.recovery := none, rdc.inBuffer := [] }
  else freeFilling (fun _ => true) s

/-- The first index entry of a frame is the first chunk or the mark of an object. -/
def frameBeginsWith (f : Frame) (object : Nat) : Bool :=
  match f.index with
  | e :: _ => beginsObject e && e.object = object
  | [] => false

/-- The frame of a bundle is DECODED or FILLING, and begins with the object of the logical position (R62). -/
def firstInLine (s : State) (b : Nat) : Bool :=
  s.bsm.frames.any (fun f => f.bundle = some b && (f.state = .decoded || f.state = .filling)
    && frameBeginsWith f s.ord.position)

/-- R71: in a FAILED session the DECODED frames serve the next READ, and one that needs the bundle that failed goes on to
meet it. -/
def failedServes (b : Nat) (s : State) : Bool :=
  match s.dcp.next with
  | some n => n = b || firstInLine s n
  | none => false

/-- R62: the continuation test: the delivery cursor of the DRAINING frame names the first entry of the position's object, or,
with no frame DRAINING, bundle L + 1 is DECODED or FILLING and begins with it. A FAILED session is R71's (log 16). -/
def continues (s : State) : Bool :=
  s.bsm.mode = .read && (match s.dcp.frame with
    | some _ => match (dcpIndex s)[s.dcp.entry]? with
      | some e => beginsObject e && e.object = s.ord.position
      | none => false
    | none => match s.rdc.phase with
      | .failed b => failedServes b s
      | .none | .reading | .overrun | .rereading | .searching | .ended _ =>
        match s.rdc.next with
        | some b => firstInLine s b
        | none => false)

/-- R62, R80: a READ continues the session: reading stopped by an abort resumes, and the history is rebuilt from the
frame's first entry. -/
def continueSession (s : State) : State :=
  let s := { s with dcp.extent := 0, dcp.record := none }
  let s := match s.dcp.phase, s.dcp.frame with
    | .header, some i => raiseRead .dcpIn .headerIn (frameBase s i) headerBytes s
    | _, _ => { s with dcp.phase := .idle }
  let s := if s.dcp.replay then { s with dcp.entry := 0, dcp.history := [], dcp.produced := 0, dcp.replay := false } else s
  match s.rdc.resumeAt with
  | some p => restartAt p .read { s with rdc.resumeAt := none, rdc.phase := .reading }
  | none => s

/-- The object after the last of the bundle before one with this header and index (R72): its first entry's, or the one after
where that entry goes on with a record begun before. -/
def objectBefore (h : BundleHeader) (ix : List IndexEntry) : Nat :=
  match ix with
  | e :: _ => if beginsObject e then e.object else e.object + 1
  | [] => h.firstObject

/-- R62: a read session begun at bundle `b`, found with this header and index, whose first copy begins at a serpentine
position. -/
def beginSession (b place : Nat) (h : BundleHeader) (ix : List IndexEntry) (only : Bool) (s : State) : State :=
  let s := dcpClear (rdcClear s)
  requestStart (some place) .read
    (beginReadSession (rdcBegin b place (objectBefore h ix) only { s with dcp.next := some b }))

end Sys2Proof.Machine
end

