-- ==== Sys2Proof/Machine/Cml.lean ====
section
/-! DEFINITION. The cartridge memory link (chapter 7): accesses and their attempts, the memory read of a LOAD, and
the rebuilding of a stale directory. -/

namespace Sys2Proof.Machine

/-- The number of an access in CM_FAULT (10.9.6). -/
def AccessKind.code : AccessKind → Nat
  | .loadRead => 1 | .dirtyWrite => 2 | .cleanWrite => 3 | .unloadWrite => 4

/-- The number of a stale reason in DIRECTORY_STALE (10.9.6). -/
def StaleReason.code : StaleReason → Nat
  | .dirty => 1 | .inconsistent => 2 | .unreadable => 3

/-! ### The memory read of a LOAD (R128 to R130) -/

/-- The copy as contents read give it, the load count raised by one (R129). -/
def copyOf (c : CmContents) : CartCopy where
  identity := some c.identity
  type := c.type
  geometry := c.geometry
  loadCount := bump c.loadCount
  dirty := c.dirty
  eod := c.eod
  directory := c.directory
  passesUsed := c.passesUsed
  passLimit := c.passLimit
  cleaningLength := c.cleaningLength

/-- R129: the stale mark of contents read. -/
def staleOf (c : CmContents) : Option StaleReason :=
  if c.dirty then some .dirty
  else if c.type ≠ some .cleaning && !secondClass c then some .inconsistent
  else none

/-- R129: contents that pass the first class taken as the copy. -/
def takeContents (c : CmContents) (s : State) : State :=
  { s with cml.state := .held, cml.copy := some (copyOf c), cml.readable := true, cml.stale := staleOf c,
           cml.rebuilt := false, cml.dirtyWritten := c.dirty, cml.map := none }

/-- A copy of which only the geometry is known (R130). -/
def geometryCopy (g : Geometry) : CartCopy where
  identity := none
  type := none
  geometry := g
  loadCount := 0
  dirty := false
  eod := ⟨0, 0, 0, 0⟩
  directory := []
  passesUsed := 0
  passLimit := 0
  cleaningLength := 0

/-- R130: a geometry word clamped to the ranges of section 7.4. -/
def clampGeometry (g : Geometry) : Geometry :=
  ⟨clamp 8 64 g.wraps, clamp 1000 100000 g.length, clamp 0 100000 g.margin⟩

/-- R130: the geometry of a tape already threaded whose memory turns out unreadable: that of the word read when it was brought to
tension, which MOT keeps as long as it is threaded (log 26). -/
def threadedGeometry (s : State) : Option Geometry :=
  if s.mot.state.threaded then (s.mot.word.map clampGeometry).or (s.cml.copy.map (fun c => c.geometry)) else none

/-- R129, R130: the memory is unreadable. -/
def takeUnreadable (s : State) : State :=
  let copy := (threadedGeometry s).map geometryCopy
  { s with cml.state := .held, cml.copy := copy, cml.readable := false, cml.stale := some .unreadable,
           cml.rebuilt := false, cml.dirtyWritten := false, cml.map := none }

/-- R130: the geometry word taken while the memory of the cartridge is unreadable. -/
def takeGeometry (g : Geometry) (s : State) : State :=
  if s.cml.state = .held && !s.cml.readable then { s with cml.copy := some (geometryCopy (clampGeometry g)) } else s

/-! ### Attempts and answers (R127) -/

/-- CM_FAULT raised for an access. -/
def cmFault (k : AccessKind) (s : State) : State := raise .cmFault 0 k.code s.cml.state.code s

/-- What an access that has ended brings in CML, well or not: R137, R142; the cleaning is reported to HCM whether the
write succeeded or failed (R132). -/
def accessEffect (k : AccessKind) (ok : Bool) (s : State) : State :=
  match k with
  | .loadRead => s
  | .dirtyWrite => { s with cml.dirtyWritten := true }
  | .cleanWrite => applyCleaning s
  | .unloadWrite => if ok then updateCopy (fun c => { c with dirty := false }) s else s

/-- An access ended: its effect, and ORD told unless its order has gone (R127). -/
def endAccess (a : CmAccess) (ok : Bool) (s : State) : State :=
  let s := accessEffect a.kind ok { s with cml.access := none }
  if a.orphan then s else emit (.accessEnded a.kind ok) s

/-- R126: the end of a LOAD's read reaches a cartridge: one gone meanwhile takes its read with it (log 32). -/
def readTaken (a : CmAccess) (s : State) : Bool := a.kind = .loadRead && (!a.orphan || s.mot.state ≠ .empty)

/-- R127: an access failed, counted; its condition is raised unless its order has gone, with the cartridge state as it stood
before a failed read enters HELD (log 86). -/
def failAccess (a : CmAccess) (s : State) : State :=
  let s := { s with cml.failed := bump s.cml.failed }
  let s := if a.orphan then s else cmFault a.kind s
  endAccess a false (if readTaken a s then takeUnreadable s else s)

/-- R127: an attempt failed: the next is made at once, or the access has failed. -/
def failAttempt (a : CmAccess) (s : State) : State :=
  if a.attempt < 3 && !a.orphan then
    { s with cml.access := some { a with attempt := a.attempt + 1 }, cml.retried := bump s.cml.retried }
  else failAccess a s

/-- R127, R128: a read answered with contents whose check word agrees. -/
def readAnswered (a : CmAccess) (c : CmContents) (s : State) : State :=
  if firstClass c then endAccess a true (if readTaken a s then takeContents c s else s)
  else failAccess a s

/-- R127: an answer within 50 ms. -/
def answerAccess (r : CmReply) (s : State) : State :=
  match s.cml.access with
  | some a =>
    match r with
    | .contents c agrees => if a.kind = .loadRead && agrees then readAnswered a c s else failAttempt a s
    | .stored => if a.kind = .loadRead then failAttempt a s else endAccess a true s
  | none => s

/-- The fields of the unload write (R142). -/
def unloadFields (s : State) : CmWrite :=
  { loadCount := loadCountOf s, dirty := some false, passesUsed := none,
    eod := s.cml.map.map (fun m => ⟨m.eodBundle, m.eodObject, m.endWrap, m.endIndex⟩),
    directory := some (directory s) }

/-- R132: a cleaning pass counted in the copy, and its write begun. -/
def countPass (s : State) : State :=
  let s := updateCopy (fun c => { c with passesUsed := min (c.passesUsed + 1) 65535 }) s
  let used := match s.cml.copy with | some c => c.passesUsed | none => 0
  beginAccess .cleanWrite (some ⟨loadCountOf s, none, some used, none, none⟩) s

/-- R126, R143: CML enters NONE: the copy, the map, the stale mark and the flags go. -/
def cmlDrop (s : State) : State :=
  { s with cml.state := .none, cml.copy := none, cml.readable := false, cml.stale := none, cml.rebuilt := false,
           cml.dirtyWritten := false, cml.map := none, cml.rebuild := none }

/-- R141: a rebuild ended before its time. -/
def dropRebuild (s : State) : State :=
  if s.cml.state = .rebuilding then { s with cml.state := .held, cml.rebuild := none, cml.map := none } else s

/-! ### The end of a LOAD (R131) -/

/-- R131, R34, R192: a load done: the counters at the EOD bundle, the position 0, the LOAD complete. -/
def loadDone (rebuilt : Bool) (s : State) : State :=
  let b := eodBundle s
  completeFull .ok .none 0 rebuilt
    { s with bsm.sealedThrough := b, bsm.writtenThrough := b, bsm.verifiedThrough := b, ord.position := 0 }

/-- R131: the tape map set from the copy's EOD record. -/
def mapFromCopy (s : State) : State :=
  { s with cml.state := .loaded, cml.rebuilt := false,
           cml.map := s.cml.copy.map (fun c => ⟨c.eod.eodObject, c.eod.eodBundle, c.eod.endWrap, c.eod.endIndex⟩) }

/-! ### Rebuilding (R138 to R141) -/

/-- The directory with no optional part. -/
def blankDirectory (w : Nat) : List DirEntry := (List.range w).map (fun i => ⟨i, none⟩)

/-- R139: the header scan of a wrap begun at its index 0. -/
def scanWrap (w : Nat) (s : State) : State :=
  restartAt (serpentine s w 0) .read
    { s with cml.rebuild := s.cml.rebuild.map (fun r => { r with wrap := w, passed := 0 }),
             rdc.blankRun := 0, rdc.blankStart := none }

/-- R139: the rebuild begun. -/
def beginRebuild (s : State) : State :=
  let s := updateCopy (fun c => { c with directory := blankDirectory c.geometry.wraps }) s
  scanWrap 0 { s with cml.state := .rebuilding, cml.rebuild := some ⟨0, [], false, 0, 0, []⟩ }

/-- The EOD values a rebuild found: EOD bundle, EOD object, end position. -/
structure EodFound where
  bundle : Nat
  object : Nat
  place  : Nat
  deriving DecidableEq, Repr

/-- R140: a tally is complete. -/
def tallyComplete (t : Tally) : Bool :=
  decide (66 ≤ t.rows.length) && t.rows.contains 0 && t.rows.contains 1

/-- R140: the highest complete bundle. -/
def highestComplete : List Tally → Option Tally
  | [] => none
  | t :: ts =>
    match highestComplete ts with
    | some u => if tallyComplete t && decide (u.bundle < t.bundle) then some t else some u
    | none => if tallyComplete t then some t else none

/-- R140: the latest row time holding a good row of a bundle up to `h`. -/
def latestUpTo (h : Nat) (ts : List Tally) : Nat := ts.foldl (fun m t => if t.bundle ≤ h then max m t.latest else m) 0

/-- R140: the optional part of the last wrap found, whose index is `w`. -/
def lastPart (s : State) (w firstBundle firstObject : Nat) (e : EodFound) : DirPart :=
  let at' := placeOf s e.place
  ⟨firstBundle, e.bundle - firstBundle, firstObject, e.object - firstObject, none,
    if at'.1 = w then at'.2 else wrapLength s⟩

/-- R139: the optional parts of the wraps found but the last. -/
def foundParts (len : Nat) : List (Nat × Nat) → List DirPart
  | a :: b :: rest => ⟨a.1, b.1 - a.1, a.2, b.2 - a.2, none, len⟩ :: foundParts len (b :: rest)
  | _ => []

/-- The directory of W wraps whose first entries have these optional parts. -/
def directoryOf (w : Nat) (ps : List DirPart) : List DirEntry := (List.range w).map (fun i => ⟨i, ps[i]?⟩)

/-- R140: the end of data the end scan decides, and the optional part of the last wrap, which a wrap left without a
bundle does not have (log 52). -/
def endFound (s : State) (r : Rebuild) : EodFound × Option DirPart :=
  let last := r.found.getLast?.getD (0, 0)
  let w := r.found.length - 1
  match highestComplete r.tallies with
  | some h =>
    let e : EodFound := ⟨h.bundle + 1, h.lastObject.getD 0 + 1, latestUpTo h.bundle r.tallies + 1⟩
    (e, if last.1 ≤ h.bundle then some (lastPart s w last.1 last.2 e) else none)
  | none => (⟨last.1, last.2, serpentine s w 0⟩, none)

/-- R141: the rebuilt values taken, and the load done; the tape stops where the heads stand (log 67). -/
def finishRebuild (e : EodFound) (parts : List DirPart) (s : State) : State :=
  let s := updateCopy (fun c => { c with directory := directoryOf c.geometry.wraps parts }) s
  let s := { s with cml.map := some ⟨e.object, e.bundle, 0, 0⟩, cml.rebuilt := true, cml.state := .loaded,
                    cml.rebuild := none }
  let s := setEndPosition e.place s
  let reason := match s.cml.stale with | some r => r.code | none => 0
  loadDone true (raise .directoryStale e.bundle reason 0 (stopHere s))

/-- R139, R140: the header scan ended: the cartridge is blank, or the end scan begins at the last header found. -/
def endHeaderScan (s : State) : State :=
  match s.cml.rebuild with
  | some r =>
    if r.found.isEmpty then finishRebuild ⟨0, 0, 0⟩ [] s
    else
      restartAt r.place .read
        { s with cml.rebuild := some { r with endScan := true }, rdc.blankRun := 0, rdc.blankStart := none }
  | none => s

/-- R140, R141: the end scan ended. -/
def endEndScan (s : State) : State :=
  match s.cml.rebuild with
  | some r => finishRebuild (endFound s r).1 (foundParts (wrapLength s) r.found ++ (endFound s r).2.toList) s
  | none => s

/-- A scan of the rebuild ends with nothing further found (R138). -/
def endScanNow (s : State) : State :=
  match s.cml.rebuild with
  | some r => if r.endScan then endEndScan s else endHeaderScan s
  | none => s

/-- R130: the identity of the first good row adopted while none is known: that of the lowest channel of the report, whose
other good rows are kept whatever identity they carry (log 77). -/
def adoptIdentity (rows : List TapeRow) (s : State) : State :=
  match rows with
  | r :: _ => updateCopy (fun c => { c with identity := c.identity.or r.ident.identity }) s
  | [] => s

/-- R139: a good row 0 of a bundle above every bundle found for lower wraps. -/
def headerFound (r : Rebuild) (row : TapeRow) : Bool :=
  row.ident.row = 0 && row.header.isSome && r.found.all (fun f => decide (f.1 < row.ident.bundle))

/-- R139: a report of the header scan; `first` when no head reported in this row time before. -/
def headerRowTime (r : Rebuild) (rows : List TapeRow) (place : Nat) (first : Bool) (s : State) : State :=
  match rows.find? (headerFound r) with
  | some row =>
    let object := match row.header with | some h => h.firstObject | none => 0
    let s := { s with cml.rebuild := some { r with found := r.found ++ [(row.ident.bundle, object)], place := place } }
    if r.wrap + 1 < (geometry s).wraps then scanWrap (r.wrap + 1) s else endHeaderScan s
  | none => if first then { s with cml.rebuild := some { r with passed := r.passed + 1 } } else s

/-- R140: one good row tallied. -/
def tallyInto (place : Nat) (row : TapeRow) : List Tally → List Tally
  | [] => [⟨row.ident.bundle, [row.ident.row], row.index.bind lastObject, place⟩]
  | t :: ts =>
    if t.bundle = row.ident.bundle then
      { t with rows := if t.rows.contains row.ident.row then t.rows else t.rows ++ [row.ident.row],
               lastObject := t.lastObject.or (row.index.bind lastObject), latest := max t.latest place } :: ts
    else t :: tallyInto place row ts

/-- R140: a row time of the end scan: every bundle met is tallied. -/
def endRowTime (r : Rebuild) (rows : List TapeRow) (place : Nat) (s : State) : State :=
  { s with cml.rebuild := some { r with tallies := rows.foldl (fun ts x => tallyInto place x ts) r.tallies } }

/-- R138: a report of the rebuild at SETTLED or above. -/
def rebuildRowTime (rows : List TapeRow) (place : Nat) (first : Bool) (s : State) : State :=
  match s.cml.rebuild with
  | some r =>
    let s := adoptIdentity rows s
    if r.endScan then endRowTime r rows place s else headerRowTime r rows place first s
  | none => s

/-- R139: the blank limit of the header scan, or of the end scan, is reached. -/
def rebuildLimit (s : State) : Bool :=
  match s.cml.rebuild with
  | some r => if r.endScan then s.rdc.blankRun = 2000 else decide (2000 ≤ r.passed)
  | none => false

/-- R139: the wrap's end ends the header scan. -/
def headerScanOn (s : State) : Bool :=
  match s.cml.rebuild with
  | some r => !r.endScan
  | none => false

/-- R139: 2,000 row times have passed on the wrap of the header scan without its header. -/
def headerScanOver (s : State) : Bool :=
  match s.cml.rebuild with
  | some r => !r.endScan && decide (2000 ≤ r.passed)
  | none => false

end Sys2Proof.Machine
end

