-- ==== Sys2Proof/Machine/Find.lean ====
section
/-! DEFINITION. The search for the bundle holding an object (R189), and what each order does with the bundle found:
a session (R62), an append (R19 to R21), a LOCATE, a SPACE (R190). -/

namespace Sys2Proof.Machine

/-! ### Intake begun (R184) -/

/-- R152, R184: the append point is settled: intake begins, unless the head was fenced meanwhile. -/
def startIntake (s : State) : State :=
  if s.ord.fenceSeen then complete .headFenced .none s
  else
    let s := { s with ord.stage := .intake, ord.append := none, ord.find := none }
    match s.ord.record with
    | some r => if kindOfCode r.kind = some .mark then beginMarks r.count s else beginIntake s
    | none => s

/-- R20, R21, R135: where the first copy of bundle `b` met in the locate began: the least of the place at which it was found, of
the places of its row 0 met in the scan, and of the located start where it is the bundle estimated. The read-back of an append
inside `b` begins there too, so that the first copy met in the read is the one met in the locate (log 95). -/
def firstMet (f : Find) (b place : Nat) : Nat :=
  let met := (f.partials.filter (fun p => p.bundle = b)).filterMap (fun p => p.place)
  let located := if f.estimate = b then f.start.toList else []
  (met ++ located).foldl min place

/-- R19, R20: an append at the start of bundle `b`. -/
def appendAtStart (b place : Nat) (h : BundleHeader) (s : State) : State :=
  startIntake (truncateAt s.ord.position b h.firstObject place s)

/-- R19, R21: an append inside bundle `b`: it is read back first, from the place where its first copy met began (R81). That place
is kept: the truncation cuts there (R135), and FMT begins there (R21). -/
def appendInside (b place : Nat) (h : BundleHeader) (ix : List IndexEntry) (s : State) : State :=
  beginSession b place h ix true { s with ord.append := some (b, h, place), ord.find := none }

/-- The first index entry is the one sought. -/
def startsWithObject (ix : List IndexEntry) (object : Nat) : Bool :=
  match ix with
  | e :: _ => beginsObject e && e.object = object
  | [] => false

/-- R32, R33: the frame of the bundle read back becomes OPEN and the other read-mode frames go to FREE: the store goes from
READ to WRITE directly. -/
def openReadBack (i b : Nat) (s : State) : State :=
  updateFrame i (fun _ => ⟨.opened, some b, some 0, none, []⟩)
    { s with bsm.frames := readDiscarded s.bsm.frames, bsm.mode := .write }

/-- R21: the bundle is decoded: its frame becomes OPEN, the truncation is applied, its index is cut. -/
def openAppend (i b place : Nat) (h : BundleHeader) (ix : List IndexEntry) (s : State) : State :=
  let p := s.ord.position
  let s := endReadSession (openReadBack i b s)
  let s := truncateAt p b h.firstObject place s
  let s := beginWriteSession (beginFmtSession place s)
  startIntake (keepEntries i (ix.filter (fun e => decide (e.object < p))) s)

/-- R21, R81: the read-back of an append has ended. -/
def appendReadBack (ok : Bool) (s : State) : State :=
  match s.ord.append with
  | some (b, h, place) =>
    match ok, findFrame s (fun f => f.state.readMode && f.bundle = some b) with
    | true, some i => openAppend i b place h (match frameAt s i with | some f => f.index | none => []) s
    | _, _ => complete .mediaError .none (discardReadAhead s)
  | none => s

/-! ### SPACE over an index (R190) -/

/-- The unit of a SPACE is MARKS. -/
def spaceMarks (r : OrderRec) : Bool := bodyField r 20 1 = 1

/-- What the examination of objects has come to: the position, the residual, and the end met, if any. -/
structure SpaceWalk where
  position : Nat
  residual : Nat
  done     : Option (Status × Reason)
  gap      : Bool
  deriving DecidableEq, Repr

/-- R190: the effect of one object examined, by unit and direction; `there` is the position it leaves. -/
def spaceObject (marks isMark : Bool) (there : Nat) (w : SpaceWalk) : SpaceWalk :=
  if isMark = marks then
    { w with position := there, residual := w.residual - 1,
             done := if w.residual ≤ 1 then some (.ok, .none) else none }
  else if marks then { w with position := there }
  else { w with position := there, done := some (.doneShort, .markMet) }

/-- R190: the objects begun in an index examined forward from the position, up to the EOD object `eod`; a gap in the
numbers stops the walk (log 18). -/
def spaceForward (marks : Bool) (eod : Nat) : List IndexEntry → SpaceWalk → SpaceWalk
  | [], w => w
  | e :: es, w =>
    if w.done.isSome || w.gap then w
    else if eod ≤ w.position then { w with done := some (.doneShort, .endOfData) }
    else if !beginsObject e || e.object < w.position then spaceForward marks eod es w
    else if w.position < e.object then { w with gap := true }
    else spaceForward marks eod es (spaceObject marks (e.kind = .mark) (e.object + 1) w)

/-- R190: the objects begun in an index, last first, examined backward from the position. -/
def spaceBackward (marks : Bool) : List IndexEntry → SpaceWalk → SpaceWalk
  | [], w => w
  | e :: es, w =>
    if w.done.isSome || w.gap then w
    else if !beginsObject e || w.position ≤ e.object then spaceBackward marks es w
    else if e.object + 1 < w.position then { w with gap := true }
    else spaceBackward marks es (spaceObject marks (e.kind = .mark) e.object w)

/-! ### The search (R189) -/

/-- R189: a search for an object begun, or begun again from an estimate: the estimated bundle is located. -/
def findFrom (target estimate tries : Nat) (s : State) : State :=
  requestLocate estimate { s with ord.find := some ⟨target, estimate, tries, .locating, none, [], none, none⟩ }

/-- R189: a search for the bundle holding the first entry of an object. -/
def startFind (target : Nat) (s : State) : State := findFrom target (estimateBundle s target) 0 s

/-- R190: where MOT stops when the examining scan of a search fails: a SPACE's at the last bundle whose header was read, any
other's at the heads (R105; log 93). -/
def stopFailedScan (s : State) : State :=
  match (if takenKind s = some .space then s.ord.lastPlace else none) with
  | some p => requestStop p (dropWaiting { s with mot.locate := none })
  | none => stopHere s

/-- R189, R190: the examining scan fails: MOT stops, and the order completes NOT_FOUND. -/
def failFind (s : State) : State := complete .notFound .none (stopFailedScan { s with ord.find := none })

/-- The locate of the estimate is done: reading begins at the located start (R189). -/
def findLocated (place : Nat) (s : State) : State :=
  match s.ord.find with
  | some f =>
    if f.phase = .locating then
      requestStart (some place) .read
        { s with ord.find := some { f with phase := .examining, partials := [], start := some place },
                 rdc.blankRun := 0, rdc.blankStart := none }
    else s
  | none => s

/-- A header row of a copy noted among those met. -/
def notePartial (place : Nat) (row : TapeRow) : List HeaderRow → List HeaderRow
  | [] =>
    [⟨row.ident.bundle, row.ident.copy, if row.ident.row = 0 then some place else none, row.header, row.index⟩]
  | p :: ps =>
    if p.bundle = row.ident.bundle && p.copy = row.ident.copy then
      { p with place := if row.ident.row = 0 then p.place.or (some place) else p.place,
               header := p.header.or row.header, index := p.index.or row.index } :: ps
    else p :: notePartial place row ps

/-- Rows 0 and 1 of one copy have been met. -/
def headerComplete (p : HeaderRow) : Option (BundleHeader × List IndexEntry × Nat) :=
  match p.header, p.index, p.place with
  | some h, some ix, some place => some (h, ix, place)
  | _, _, _ => none

/-- An index holds the first-chunk or MARK entry of an object. -/
def holdsObject (ix : List IndexEntry) (object : Nat) : Bool := ix.any (fun e => beginsObject e && e.object = object)

/-- R189: MOT is asked to stop before the bundle found. -/
def stopAtFound (f : Find) (b : Nat) (h : BundleHeader) (ix : List IndexEntry) (place : Nat) (s : State) : State :=
  requestStop place { s with ord.find := some { f with phase := .stopping, examined := some b, found := some (b, h, ix, place) } }

/-- R189: a new estimate, e less one less (f − p), after a first bundle that lies too high. -/
def newEstimate (f : Find) (firstObject : Nat) (s : State) : State :=
  if f.tries < 3 then findFrom f.target (f.estimate - 1 - (firstObject - f.target)) (f.tries + 1) s else failFind s

/-- R190: a walk's outcome after a bundle forward: the order's end, or the next bundle on the scan. -/
def walkedForward (f : Find) (b : Nat) (h : BundleHeader) (ix : List IndexEntry) (place : Nat) (w : SpaceWalk) (s : State) :
    State :=
  let s := { s with ord.position := w.position, ord.residual := w.residual }
  if w.gap then failFind s
  else
    match w.done with
    | some o => stopAtFound f b h ix place { s with ord.outcome := some o }
    | none =>
      if eodObject s ≤ w.position then
        stopAtFound f b h ix place { s with ord.outcome := some (.doneShort, .endOfData) }
      else { s with ord.find := some { f with examined := some b } }

/-- R190: a walk's outcome after a bundle backward: the order's end, or the bundle before, located afresh. Its first object is not
known before it is read: it is located as for a LOCATE of the object before the position, the next to be examined (log 102). -/
def walkedBackward (f : Find) (b : Nat) (h : BundleHeader) (ix : List IndexEntry) (place : Nat) (w : SpaceWalk) (s : State) :
    State :=
  let s := { s with ord.position := w.position, ord.residual := w.residual }
  if w.gap then failFind s
  else
    match w.done with
    | some o => stopAtFound f b h ix place { s with ord.outcome := some o }
    | none =>
      if w.position = 0 then stopAtFound f b h ix place { s with ord.outcome := some (.doneShort, .botMet) }
      else startFind (w.position - 1) s

/-- R190: a bundle of a SPACE's examination. -/
def spaceBundle (r : OrderRec) (f : Find) (b : Nat) (h : BundleHeader) (ix : List IndexEntry) (place : Nat) (s : State) :
    State :=
  let w : SpaceWalk := ⟨s.ord.position, s.ord.residual, none, false⟩
  if spaceCount r < 0 then walkedBackward f b h ix place (spaceBackward (spaceMarks r) ix.reverse w) s
  else walkedForward f b h ix place (spaceForward (spaceMarks r) (eodObject s) ix w) s

/-- The bundle holding the object is found: a SPACE examines it, any other order stops before it. -/
def bundleFound (f : Find) (b : Nat) (h : BundleHeader) (ix : List IndexEntry) (place : Nat) (s : State) : State :=
  match s.ord.record with
  | some r => if kindOfCode r.kind = some .space then spaceBundle r f b h ix place s else stopAtFound f b h ix place s
  | none => s

/-- R190: a SPACE going forward past its first bundle: each bundle follows the last on the scan. -/
def spaceGoesOn (f : Find) (s : State) : Bool :=
  takenKind s = some .space && s.ord.record.any (fun r => decide (0 < spaceCount r)) && f.examined.isSome
    && decide (f.target < s.ord.position)

/-- R189: a bundle whose rows 0 and 1 of one copy have been met is examined. One that holds the entry sought is found, whatever
its number (log 92). -/
def examineBundle (f : Find) (b : Nat) (h : BundleHeader) (ix : List IndexEntry) (place : Nat) (s : State) : State :=
  let s := { s with ord.lastHeader := some h.firstObject, ord.lastPlace := some place }
  if spaceGoesOn f s then
    (if eodBundle s ≤ b then failFind s else bundleFound f b h ix place s)
  else if holdsObject ix f.target then bundleFound f b h ix place s
  else if f.examined.isNone && f.target ≤ h.firstObject then newEstimate f h.firstObject s
  else if f.target < h.firstObject || eodBundle s ≤ b then failFind s
  else { s with ord.find := some { f with examined := some b } }

/-- The bundle lies at or below one already examined. -/
def examinedAlready (f : Find) (b : Nat) : Bool := match f.examined with | some e => decide (b ≤ e) | none => false

/-- R189: one good header row met by the examining scan. -/
def findRow (place : Nat) (row : TapeRow) (s : State) : State :=
  match s.ord.find with
  | some f =>
    if f.phase = .examining && headerRow row && !examinedAlready f row.ident.bundle then
      let ps := notePartial place row f.partials
      let f := { f with partials := ps }
      let s := { s with ord.find := some f }
      match (ps.find? (fun p => p.bundle = row.ident.bundle && p.copy = row.ident.copy)).bind headerComplete with
      | some (h, ix, at') => examineBundle f row.ident.bundle h ix at' s
      | none => s
    else s
  | none => s

/-- R189: the good rows of a row time of the examining scan. -/
def findRows (place : Nat) : List TapeRow → State → State
  | [], s => s
  | r :: rs, s => findRows place rs (findRow place r s)

/-- R189: the order's work once MOT is POSITIONED before the bundle found. -/
def findDone (s : State) : State :=
  match s.ord.find with
  | some f =>
    match f.phase, f.found, takenKind s with
    | .stopping, some (b, h, ix, place), some k =>
      match k with
      | .write | .mark =>
        if startsWithObject ix s.ord.position then appendAtStart b (firstMet f b place) h s
        else appendInside b (firstMet f b place) h ix s
      | .read => beginSession b place h ix false { s with ord.find := none }
      | .locate =>
        complete .ok .none { s with ord.find := none, ord.position := f.target, ord.located := some b }
      | .space =>
        match s.ord.outcome with
        | some o => complete o.1 o.2 { s with ord.find := none }
        | none => s
      | .flush | .rewind | .load | .unload | .tune | .report | .check => s
    | _, _, _ => s
  | none => s

/-! ### The locate scan (R105) -/

/-- The first good row of a bundle numbered `b` or above, in channel order. -/
def firstAtOrAbove (b : Nat) (rows : List TapeRow) : Option TapeRow := rows.find? (fun r => decide (b ≤ r.ident.bundle))

/-- R105: an overshoot: the scan start moves 1,000 row times back, or the locate fails. -/
def overshootLocate (l : Locate) (s : State) : State :=
  if l.overshoot < 3 then
    restartAt (l.scanStart - 1000) .read
      { s with mot.locate := some { l with overshoot := l.overshoot + 1, scanStart := l.scanStart - 1000, phase := .scanning },
               rdc.blankRun := 0, rdc.blankStart := none }
  else failLocate s

/-- R105: a row time of a locate scan. -/
def locateRowTime (l : Locate) (rows : List TapeRow) (place : Nat) (s : State) : State :=
  match l.phase with
  | .found _ => s
  | .approaching | .scanning =>
    match firstAtOrAbove l.bundle rows with
    | some r =>
      if r.ident.bundle = l.bundle && r.ident.row = 0 then
        requestStop place { s with mot.locate := some { l with phase := .found place } }
      else overshootLocate l s
    | none => s

end Sys2Proof.Machine
end

