-- ==== Sys2Proof/Machine/Orders.lean ====
section
/-! DEFINITION. The order engine (chapter 10): take-time checks, the stages of each order, aborts, faults. -/

namespace Sys2Proof.Machine

/-! ### Take-time checks (R179, R180, R18) -/

/-- The first number of a range for which a test holds. -/
def firstIn (n : Nat) (p : Nat → Bool) : Option Nat := (List.range n).find? p

/-- An extent length of a WRITE or READ outside 1..16,777,216. -/
def badLength (n : Nat) : Bool := n = 0 || decide (16777216 < n)

/-- R179 step 3 for a WRITE or READ: the count, then the lengths, each at its offset. -/
def checkExtentsBody (r : OrderRec) : Option (Status × Nat) :=
  if r.count = 0 || 16 < r.count then some (.badOrder, 6)
  else (firstIn r.count (fun i => badLength (descriptor r i).length)).map (fun i => (.badRecordLength, 20 + 8 * i))

/-- A CHECK's length outside 1..1,048,576. -/
def badCheckLength (n : Nat) : Bool := n = 0 || decide (1048576 < n)

/-- R179 step 3: the count and body fields; the status and the offset of the field at fault. -/
def checkBody (r : OrderRec) : Kind → Option (Status × Nat)
  | .write | .read => checkExtentsBody r
  | .mark => if r.count = 0 || 255 < r.count then some (.badOrder, 6) else none
  | .space =>
    if bodyField r 16 4 = 2147483648 then some (.badOrder, 16)
    else if 1 < bodyField r 20 1 then some (.badOrder, 20) else none
  | .locate => if 1 < bodyField r 20 1 then some (.badOrder, 20) else none
  | .check =>
    if badCheckLength (checkSource r).length then some (.badRecordLength, 20)
    else if badCheckLength (checkDestination r).length then some (.badRecordLength, 28) else none
  | .flush | .rewind | .load | .unload | .tune | .report => none

/-- R179 step 4: the extents an order names. -/
def namedExtents (r : OrderRec) : Kind → List Extent
  | .write | .read => descriptors r
  | .report => [reportExtent r]
  | .check => [checkSource r, checkDestination r]
  | .mark | .flush | .space | .locate | .rewind | .load | .unload | .tune => []

/-- The copy's type. -/
def cartType (s : State) : Option CartType := s.cml.copy.bind (fun c => c.type)

/-- MOT is STRANDED or FAULT_HELD. -/
def motionLost (s : State) : Bool := s.mot.state = .stranded || s.mot.state = .faultHeld

/-- R180: a loaded data tape is needed. -/
def needsTape (s : State) : Option Status :=
  if s.mot.state = .empty then some .noTape
  else if s.cml.state = .held && cartType s = some .cleaning then some .cleanerLoaded
  else if s.cml.state ≠ .loaded || motionLost s then some .notReady
  else none

/-- R180: the drive is ready for the kind. -/
def readiness (s : State) : Kind → Option Status
  | .write | .mark | .read | .space | .locate | .rewind => needsTape s
  | .flush => if holdsWriteFrames s then needsTape s else none
  | .load => if s.mot.state = .empty then some .noTape else if s.fmt.phase = .held then some .notReady else none
  | .unload => if s.mot.state = .empty then some .noTape else none
  | .tune | .report | .check => none

/-- R18: the checks of a WRITE or MARK. -/
def writeChecks (s : State) : Option Status :=
  if (cartType s).isNone then some .cmFault
  else if s.mot.tab then some .writeProtected
  else if s.hcm.fence then some .headFenced
  else if cartType s = some .appendOnly && s.ord.position ≠ eodObject s then some .appendOnlyRefused
  else none

/-- R179 step 6: the checks of the kind itself. -/
def kindChecks (s : State) : Kind → Option Status
  | .write | .mark => writeChecks s
  | .flush | .read | .space | .locate | .rewind | .load | .unload | .tune | .report | .check => none

/-- R179 steps 3 to 6: the first that fails, with the offset it names. -/
def takeFault (s : State) (r : OrderRec) (k : Kind) : Option (Status × Nat) :=
  match checkBody r k with
  | some f => some f
  | none =>
    if (namedExtents r k).all (extentPasses s) then
      match readiness s k with
      | some st => some (st, 0)
      | none => (kindChecks s k).map (fun st => (st, 0))
    else some (.memoryFault, 0)

/-- R181: the pending deferred error, when the kind meets it. -/
def meetsDeferred (s : State) (k : Kind) : Option (Nat × FaultReason) :=
  if k = .report || k = .tune then none else s.ord.deferred

/-- R181: the order completes DEFERRED_ERROR and the pending error is gone. -/
def deferredError (d : Nat × FaultReason) (s : State) : State :=
  finishActive ⟨.deferredError, .none, resultFlags s false true false, 0, s.ord.position, d.1, d.2.code, []⟩
    { s with ord.deferred := none }

/-- R179: the TAKEN order, of this kind and not yet checked, is checked and its first stage begun; with no such
order TAKEN there is nothing to begin (log 5). -/
def runOrder (k : Kind) (begin' : OrderRec → State → State) (s : State) : State :=
  match s.ord.record with
  | some r =>
    if kindOfCode r.kind = some k && s.ord.stage = .checking then
      match meetsDeferred s k with
      | some d => deferredError d s
      | none =>
        match takeFault s r k with
        | some f => refuseOrder f.1 f.2 s
        | none => begin' r s
    else s
  | none => s

/-- The stage set. -/
def setStage (st : Stage) (s : State) : State := { s with ord.stage := st }

/-! ### Requests for motion (R114) -/

/-- R114: SPM's session ends with ORD's request for a locate. -/
def searchFor (object : Nat) (s : State) : State := startFind object (endSession s)

/-- R114: SPM's session ends with ORD's request for a travel. -/
def travelTo (d : Destination) (s : State) : State := requestTravel d (endSession s)

/-! ### WRITE, MARK and FLUSH (R184, R186) -/

/-- R184: SETTLING: the append point (R19). -/
def beginWriting (_ : OrderRec) (s : State) : State :=
  let s := setStage .settling s
  let s := if s.bsm.mode = .read then discardReadAhead s else s
  if holdsWriteFrames s || eodObject s ≤ s.ord.position then startIntake s
  else searchFor s.ord.position s

/-- R184: intake is complete: the release point, or SYNC and the release mark. -/
def intakeDone (s : State) : State :=
  if takenWrites s && s.ord.stage = .intake then
    if orderSync s then
      let s := sealCause .sync (setStage .waiting s)
      let mark := s.bsm.sealedThrough + (if s.cmp.sealing.isSome then 1 else 0)
      judgeRelease { s with ord.releaseMark := some mark }
    else complete .ok .none s
  else s

/-- R186: a FLUSH. -/
def beginFlush (_ : OrderRec) (s : State) : State :=
  let s := sealCause .flush (setStage .waiting s)
  if holdsWriteFrames s then s else complete .ok .none s

/-! ### DRAINING (R187, R188) -/

/-- R187: a READ whose drain is done. -/
def readOn (s : State) : State :=
  if eodObject s ≤ s.ord.position then completeRead .doneShort .endOfData s
  else if continues s then continueSession (setStage .reading s)
  else searchFor s.ord.position (discardReadAhead (setStage .reading s))

/-- R190: a SPACE whose drain is done. -/
def spaceOn (r : OrderRec) (s : State) : State :=
  if spaceCount r < 0 then
    (if s.ord.position = 0 then complete .doneShort .botMet s else searchFor (s.ord.position - 1) s)
  else if eodObject s ≤ s.ord.position then complete .doneShort .endOfData s
  else searchFor s.ord.position s

/-- R189: a LOCATE whose drain is done. -/
def locateOn (r : OrderRec) (s : State) : State :=
  let p := bodyField r 16 4
  if bodyField r 20 1 = 1 || p = eodObject s then travelTo (.named (endPosition s)) s
  else if eodObject s < p then complete .notFound .none s
  else searchFor p s

/-- R191: a REWIND whose drain is done. -/
def rewindOn (s : State) : State :=
  if atBot s && (s.mot.state = .threadedIdle || s.mot.state = .relaxed) then complete .ok .none { s with ord.position := 0 }
  else travelTo .bot s

/-- R188: a positioning order whose drain is done. -/
def positionOn (s : State) : State :=
  let s := setStage .positioning s
  match s.ord.record with
  | some r =>
    match kindOfCode r.kind with
    | some .space => spaceOn r s
    | some .locate => locateOn r s
    | some .rewind => rewindOn s
    | _ => s
  | none => s

/-- R187: a READ. -/
def beginRead (_ : OrderRec) (s : State) : State :=
  if holdsWriteFrames s then
    let s := sealCause .drain (setStage .draining s)
    if holdsWriteFrames s then s else readOn s
  else readOn s

/-- R190: a SPACE's residual at its beginning: its whole count. -/
def noteCount (s : State) : State :=
  match s.ord.record with
  | some r => if kindOfCode r.kind = some .space then { s with ord.residual := (spaceCount r).natAbs } else s
  | none => s

/-- R188: a SPACE, LOCATE or REWIND. -/
def beginPositioning (r : OrderRec) (s : State) : State :=
  let s := noteCount (discardReadAhead s)
  if kindOfCode r.kind = some .space && spaceCount r = 0 then complete .ok .none s
  else if holdsWriteFrames s then
    let s := sealCause .drain (setStage .draining s)
    if holdsWriteFrames s then s else positionOn s
  else positionOn s

/-! ### LOAD (R192) -/

/-- A recovery asked of MOT (R108). -/
def askRecovery (s : State) : State := requestRecovery { s with ord.recovering := true }

/-- R131, R139: the tape is threaded at the MAP stage. -/
def loadMap (s : State) : State :=
  let s := setStage .loadMap s
  if s.cml.state = .loaded then loadDone false s
  else if s.cml.stale.isNone then loadDone false (mapFromCopy s)
  else beginRebuild s

/-- R84, R108: the tape brought to be threaded; `next` follows at once where it already is. -/
def bringThreaded (next : State → State) (s : State) : State :=
  if s.mot.state = .seated then requestThread s
  else if motionLost s then askRecovery s
  else if s.mot.state.threaded && !recoveryRewinds s then next s
  else s

/-- The passes used have reached the pass limit (R132). -/
def cleanerExpired (s : State) : Bool :=
  match s.cml.copy with
  | some c => decide (c.passLimit ≤ c.passesUsed)
  | none => false

/-- R132: the cleaning length of the copy. -/
def cleaningLength (s : State) : Nat := match s.cml.copy with | some c => c.cleaningLength | none => 0

/-- R106, R132: the pass begun from BOT. A tape that stands elsewhere, or RELAXED, after a soft reset, is taken there first by a
travel, which is counted (log 100). -/
def beginPass (s : State) : State :=
  if atBot s && (s.mot.state = .threadedIdle || s.mot.state = .positioned) then requestPass (cleaningLength s) s
  else requestTravel .bot s

/-- R132: the cartridge sent out: ejected from SEATED, unthreaded first otherwise. -/
def sendOut (s : State) : State := if s.mot.state = .seated then requestEject s else requestUnthread .asked s

/-- R132: a cleaning cartridge with its tape settled (recovered if need be): the expiry test, then the pass. -/
def cleaningOn (s : State) : State :=
  if s.ord.expired || s.ord.passDone then sendOut s
  else if cleanerExpired s then
    let used := match s.cml.copy with | some c => c.passesUsed | none => 0
    sendOut { raise .cleanerExpired used 0 0 s with ord.expired := true }
  else bringThreaded beginPass s

/-- R132: the CLEANING stage: the recovery first. -/
def loadCleaning (s : State) : State :=
  let s := setStage .loadCleaning s
  if motionLost s then askRecovery s else cleaningOn s

/-- R192: the MEMORY stage is over: on by type. -/
def loadByType (s : State) : State :=
  if cartType s = some .cleaning then loadCleaning s else bringThreaded loadMap (setStage .loadThreading s)

/-- R192: a LOAD. -/
def beginLoad (_ : OrderRec) (s : State) : State :=
  let s := discardReadAhead s
  if s.cml.state = .loaded && !motionLost s then complete .ok .none s
  else if s.cml.state = .loaded then bringThreaded loadMap (setStage .loadThreading s)
  else
    let s := setStage .loadMemory s
    if s.cml.access.isSome then s else beginAccess .loadRead none s

/-- R192: the memory read of a LOAD has ended; a cartridge gone meanwhile leaves nothing to load (log 32). -/
def loadReadEnded (s : State) : State :=
  if s.ord.loadAborted then complete .aborted .none s
  else if s.mot.state = .empty then complete .noTape .none (cmlDrop s)
  else loadByType s

/-! ### UNLOAD (R193) -/

/-- R36, R61: the discard at unload. -/
def discardAtUnload (s : State) : State := fmtReset (discardAll s)

/-- R193: the cartridge is out: OK, or CM_FAULT where the unload write failed. -/
def unloadDone (s : State) : State := complete (if s.ord.unloadFault then .cmFault else .ok) .none s

/-- R193 stage 4. A cartridge taken by hand from SEATED during the MEMORY stage is out already (log 90). -/
def unloadUnthread (s : State) : State :=
  let s := setStage .unloadUnthread s
  if s.mot.state = .seated then requestEject s
  else if s.mot.state = .empty then unloadDone s
  else if motionLost s then askRecovery s
  else requestUnthread .asked s

/-- R142, R193 stage 3: the unload write, where one is made. -/
def unloadMemory (s : State) : State :=
  let s := setStage .unloadMemory s
  if s.cml.state = .loaded && s.cml.readable then
    (if s.cml.access.isSome then s else beginAccess .unloadWrite (some (unloadFields s)) s)
  else unloadUnthread s

/-- R193 stage 2; the drain is over and SPM's session ends (R114). A recovery rewind that runs takes the tape to BOT (R108). Heads
already at BOT in THREADED_IDLE or RELAXED make no travel and none is counted (log 103). -/
def unloadRewind (s : State) : State :=
  let s := endSession (setStage .unloadRewind s)
  if motionLost s then askRecovery s
  else if s.mot.state = .seated then unloadMemory s
  else if recoveryRewinds s then s
  else if atBot s && (s.mot.state = .threadedIdle || s.mot.state = .relaxed) then unloadMemory s
  else requestTravel .bot s

/-- R193: an UNLOAD. With MOT STRANDED or FAULT_HELD the drain is the discard at unload, which ends FMT's HELD phase (R61). -/
def beginUnload (_ : OrderRec) (s : State) : State :=
  if s.mot.state = .seated then requestEject (setStage .unloadUnthread s)
  else
    let s := setStage .draining (discardReadAhead s)
    if motionLost s then unloadRewind (discardAtUnload s)
    else
      let s := sealCause .drain s
      if holdsWriteFrames s then s else unloadRewind s

/-! ### What the blocks report to ORD -/

/-- R33: write drained. -/
def onWriteDrained (s : State) : State :=
  match takenKind s with
  | some .flush => if s.ord.stage = .waiting then complete .ok .none s else s
  | some .read => if s.ord.stage = .draining then readOn s else s
  | some .space | some .locate | some .rewind => if s.ord.stage = .draining then positionOn s else s
  | some .unload => if s.ord.stage = .draining then unloadRewind s else s
  | some .write | some .mark | some .load | some .tune | some .report | some .check | none => s

/-- R152, R184: HCM tells ORD of a fence. -/
def onFenced (s : State) : State :=
  if takenWrites s then
    (if s.ord.stage = .intake then complete .headFenced .none (rollback s)
    else if s.ord.stage = .settling then { s with ord.fenceSeen := true }
    else s)
  else s

/-- R103: a travel to BOT or to a named place has arrived. -/
def onArrived (s : State) : State :=
  if atStage s .rewind .positioning then complete .ok .none { s with ord.position := 0 }
  else if atStage s .locate .positioning && s.ord.find.isNone then
    complete .ok .none { s with ord.position := eodObject s }
  else if atStage s .unload .unloadRewind then unloadMemory s
  else if atStage s .load .loadCleaning && !s.ord.loadAborted then cleaningOn s
  else s

/-- R85, R108: the tape is threaded at BOT. -/
def onThreaded (s : State) : State :=
  let s := { s with ord.recovering := false }
  if takenKind s = some .load then
    (if s.ord.loadAborted then requestUnthread .abandoned s
    else if s.ord.stage = .loadThreading then loadMap s
    else if s.ord.stage = .loadCleaning then cleaningOn s
    else s)
  else if atStage s .unload .unloadRewind then unloadMemory s
  else if atStage s .unload .unloadUnthread then requestUnthread .asked s
  else s

/-- R107: the leader is home and MOT SEATED. -/
def onSeated (s : State) : State :=
  let s := { s with ord.recovering := false }
  if takenKind s = some .load then
    (if s.ord.loadAborted then complete .aborted .none s
    else if s.ord.stage = .loadThreading then requestThread s
    else if s.ord.stage = .loadCleaning then cleaningOn s
    else s)
  else if atStage s .unload .unloadRewind then unloadMemory s
  else if atStage s .unload .unloadUnthread then requestEject s
  else s

/-- R132, R192, R193: the cartridge is out. A LOAD ends at it in CLEANING, and, aborted after MEMORY, where an eject in progress
ran on (log 75). -/
def onEjected (s : State) : State :=
  if takenKind s = some .load then
    (if s.ord.loadAborted && s.ord.stage ≠ .loadMemory then complete .aborted .none s
    else if s.ord.stage = .loadCleaning then complete (if s.ord.expired then .cleanerExpired else .ok) .none s
    else s)
  else if takenKind s = some .unload && s.ord.stage ≠ .checking then unloadDone s
  else s

/-- R106, R132: the cleaning pass is done. -/
def onPassDone (s : State) : State :=
  if atStage s .load .loadCleaning && !s.ord.loadAborted then countPass { s with ord.passDone := true } else s

/-- R84, R86, R107: threading or unthreading failed; R192: a LOAD aborted meanwhile completes ABORTED once MOT is SEATED. -/
def onMotionFailed (s : State) : State :=
  if takenKind s = some .load && s.ord.loadAborted && s.mot.state = .seated then complete .aborted .none s
  else if takenKind s = some .load || (takenKind s = some .unload && s.ord.stage ≠ .draining) then
    complete .motionFault .none s
  else s

/-- R127: an access has ended. -/
def onAccessEnded (k : AccessKind) (ok : Bool) (s : State) : State :=
  match k with
  | .loadRead => if atStage s .load .loadMemory then loadReadEnded s else s
  | .dirtyWrite => s
  | .cleanWrite => if atStage s .load .loadCleaning && !s.ord.loadAborted then cleaningOn s else s
  | .unloadWrite =>
    if atStage s .unload .unloadMemory then unloadUnthread { s with ord.unloadFault := !ok } else s

/-- R191: the logical position after a positioning order is ended in its work: the first object of the last bundle
whose header was read, if any. -/
def positionEnded (s : State) : State :=
  if s.ord.stage = .positioning then { s with ord.position := s.ord.lastHeader.getD s.ord.position } else s

/-- The status of a tension fault (false) or a speed fault (R183). -/
def emergencyStatus (speed : Bool) : Status := if speed then .speedFault else .motionFault

/-- R183: an UNLOAD at an emergency stop. -/
def unloadEmergency (s : State) : State :=
  match s.ord.stage with
  | .draining => unloadRewind (if holdsWriteFrames s then discardAtUnload s else s)
  | .unloadRewind => if s.ord.recovering then complete .motionFault .none s else unloadRewind s
  | .unloadMemory => s
  | _ => complete .motionFault .none s

/-- R95: a request for motion was answered as not threaded, or as busy: the TAKEN order that needs the tape to go on
completes NOT_READY; a WRITE or MARK in INTAKE is rolled back as at an emergency stop (log 56). -/
def onNotThreaded (s : State) : State :=
  match takenKind s with
  | some .write | some .mark =>
    if s.ord.stage = .checking then s
    else complete .notReady .none { (if s.ord.stage = .intake then rollback s else s) with mot.locate := none }
  | some .flush | some .space | some .locate | some .rewind =>
    if s.ord.stage = .checking then s else complete .notReady .none { s with mot.locate := none }
  | some .read => if s.ord.stage = .checking then s else completeRead .notReady .none { s with mot.locate := none }
  | some .load | some .unload | some .tune | some .report | some .check | none => s

/-- R183: MOT made an emergency stop. -/
def onEmergency (speed : Bool) (s : State) : State :=
  let st := emergencyStatus speed
  match takenKind s with
  | some .write | some .mark =>
    if s.ord.stage = .checking then s
    else complete st .none (if s.ord.stage = .intake then rollback s else s)
  | some .flush => if s.ord.stage = .checking then s else complete st .none s
  | some .read =>
    if s.ord.stage = .checking then s else completeRead st .none (if s.ord.stage = .reading then dcpStop s else s)
  | some .space | some .locate | some .rewind =>
    if s.ord.stage = .checking then s else complete st .none (positionEnded s)
  | some .load => if s.ord.stage = .checking then s else complete st .none (dropRebuild s)
  | some .unload => if s.ord.stage = .checking then s else unloadEmergency s
  | some .tune | some .report | some .check | none => s

/-- A locate failed (R105): the order that asked for it completes NOT_FOUND. -/
def onLocateFailed (s : State) : State :=
  match s.ord.find with
  | some f => if f.phase = .locating then complete .notFound .none { s with ord.find := none } else s
  | none => s

/-! ### Aborts (R80, R170, R185, R191, R192) -/

/-- R170: the kinds that are abortable. -/
def abortable : Kind → Bool
  | .write | .mark | .read | .space | .locate | .rewind | .load => true
  | .flush | .unload | .tune | .report | .check => false

/-- R185: a WRITE or MARK aborted. -/
def abortWriting (s : State) : State :=
  match s.ord.stage with
  | .settling =>
    if s.ord.append.isSome then complete .aborted .none (discardReadAhead s)
    else complete .aborted .none (stopHere s)
  | .intake => complete .aborted .none (rollback s)
  | _ => complete .aborted .none s

/-- R80, R187: a READ aborted. -/
def abortRead (s : State) : State :=
  if s.ord.stage = .reading then
    (if s.ord.find.isSome then complete .aborted .none (stopHere s)
    else completeRead .aborted .none (rdcStop (dcpStop s)))
  else completeRead .aborted .none s

/-- R191: a SPACE, LOCATE or REWIND aborted. -/
def abortPositioning (s : State) : State :=
  if s.ord.stage = .positioning then complete .aborted .none (stopHere (positionEnded s))
  else complete .aborted .none (noteCount s)

/-- R87, R106, R108: the tape of an aborted LOAD brought back to SEATED; an eject in progress runs on (log 75). -/
def abortMotion (s : State) : State :=
  match s.mot.state with
  | .threading => abandonThreading s
  | .seated => if s.mot.ejecting then s else emit .seated s
  | .travel => if recoveryRewinds s then s else requestUnthread .abandoned s
  | .empty | .unthreading | .stranded | .faultHeld => s
  | .threadedIdle | .relaxed | .starting | .streamingWrite | .streamingRead | .stopping | .repositioning | .positioned
  | .turning | .cleaning => requestUnthread .abandoned s

/-- R192: a LOAD aborted. -/
def abortLoad (s : State) : State :=
  match s.ord.stage with
  | .checking => complete .aborted .none s
  | .loadMemory => { s with ord.loadAborted := true }
  | _ =>
    if s.ord.loadAborted then s
    else abortMotion (dropRebuild { s with ord.loadAborted := true })

/-- R170: the TAKEN order aborted as its kind specifies. -/
def abortTaken (k : Kind) (s : State) : State :=
  match k with
  | .write | .mark => abortWriting s
  | .read => abortRead s
  | .space | .locate | .rewind => abortPositioning s
  | .load => abortLoad s
  | .flush | .unload | .tune | .report | .check => s

end Sys2Proof.Machine
end

