-- ==== Sys2Proof/Machine/Settings.lean ====
section
/-! DEFINITION. The 19 tunables (10.9.4): their clamps, their owners, TUNE (R194). -/

namespace Sys2Proof.Machine

/-- R90: the dwell time clamped: 0 stands. -/
def clampDwell (v : Nat) : Nat := if v = 0 then 0 else clamp 10 600 v

/-- R58: the restart threshold clamped to 1..32 and to half the frame count. -/
def clampRestart (frames v : Nat) : Nat := min (clamp 1 32 v) (frames / 2)

/-- R163: the alert set as a value gives it: conditions of COND bits 1 to 14. Bits 15 and above of the value name no condition and
are dropped, which counts as no clamp (log 88). -/
def alertSetOf (v : Nat) : BitVec 15 := BitVec.ofNat 15 (v / 2 * 2)

/-- Tunables given: absent where not named. -/
abbrev Named := List (Option Nat)

/-- Tunable `j` as named. -/
def namedAt (n : Named) (j : Nat) : Option Nat := (n[j]?).join

/-- Tunable `j` as it will stand before clamping: the value named, or the one in force. -/
def orInForce (n : Named) (j inForce : Nat) : Nat := (namedAt n j).getD inForce

/-- A named value is changed by its clamp. -/
def clampChanges (n : Named) (j : Nat) (f : Nat → Nat) : Bool :=
  match namedAt n j with
  | some v => f v ≠ v
  | none => false

/-- R112, R194: the speed table that would result. -/
def resultingTable (n : Named) (s : State) : List Nat :=
  (List.range 6).map (fun i => clampSpeed (orInForce n (13 + i) (s.spm.table.getD i 0)))

/-- R112: entry `i` of a table is not above the one before. -/
def notAbove (t : List Nat) (i : Nat) : Bool := decide (0 < i) && decide (t.getD i 0 ≤ t.getD (i - 1) 0)

/-- R194: the table is strictly ascending. -/
def tableAscends (t : List Nat) : Bool := (List.range 6).all (fun i => !notAbove t i)

/-- R194: the offset a refused TUNE gives: that of the first named entry not above the one before, or of the lowest
named entry. -/
def refusedOffset (n : Named) (t : List Nat) : Nat :=
  let isNamed := fun i => (namedAt n (13 + i)).isSome
  match (List.range 6).find? (fun i => isNamed i && notAbove t i) with
  | some i => 20 + 4 * (13 + i)
  | none =>
    match (List.range 6).find? isNamed with
    | some i => 20 + 4 * (13 + i)
    | none => 20 + 4 * 13

/-- Some named value is clamped, or a threshold is raised (R144, R163, R194). `frames` is the frame count. -/
def anyClamped (n : Named) (frames : Nat) (before after' : State) : Bool :=
  clampChanges n 1 (clamp 100 10000) || clampChanges n 2 (min 8) || clampChanges n 3 (clampRestart frames)
    || clampChanges n 4 (clamp 1 8) || clampChanges n 5 clampDwell
    || after'.hcm.advise ≠ orInForce n 6 before.hcm.advise || after'.hcm.require ≠ orInForce n 7 before.hcm.require
    || after'.hcm.retire ≠ orInForce n 8 before.hcm.retire || clampChanges n 9 (clamp 3600 1800000)
    || clampChanges n 10 (fun v => v - v % 2) || clampChanges n 11 (clamp 1 16) || clampChanges n 12 (min 255)
    || (List.range 6).any (fun i => clampChanges n (13 + i) clampSpeed)

/-- Every named value clamped by its owner and taken (R163, R194). -/
def applyTunables (n : Named) (frames : Nat) (s : State) : State :=
  let s := { s with
    cmp.compression := match namedAt n 0 with | some v => v ≠ 0 | none => s.cmp.compression
    cmp.idleSeal := match namedAt n 1 with | some v => clamp 100 10000 v | none => s.cmp.idleSeal
    fmt.threshold := match namedAt n 2 with | some v => min 8 v | none => s.fmt.threshold
    fmt.restart := match namedAt n 3 with | some v => clampRestart frames v | none => s.fmt.restart
    rdc.limit := match namedAt n 4 with | some v => clamp 1 8 v | none => s.rdc.limit
    mot.dwellTime := match namedAt n 5 with | some v => clampDwell v | none => s.mot.dwellTime
    exu.alertSet := match namedAt n 10 with | some v => alertSetOf v | none => s.exu.alertSet
    exu.trigger := match namedAt n 11 with | some v => clamp 1 16 v | none => s.exu.trigger
    exu.quietTime := match namedAt n 12 with | some v => min 255 v | none => s.exu.quietTime
    spm.table := resultingTable n s }
  setThresholds (orInForce n 6 s.hcm.advise) (orInForce n 7 s.hcm.require) (orInForce n 8 s.hcm.retire)
    (orInForce n 9 s.hcm.hours) s

/-- R194: the tunables a TUNE names. -/
def tuneNamed (r : OrderRec) : Named :=
  (List.range 19).map (fun j => if bodyField r 16 4 / 2 ^ j % 2 = 1 then some (bodyField r (20 + 4 * j) 4) else none)

/-- R194: a TUNE. Its own completion is counted with the trigger and quiet time it gives (R172, log 81). -/
def beginTune (r : OrderRec) (s : State) : State :=
  let n := tuneNamed r
  let t := resultingTable n s
  if n.all (fun v => v.isNone) then complete .ok .none s
  else if tableAscends t then
    let s' := applyTunables n s.bsm.frames.length s
    let c := anyClamped n s.bsm.frames.length s s'
    let s' := evaluate s'
    finishActive ⟨.ok, .none, resultFlags s' false s'.ord.discardSeen c, 0, s'.ord.position, 0, 0, []⟩ s'
  else
    finishActive ⟨.badOrder, .none, resultFlags s false s.ord.discardSeen false, refusedOffset n t, s.ord.position, 0, 0, []⟩ s

end Sys2Proof.Machine
end

