-- ==== Sys2Proof/Machine/Report.lean ====
section
/-! DEFINITION. The report record (R195, R196, 10.9.7) and the clearing of the counters (R197). -/

namespace Sys2Proof.Machine

/-- The number of a leader place, in the order of section 5.2. -/
def LeaderPlace.code : LeaderPlace → Nat
  | .none => 0 | .home => 1 | .inPath => 2 | .onReel => 3

/-- The number of a direction. -/
def Direction.code : Direction → Nat
  | .forward => 0 | .reverse => 1

/-- The number of a lock level. -/
def LockLevel.code : LockLevel → Nat
  | .unlocked => 0 | .settled => 1 | .locked => 2

/-- The number of a tension state. -/
def Tension.code : Tension → Nat
  | .off => 0 | .relaxed => 1 | .tensioned => 2

/-- The number of a store mode. -/
def StoreMode.code : StoreMode → Nat
  | .idle => 0 | .write => 1 | .read => 2

/-- The number of a session kind. -/
def SessionKind.code : SessionKind → Nat
  | .none => 0 | .write => 1 | .read => 2

/-- The number of a frame state, in table order. -/
def FrameState.code : FrameState → Nat
  | .free => 0 | .opened => 1 | .sealed => 2 | .writing => 3 | .pending => 4 | .verified => 5 | .filling => 6
  | .decoded => 7 | .draining => 8

/-- A section: its fields as 4-byte values, padded with zeros to its length. -/
def reportSection (length : Nat) (fields : List Nat) : List Byte :=
  let b := (fields.map (toBytes 4)).flatten
  b ++ List.replicate (length - b.length) 0

/-- The low and the high word of the cartridge identity. -/
def identityWords (s : State) : List Nat :=
  match identityOf s with
  | some i => [i.toNat % 4294967296, i.toNat / 4294967296]
  | none => [maxWord, maxWord]

/-- An enumeration whose codes begin at 1 elsewhere, numbered from 0 for the report record (R196). -/
def fromZero (code : Nat) : Nat := code - 1

/-- The General section. -/
def generalFields (s : State) : List Nat :=
  [identValue, s.timebase.toNat, s.exu.takenMark.toNat, s.exu.postMark.toNat, s.ord.position,
   orAbsent (s.ord.deferred.map (fun d => d.1)), orAbsent (s.ord.deferred.map (fun d => fromZero d.2.code)),
   orAbsent (s.cml.map.map (fun m => m.eodObject)), orAbsent (s.cml.map.map (fun m => m.eodBundle)),
   s.cml.state.code, cartTypeCode s]
  ++ identityWords s
  ++ [orAbsent (if s.cml.readable then s.cml.copy.map (fun c => c.loadCount) else none),
      orAbsent (s.cml.stale.map (fun x => fromZero x.code)), s.cml.rebuilt.toNat]

/-- The Motion section. -/
def motionFields (s : State) : List Nat :=
  [s.mot.state.code, s.mot.leader.code, orAbsent (s.mot.pos.map (fun p => p.wrap)),
   orAbsent (s.mot.pos.map (fun p => p.index)), orAbsent (s.mot.pos.map (fun p => p.dir.code)), s.mot.speed,
   s.mot.lock.code, s.mot.lockCount, s.mot.tension.code, s.mot.tab.toNat, s.mot.motionTime,
   orAbsent (s.cml.map.map (fun m => m.endWrap)), orAbsent (s.cml.map.map (fun m => m.endIndex))]

/-- The Store section. -/
def storeFields (s : State) : List Nat :=
  [s.bsm.mode.code, s.bsm.frames.length, frameCount s .free, frameCount s .opened, frameCount s .sealed,
   frameCount s .writing, frameCount s .pending, frameCount s .verified, frameCount s .filling, frameCount s .decoded,
   frameCount s .draining, s.bsm.sealedThrough, s.bsm.writtenThrough, s.bsm.verifiedThrough]

/-- The Speed matching section. -/
def speedFields (s : State) : List Nat :=
  [s.spm.session.code, s.spm.rate, orAbsent s.spm.vote, s.spm.next, orAbsent s.spm.lastSample,
   orAbsent s.spm.lastDemand, orAbsent s.spm.lastChoice]

/-- The Head care section. -/
def headFields (h : Hcm) : List Nat :=
  [h.h, h.n, h.advise, h.require, h.retire, h.hours, h.retirements, h.fences, h.rises, h.cleanings]

/-- The Counters section. -/
def counterFields (s : State) : List Nat :=
  [s.fmt.rowsPlaced, s.fmt.rewritesPlaced, s.fmt.blankSlots, s.fmt.unscoredFailures, s.fmt.repeats, s.fmt.writeFaults,
   s.rdc.rowsReceived, s.rdc.overruns, s.rdc.unreadable, s.rdc.superseded, s.rdc.rereads, s.rdc.recoveries,
   s.rdc.recoveriesFailed, s.dcp.corrupt,
   s.mot.backhitches, s.mot.wrapTurns, s.mot.speedChanges, s.mot.lockLosses, s.mot.travels, s.mot.threadRetries,
   s.mot.motionFaults,
   s.spm.writeSamples, s.spm.readSamples, s.spm.rises, s.spm.falls, s.spm.stepDowns,
   s.cml.accesses, s.cml.retried, s.cml.failed]

/-- A frame table entry: state, copy, bundle; an absent value is all bits set (10.9.7). -/
def frameEntry (f : Frame) : List Byte :=
  toBytes 1 f.state.code ++ toBytes 1 (f.copy.getD 255) ++ toBytes 2 0 ++ toBytes 4 (orAbsent f.bundle)

/-- The Frame table section: frames beyond the binding's are 0. -/
def frameTable (fs : List Frame) : List Byte :=
  let b := (fs.map frameEntry).flatten
  b ++ List.replicate (1024 - b.length) 0

/-- The 1,536 bytes of the report record. -/
def reportRecord (s : State) : List Byte :=
  reportSection 64 (generalFields s) ++ reportSection 64 (motionFields s) ++ reportSection 64 (storeFields s)
    ++ reportSection 64 (speedFields s) ++ headHistoryBlock s.hcm ++ reportSection 64 (headFields s.hcm)
    ++ reportSection 128 (counterFields s) ++ frameTable s.bsm.frames

/-- R197: every counter of the table set to 0. -/
def clearCounters (s : State) : State :=
  { s with
    fmt.rowsPlaced := 0, fmt.rewritesPlaced := 0, fmt.blankSlots := 0, fmt.unscoredFailures := 0, fmt.repeats := 0,
    fmt.writeFaults := 0,
    rdc.rowsReceived := 0, rdc.overruns := 0, rdc.unreadable := 0, rdc.superseded := 0, rdc.rereads := 0,
    rdc.recoveries := 0, rdc.recoveriesFailed := 0, dcp.corrupt := 0,
    mot.backhitches := 0, mot.wrapTurns := 0, mot.speedChanges := 0, mot.lockLosses := 0, mot.travels := 0,
    mot.threadRetries := 0, mot.motionFaults := 0,
    spm.writeSamples := 0, spm.readSamples := 0, spm.rises := 0, spm.falls := 0, spm.stepDowns := 0,
    cml.accesses := 0, cml.retried := 0, cml.failed := 0,
    hcm.retirements := 0, hcm.fences := 0, hcm.rises := 0, hcm.cleanings := 0 }

/-- R195 to R197: a REPORT: the record taken at this moment, its write begun, the counters cleared with CLEAR. -/
def beginReport (r : OrderRec) (s : State) : State :=
  let s' := raiseWrite .exu .reportRecord (reportExtent r).start (reportRecord s)
    { setStage .reporting s with ord.reportTime := s.timebase }
  if r.clear then clearCounters s' else s'

/-- R195, R196: the last byte of the record is written. -/
def reportWritten (s : State) : State :=
  if atStage s .report .reporting then
    let clear := match s.ord.record with | some r => r.clear | none => false
    finishActive ⟨.ok, .none, resultFlags s false s.ord.discardSeen false, 1536, s.ord.position, s.ord.reportTime.toNat,
      clear.toNat, []⟩ s
  else s

end Sys2Proof.Machine
end

