-- ==== Sys2Proof/Machine/LoopCheck.lean ====
section
/-! DEFINITION. The loop check (R198 to R200): compress, code, decode and compare in one frame, without tape. -/

namespace Sys2Proof.Machine

/-- The source of the CHECK in hand. -/
def loopSource (s : State) : Extent := match s.ord.record with | some r => checkSource r | none => ⟨0, 0⟩

/-- Its destination. -/
def loopDestination (s : State) : Extent := match s.ord.record with | some r => checkDestination r | none => ⟨0, 0⟩

/-- The CHECK in hand changed. -/
def setLoop (l : Loop) (s : State) : State := { s with loop := some l }

/-- R200: the CHECK completes; the loop frame returns to general use. -/
def endLoop (l : Loop) (st : Status) (c d : Nat) (s : State) : State :=
  finishActive ⟨st, .none, resultFlags s false s.ord.discardSeen false, l.fill, s.ord.position, c, d, []⟩
    (freeFrameAt l.frame { s with loop := none })

/-- R200: a failure at CODE or DECODE. -/
def failLoop (l : Loop) (s : State) : State := endLoop l .mediaError maxWord 0 s

/-- R199 stage 1: the reading of chunk `k` begun. -/
def loopReadChunk (k : Nat) (s : State) : State :=
  let e := chunkExtent (loopSource s) k
  raiseRead .cmpIn .loopChunkIn e.start e.length s

/-- The CHECK at its beginning, in the lowest-numbered frame. -/
def newLoop : Loop where
  frame := 0
  chunk := 0
  history := []
  table := []
  index := []
  fill := 0
  rawCount := 0
  row := 0
  data := []
  header := none
  rowIndex := []
  inWork := []
  dataWork := []
  agree := true
  entry := 0
  decHistory := []
  produced := 0
  written := 0
  source := none
  destination := none

/-- R198: a CHECK: it needs a quiet store, and begins with its first chunk. -/
def beginCheck (_ : OrderRec) (s : State) : State :=
  if s.bsm.mode ≠ .idle || s.mot.state.moving then complete .notReady .none s
  else loopReadChunk 0 (setLoop newLoop (setStage .looping s))

/-- R199 stage 1: a chunk read is computed and committed into the loop frame. -/
def loopChunkRead (l : Loop) (raw : List Byte) (s : State) : State :=
  let m : MatchInput := ⟨l.history, l.rawCount, raw⟩
  let c := m.candidate l.table (!s.cmp.compression)
  let e : IndexEntry := ⟨.data, 0, decide (l.chunk = 0), decide (l.chunk + 1 = chunkCount (loopSource s).length), c.form,
    raw.length, c.stored.length⟩
  let at' := frameBase s l.frame + headerBytes + l.fill
  raiseWrite .cmpOut .loopChunkOut at' c.stored
    (setLoop { l with chunk := l.chunk + 1, history := recentBytes (l.history ++ raw), table := c.table,
                      index := l.index ++ [e], fill := l.fill + c.stored.length, rawCount := l.rawCount + raw.length } s)

/-- R199: the header CMP writes. -/
def loopHeader (l : Loop) : BundleHeader := ⟨0, 0, some 0, 0, l.index.length, l.fill, .sync, none⟩

/-- R199: the stored bytes of a chunk are written: the next chunk, or the header, which the loop frame holds from here on
(R26). -/
def loopChunkWritten (l : Loop) (s : State) : State :=
  if l.chunk < chunkCount (loopSource s).length then loopReadChunk l.chunk s
  else
    raiseWrite .cmpOut .loopHeaderOut (frameBase s l.frame) (headerRows (loopHeader l) l.index)
      (updateFrame l.frame (fun f => { f with header := some (loopHeader l), index := l.index }) s)

/-- R199 stage 2: row `r` of the loop frame read through ROW_OUT; a parity row by way of the work area (R40). -/
def loopReadRow (r : Nat) (l : Loop) (s : State) : State :=
  raiseRead .rowOut .loopRowOut (rowAddress s l.frame r) rowBytes s

/-- What rows 0 and 1, written back, bring to the loop frame (R26). -/
def loopTakes (l : Loop) (f : Frame) : Frame :=
  if l.row = 0 then { f with header := l.header } else if l.row = 1 then { f with index := l.rowIndex } else f

/-- R199, R64: a row handed to RDC: a data row is written back through ROW_IN, a parity row is not stored (log 17). -/
def loopStoreRow (l : Loop) (s : State) : State :=
  if l.row < 66 then raiseWrite .rowIn .loopRowIn (rowAddress s l.frame l.row) l.data (updateFrame l.frame (loopTakes l) s)
  else raiseRead .rowIn .loopRowIn (rowAddress s l.frame l.row) rowBytes s

/-- R199 stage 2: a row read is coded by FMT, whose working values stand in the frame's work area, and handed to RDC. -/
def loopRowRead (l : Loop) (data : List Byte) (s : State) : State :=
  let f := (frameAt s l.frame).getD freeFrame
  let bytes := if l.row < 66 then maskPayload l.row l.fill data else parityRow (workValues s l.frame) l.row
  let s := if l.row < 66 then foldWork l.frame l.row bytes s else s
  let l := { l with data := bytes, header := if l.row = 0 then f.header else l.header,
                    rowIndex := if l.row = 1 then f.index else l.rowIndex }
  loopStoreRow l (setLoop l s)

/-- R199: RDC folds a row into its working values; a parity row is held against the values of the data rows (log 68). The spec
names one work area for FMT's values and RDC's: FMT's stand in it, and RDC's apart, in the record of the CHECK (log 94). -/
def loopFold (l : Loop) : Loop :=
  let w := foldRow l.inWork l.row l.data
  { l with inWork := w, dataWork := if l.row = 65 then w else l.dataWork,
           agree := l.agree && (decide (l.row < 66) || parityRow l.dataWork l.row = l.data) }

/-- R199: the last burst of a row handed to RDC: the next row, or, after row 71, the verdict and the header for DCP. -/
def loopRowWritten (l : Loop) (s : State) : State :=
  let l := loopFold l
  if l.row < 71 then loopReadRow (l.row + 1) l (setLoop { l with row := l.row + 1 } s)
  else if l.agree then raiseRead .dcpIn .loopHeaderIn (frameBase s l.frame) headerBytes (setLoop l s)
  else failLoop l s

/-- The shorter of the two extents of a CHECK. -/
def loopCompared (s : State) : Nat := min (loopSource s).length (loopDestination s).length

/-- R199 stage 3: entry `k`'s stored bytes fetched; past the last, stage 4 begins with the source. An entry without stored bytes,
as a window write may leave one (R26), produces nothing for its raw length of 1 or more: the frame is CORRUPT (R75). -/
def loopFetch (l : Loop) (s : State) : State :=
  match l.index[l.entry]? with
  | some e =>
    if e.storedLen = 0 then failLoop l s
    else raiseRead .dcpIn .loopEntryIn (frameBase s l.frame + headerBytes + storedOffset l.index l.entry) e.storedLen s
  | none => raiseRead .cmpIn .loopSource (loopSource s).start (loopSource s).length s

/-- R199: the header and index are written, and the coding stage begins. -/
def loopHeaderWritten (l : Loop) (s : State) : State := loopReadRow 0 l s

/-- R199: every entry is one of record 0; the logical position is 0 for the stage, so that any other is CORRUPT (R76, log 68). -/
def loopEntriesOk (ix : List IndexEntry) : Bool := ix.all (fun e => e.kind = .data && e.object = 0)

/-- R199 stage 3: the checks of R74 on the header and index that rows 0 and 1 of the loop frame hold. -/
def loopHeaderRead (l : Loop) (s : State) : State :=
  let f := (frameAt s l.frame).getD freeFrame
  match f.header with
  | some h =>
    if consistent h f.index none && loopEntriesOk f.index then
      loopFetch { l with index := f.index } (setLoop { l with index := f.index } s)
    else failLoop l s
  | none => failLoop l s

/-- R199 stage 3: an entry decoded; the part the destination has room for is written. -/
def loopEntryRead (l : Loop) (stored : List Byte) (s : State) : State :=
  match (l.index[l.entry]?).bind (fun e => decodeStored e l.decHistory l.produced stored) with
  | some raw =>
    let part := raw.take ((loopDestination s).length - l.written)
    let at' := (loopDestination s).start + l.written
    let l := { l with entry := l.entry + 1, decHistory := recentBytes (l.decHistory ++ raw),
                      produced := l.produced + raw.length, written := l.written + part.length }
    if part.isEmpty then loopFetch l (setLoop l s) else raiseWrite .dcpOut .loopDeliver at' part (setLoop l s)
  | none => failLoop l s

/-- R199 stage 4: the first offset at which two byte strings differ. -/
def firstDifference : Nat → List Byte → List Byte → Option Nat
  | i, a :: as, b :: bs => if a = b then firstDifference (i + 1) as bs else some i
  | _, _, _ => none

/-- R199 stage 4: the source has been read again; the destination is read, the whole of it. -/
def loopSourceRead (l : Loop) (bytes : List Byte) (s : State) : State :=
  raiseRead .dcpIn .loopDestination (loopDestination s).start (loopDestination s).length
    (setLoop { l with source := some bytes } s)

/-- R199, R200: the comparison, from offset 0 up to the lesser of the two lengths. -/
def loopCompare (l : Loop) (bytes : List Byte) (s : State) : State :=
  match firstDifference 0 (l.source.getD []) bytes with
  | some i => endLoop l .mediaError i (loopCompared s) s
  | none => endLoop l .ok maxWord (loopCompared s) s

/-- A transfer of the CHECK has ended. -/
def loopTransferDone (p : Purpose) (data : List Byte) (s : State) : State :=
  match s.loop with
  | some l =>
    match p with
    | .loopChunkIn => loopChunkRead l data s
    | .loopChunkOut => loopChunkWritten l s
    | .loopHeaderOut => loopHeaderWritten l s
    | .loopRowOut => loopRowRead l data s
    | .loopRowIn => loopRowWritten l s
    | .loopHeaderIn => loopHeaderRead l s
    | .loopEntryIn => loopEntryRead l data s
    | .loopDeliver => loopFetch l s
    | .loopSource => loopSourceRead l data s
    | .loopDestination => loopCompare l data s
    | .setupRecord | .reportRecord | .windowRead | .windowWrite | .chunkIn | .chunkOut | .headerOut | .rowFetch
    | .rowStore | .rowRestore _ | .headerIn | .entryIn | .deliver => s
  | none => s

end Sys2Proof.Machine
end

