-- ==== Sys2Proof/Machine/Settle.lean ====
section
/-! DEFINITION. What follows an event inside the same step: the signals between blocks are answered in turn, the
blocks that have work go on with it, and the memory port is granted. -/

namespace Sys2Proof.Machine

/-- R102, R105, R138, R189: the physical end met while reading, by what the reading is for. -/
def onReadPhysicalEnd (s : State) : State :=
  if s.mot.locate.isSome then failLocate s
  else if s.cml.rebuild.isSome then endScanNow s
  else
    match s.ord.find with
    | some f => if f.phase = .examining then failFind s else s
    | none => rdcPhysicalEnd s

/-- A signal answered by the block it is for. -/
def answerSignal (x : Signal) (s : State) : State :=
  match x with
  | .writeDrained => onWriteDrained s
  | .fenced => onFenced s
  | .frameHanded => resumeIntake s
  | .storeIdle => serveClaims s
  | .intakeComplete => intakeDone s
  | .physicalEnd => endOfMediaCheck s
  | .readPhysicalEnd => onReadPhysicalEnd s
  | .positioned => findDone s
  | .arrived => onArrived s
  | .notThreaded => onNotThreaded s
  | .threaded => onThreaded s
  | .seated => onSeated s
  | .ejected => onEjected s
  | .passDone => onPassDone s
  | .motionFailed => onMotionFailed s
  | .emergency speed => onEmergency speed s
  | .located place => findLocated place s
  | .locateFailed => onLocateFailed s
  | .accessEnded k ok => onAccessEnded k ok s
  | .readBack ok => appendReadBack ok s

/-- The signals in flight answered, oldest first; the number is fuel. -/
def settle : Nat → State → State
  | 0, s => s
  | k + 1, s =>
    match s.sig with
    | [] => s
    | x :: rest => settle k (answerSignal x { s with sig := rest })

/-- R127, R192, R193: the memory stage of a LOAD or UNLOAD that waited for another access begins its own. -/
def accessCheck (s : State) : State :=
  if s.cml.access.isSome then s
  else if atStage s .load .loadMemory then beginAccess .loadRead none s
  else if atStage s .unload .unloadMemory then unloadMemory s
  else s

/-- The blocks that go on by themselves: CML's next access, DCP at its cursor, RDC's checks and its in-buffer, FMT's
out-buffer and row slots. -/
def proceed (s : State) : State :=
  fmtPlace (askAgain (fetchRow (storeRow (rdcCheck (dcpCheck (dcpCheck (accessCheck s)))))))

/-- How many signals one step may answer at a time. -/
abbrev signalFuel : Nat := 64

/-- All that follows an event in its step (log 28). -/
def finish (s : State) : State :=
  let s := proceed (settle signalFuel s)
  let s := proceed (settle signalFuel s)
  grant (settle signalFuel s)

end Sys2Proof.Machine
end

