-- ==== Sys2Proof/Machine/Resets.lean ====
section
/-! DEFINITION. The hard reset, the soft reset, and the end of a cartridge session. -/

namespace Sys2Proof.Machine

/-- R176 and each block's rule: the state after a hard reset. Buffer memory keeps its bytes; the commands that wait
are not the part's. -/
def hardResetState (sensors : Sensors) (s : State) : State :=
  { State.reset with mem := s.mem, portRead := s.portRead, mot := Mot.hardReset sensors, pending := s.pending }

/-- The bit of a condition raised whose cell still waits to be written. -/
def waitingBit (c : Condition) (s : State) : BitVec 15 :=
  if s.exu.work.any (fun w => match w with
      | .cell d _ _ => d = c
      | .held _ _ | .outcome _ _ | .result _ _ | .done _ _ _ | .scan _ _ _ _ | .copy _ _ _ | .taken _ _ _ _ => false)
  then c.mask else 0

/-- R177: EXU at a soft reset. The marks dropped read 0 until a binding sets them (log 89). The accesses to the exchange area
that wait are dropped; a CARTRIDGE or TAPE_READY whose cell is among them has its bit set, its detail being held (log 25). -/
def exuSoftReset (s : State) : State :=
  { s with
    exu.bind := .unbound, exu.binding := none, exu.base := none, exu.outcome := .none,
    exu.postMark := 0, exu.takenMark := 0, exu.passedOver := [], exu.active := none,
    exu.count := 0, exu.quietTimer := none,
    exu.cond := s.exu.cond &&& (Condition.cartridge.mask ||| Condition.tapeReady.mask)
      ||| waitingBit .cartridge s ||| waitingBit .tapeReady s,
    exu.work := [],
    exu.heldCartridge := s.exu.lastCartridge, exu.heldTapeReady := s.exu.lastTapeReady,
    exu.raises := List.replicate 15 0 }

/-- R177, R178: ORD at a soft reset: the record and the pending deferred error go, the position stays. -/
def ordSoftReset (s : State) : State := clearProgress { s with ord.record := none, ord.deferred := none }

/-- R36: BSM at a soft reset: every frame discarded, and the frame table emptied. -/
def bsmSoftReset (s : State) : State :=
  let s := discardAll s
  { s with bsm.frames := [] }

/-- R38: MARB at a soft reset: the burst in progress ends; the transfers of the blocks go with their work, an access of
the processor port stays raised. -/
def marbSoftReset (s : State) : State :=
  { s with marb.burst := none, marb.transfers := s.marb.transfers.filter (fun t => t.who = .proc) }

/-- R127, R141: CML at a soft reset: a rebuild is dropped, and an access ends with its current attempt. -/
def cmlSoftReset (s : State) : State :=
  let s := dropRebuild s
  { s with cml.access := s.cml.access.map (fun a => { a with orphan := true }) }

/-- R110: what MOT drops in every state. -/
def motRelease (s : State) : State :=
  let s := dropLock s
  { s with mot.limitTimer := none, mot.held := none, mot.locate := none, mot.retension := false,
           mot.recovering := false, mot.afterRewind := .nothing, mot.runOn := .none }

/-- The splice point and start kind given up. -/
def dropSplice (s : State) : State := { s with mot.splice := none, mot.startKind := none }

/-- R110: moving tape decelerates, to stay in THREADED_IDLE where it comes to rest. -/
def controlledStop (s : State) : State :=
  { dropSplice s with mot.state := .stopping, mot.dwellTimer := none, mot.afterRest := .stay }

/-- R110: MOT at a soft reset. -/
def motSoftReset (s : State) : State :=
  let s := motRelease s
  match s.mot.state with
  | .starting | .streamingWrite | .streamingRead | .stopping | .repositioning | .turning | .cleaning => controlledStop s
  | .travel => if recoveryRewinds s then s else controlledStop s
  | .positioned => startDwell { dropSplice s with mot.state := .threadedIdle }
  | .relaxed => dropSplice s
  | .threading => abandonThreading s
  | .empty | .seated | .threadedIdle | .unthreading | .stranded | .faultHeld => s

/-- R177: the soft reset of every block. -/
def softResetState (s : State) : State :=
  let s := marbSoftReset (bsmSoftReset (ordSoftReset (exuSoftReset s)))
  let s := dcpClear (rdcClear (fmtReset s))
  let s := cmlSoftReset (spmSessionReset s)
  motSoftReset { s with loop := none }

/-- R111: MOT at the end of a cartridge session. -/
def motSessionEnd (s : State) : State :=
  let s := dropSplice (motRelease s)
  { s with mot.state := .empty, mot.leader := .none, mot.pos := none, mot.tension := .off, mot.dwellTimer := none,
           mot.tab := false, mot.ejecting := false, mot.threadTimer := none, mot.word := none }

/-- R61, R82, R111, R124, R126, R178: a cartridge session ended by an eject. -/
def sessionEnd (s : State) : State :=
  let s := cmlDrop (spmSessionReset (dcpClear (rdcClear s)))
  motSessionEnd { s with fmt.ewFlag := false, ord.position := 0 }

end Sys2Proof.Machine
end

