-- ==== Sys2Proof/Machine/TapeEvents.lean ====
section
/-! DEFINITION. The events of moving tape (chapter 5): row time boundaries, servo frames, the speed fault, stops,
arrivals, turns and the motion second. -/

namespace Sys2Proof.Machine

/-! ### Row time boundaries (R94) -/

/-- R94: the heads one row time on, in the direction of motion, within the wrap. -/
def moveOne (s : State) : State :=
  { s with mot.pos := s.mot.pos.map (fun p =>
      if p.dir = wrapDirection p.wrap then { p with index := min (p.index + 1) (wrapLength s - 1) }
      else { p with index := p.index - 1 }) }

/-- The heads at an index of their wrap. -/
def atIndex (i : Nat) (s : State) : State := { s with mot.pos := s.mot.pos.map (fun p => { p with index := i }) }

/-- R95, R96: the streaming state entered: its first row time begins. -/
def enterStreaming (kind : StartKind) (s : State) : State :=
  let s := { s with mot.splice := none, mot.startKind := none }
  match kind with
  | .write => beginWriteRowTime { s with mot.state := .streamingWrite, mot.ewReported := false }
  | .read => { s with mot.state := .streamingRead, rdc.rowTime := none }

/-- R95: a boundary in STARTING: the splice point reaches the heads, or they are one row time nearer. -/
def startingBoundary (p : Pos) (s : State) : State :=
  let sp := placeOf s (s.mot.splice.getD 0)
  if sp.2 ≤ p.index + 1 then enterStreaming (s.mot.startKind.getD .read) (atIndex sp.2 s) else atIndex (p.index + 1) s

/-- R100, R102: the last row time of a wrap has passed in STREAMING_WRITE: the tape runs on. -/
def writeWrapEnd (p : Pos) (s : State) : State :=
  let how := if p.wrap + 1 < (geometry s).wraps then RunOn.wrapEnd else RunOn.physicalEnd
  windowEmptyReport { s with mot.runOn := how, writeHeads := [] }

/-- A boundary in STREAMING_WRITE. -/
def writeBoundary (p : Pos) (s : State) : State :=
  if s.mot.runOn ≠ .none then s
  else
    let s := closeRowTime s
    if p.index + 1 < wrapLength s then beginWriteRowTime (atIndex (p.index + 1) s) else writeWrapEnd p s

/-- R99, R102, R139: the last row time of a wrap has passed in STREAMING_READ: a header scan ends, the tape stops at the
physical end, or the wrap turns. -/
def readWrapEnd (p : Pos) (s : State) : State :=
  if (geometry s).wraps ≤ p.wrap + 1 then emit .readPhysicalEnd (stopAtEnd .read s)
  else if headerScanOn s then endHeaderScan s
  else enterTurning .read s

/-- A boundary in STREAMING_READ. -/
def readBoundary (p : Pos) (s : State) : State :=
  let s := { s with rdc.rowTime := none }
  if p.index + 1 < wrapLength s then
    (if headerScanOver s then endHeaderScan (atIndex (p.index + 1) s) else atIndex (p.index + 1) s)
  else readWrapEnd p s

/-- R106: the cleaning length has passed, or wrap 0 has ended: the rewind, once the tape is at rest (log 63). -/
def cleaningOver (s : State) : State := requestTravel .bot { s with mot.afterRewind := .passDone, mot.cleanLeft := 0 }

/-- R106: a boundary in CLEANING. -/
def cleaningBoundary (p : Pos) (s : State) : State :=
  let left := s.mot.cleanLeft - 1
  let ended := left = 0 || decide (wrapLength s ≤ p.index + 1)
  let s := moveOne { s with mot.cleanLeft := left }
  if ended then cleaningOver s else s

/-- R94: a row time boundary, by motion state. -/
def rowBoundary (p : Pos) (s : State) : State :=
  match s.mot.state with
  | .starting => startingBoundary p s
  | .streamingWrite => writeBoundary p s
  | .streamingRead => readBoundary p s
  | .cleaning => cleaningBoundary p s
  | .stopping | .repositioning | .travel => moveOne s
  | .empty | .seated | .threading | .threadedIdle | .relaxed | .positioned | .turning | .unthreading | .stranded
  | .faultHeld => s

/-- ROW_TIME_BOUNDARY (R94). With the position absent there is none to follow. -/
def execRowTimeBoundary (s : State) : Host.Outcome State Fault Refusal :=
  match s.mot.pos with
  | some p => .next (finish (rowBoundary p s))
  | none => .next s

/-! ### The speed lock (R91, R92) -/

/-- R91: an in-tolerance frame; at LOCKED the limit timer stops. -/
def inTolerance (s : State) : State :=
  let l := inToleranceLevel s.mot
  let s := setLock l.1 l.2 s
  if l.1 = .locked then { s with mot.limitTimer := none } else s

/-- R91, R92: an out-of-tolerance frame; a fall from LOCKED while streaming starts a stopped limit timer. A fall from SETTLED, with
the timer stopped by a LOCKED reached and lost before the streaming began, starts none (log 98). -/
def outOfTolerance (s : State) : State :=
  let l := outOfToleranceLevel s.mot
  let fell := s.mot.lock = .locked && s.mot.state ≠ .starting && s.mot.limitTimer.isNone
  let s := setLock l.1 l.2 s
  if fell then startLimit s else s

/-- SERVO_FRAME (R91). -/
def execServoFrame (good : Bool) (s : State) : Host.Outcome State Fault Refusal :=
  .next (if s.mot.state.counting then finish (if good then inTolerance s else outOfTolerance s) else s)

/-- R89: what an emergency stop does to MOT. -/
def brake (s : State) : State :=
  let s := motRelease (dropSplice s)
  { s with mot.state := .faultHeld, mot.leader := .onReel, mot.tension := .off, mot.pos := none,
           mot.dwellTimer := none, mot.threadTimer := none, mot.motionFaults := bump s.mot.motionFaults }

/-- R88, R89, R92: an emergency stop: MOT, then FMT, the condition, and ORD. -/
def emergencyStop (speed : Bool) (detail c : Nat) (s : State) : State :=
  emit (.emergency speed) (raise .motionFault 0 detail c (fmtEmergency (brake s)))

/-- LOCK_LIMIT_TIMER_EXPIRY (R92): a speed fault. -/
def execLockLimitTimerExpiry (s : State) : Host.Outcome State Fault Refusal :=
  .next (if expired s.mot.limitTimer s then finish (emergencyStop true 5 s.mot.speed s) else s)

/-- R88: MOT acts on a tension fault. -/
def tensionWatched (m : Mot) : Bool :=
  m.tension ≠ .off || (m.state = .threading && m.threadPhase = .tensioning)

/-- TENSION_FAULT (R88). -/
def execTensionFault (s : State) : Host.Outcome State Fault Refusal :=
  .next (if tensionWatched s.mot then finish (emergencyStop false 4 s.mot.state.code s) else s)

/-! ### Stops, arrivals, turns -/

/-- R90: still tape relaxed. -/
def relaxTape (s : State) : State :=
  { s with mot.state := .relaxed, mot.tension := .relaxed, mot.dwellTimer := none }

/-- DWELL_TIMER_EXPIRY (R90). -/
def execDwellTimerExpiry (s : State) : Host.Outcome State Fault Refusal :=
  .next
    (if expired s.mot.dwellTimer s && (s.mot.state = .threadedIdle || s.mot.state = .positioned) then relaxTape s else s)

/-- R97, R103, R110: what follows when the tape is at rest. -/
def atRest (s : State) : State :=
  match s.mot.afterRest with
  | .runUp => moveToRunUp s
  | .go d => enterTravel d s
  | .stay => serveHeld (startDwell { s with mot.state := .threadedIdle })

/-- TAPE_AT_REST (R97). -/
def execTapeAtRest (s : State) : Host.Outcome State Fault Refusal :=
  .next (if s.mot.state = .stopping then finish (atRest s) else s)

/-- RUN_UP_POINT_REACHED (R97). -/
def execRunUpPointReached (s : State) : Host.Outcome State Fault Refusal :=
  .next (if s.mot.state = .repositioning then finish (arriveRunUp true s) else s)

/-- R103: a travel counted on its arrival (log 20). -/
def countTravel (s : State) : State := { s with mot.travels := bump s.mot.travels }

/-- R103: the heads at rest at a place in THREADED_IDLE, no splice point held, with the dwell timer started. -/
def idleAt (place : Nat × Nat) (s : State) : State :=
  startDwell { dropSplice s with mot.state := .threadedIdle, mot.pos := some ⟨place.1, place.2, wrapDirection place.1⟩ }

/-- R103: arrival at a named place; a request held meanwhile is carried out, a start too (R95, log 64). -/
def arriveNamed (place : Nat × Nat) (s : State) : State := emit .arrived (serveHeld (idleAt place s))

/-- R103, R106, R107: arrival at BOT, and what the rewind was for. -/
def arriveBot (s : State) : State :=
  let why := s.mot.afterRewind
  let s := idleAt (0, 0) { s with mot.afterRewind := .nothing }
  match why with
  | .nothing => emit .arrived (serveHeld s)
  | .unthread => enterUnthreading s.mot.unthreadWhy s
  | .passDone => emit .passDone s

/-- R103: arrival, by destination; a recovery rewind ends at the BOT sensor. -/
def travelArrives (s : State) : State :=
  match s.mot.dest with
  | .runUp b => arriveRunUp b (countTravel s)
  | .named p => arriveNamed (destinationPlace s (.named p)) (countTravel s)
  | .bot => arriveBot (countTravel s)
  | .recovery => s

/-- TRAVEL_ARRIVAL (R103). -/
def execTravelArrival (s : State) : Host.Outcome State Fault Refusal :=
  .next (if s.mot.state = .travel then finish (travelArrives s) else s)

/-- R99: the heads at index 0 of the next wrap, the turn counted. -/
def turnedHeads (s : State) : State :=
  { s with mot.pos := s.mot.pos.map (fun p => ⟨p.wrap + 1, 0, wrapDirection (p.wrap + 1)⟩),
           mot.wrapTurns := bump s.mot.wrapTurns }

/-- R99: the streaming state resumed after a turn. -/
def resumeStreaming (s : State) : State := enterStreaming s.mot.turnFrom (startLimit s)

/-- R97, R99: what the end of a turn brings: a request taken during it, or streaming. -/
def turnEnds (s : State) : State := heldStop s.mot.turnFrom resumeStreaming s

/-- TURN_DONE (R99). -/
def execTurnDone (s : State) : Host.Outcome State Fault Refusal :=
  .next (if s.mot.state = .turning then finish (turnEnds (turnedHeads s)) else s)

/-- R108: a recovery rewind ends at BOT in THREADED_IDLE; a request held meanwhile is carried out (log 73). -/
def recoveryEnds (s : State) : State := emit .threaded (serveHeld (idleAt (0, 0) s))

/-- BOT_SENSOR (R108). -/
def execBotSensor (s : State) : Host.Outcome State Fault Refusal :=
  .next (if recoveryRewinds s then finish (recoveryEnds s) else s)

/-! ### The motion second (R109) -/

/-- One millisecond passes with no command waiting: the timebase counts it modulo 2 to the power 32, and the motion time
accumulator gathers it while the tape moves (00_scope 2.6, R109; log 1). -/
def tick (s : State) : State :=
  { s with timebase := s.timebase + 1,
           mot.motionTime := if s.mot.state.moving then s.mot.motionTime + 1 else s.mot.motionTime }

/-- R109: one motion second taken from the accumulator and handed to HCM. -/
def takeSecond (s : State) : State := addMotionSecond { s with mot.motionTime := s.mot.motionTime - 1000 }

/-- MOTION_SECOND (R109; log 14). -/
def execMotionSecond (s : State) : Host.Outcome State Fault Refusal :=
  .next (if s.mot.state.moving || decide (1000 ≤ s.mot.motionTime) then finish (takeSecond s) else s)

end Sys2Proof.Machine
end

