-- ==== Sys2Proof/Machine/CartridgeEvents.lean ====
section
/-! DEFINITION. The events of the cartridge, its leader and its memory (chapters 5 and 7). -/

namespace Sys2Proof.Machine

/-- R83: a cartridge seated, its tab sensed. -/
def seatCartridge (tab : Bool) (s : State) : State :=
  raise .cartridge 0 1 0
    { s with mot.state := .seated, mot.leader := .home, mot.tab := tab, mot.ejecting := false }

/-- CARTRIDGE_SEATED (R83). -/
def execCartridgeSeated (tab : Bool) (s : State) : Host.Outcome State Fault Refusal :=
  .next (if s.mot.state = .empty then seatCartridge tab s else s)

/-- R107, R111: the cartridge driven out is gone: the session ends. -/
def cartridgeEjected (s : State) : State := emit .ejected (raise .cartridge 0 3 0 (sessionEnd s))

/-- R83, R143: the cartridge is gone without an eject. -/
def cartridgeTaken (s : State) : State :=
  raise .cartridge 0 2 0 (cmlDrop { s with mot.state := .empty, mot.leader := .none, mot.tab := false })

/-- CARTRIDGE_REMOVED (R83, R107). -/
def execCartridgeRemoved (s : State) : Host.Outcome State Fault Refusal :=
  .next
    (if s.mot.state = .seated then finish (if s.mot.ejecting then cartridgeEjected s else cartridgeTaken s) else s)

/-- MOT is in this phase of THREADING. -/
def inPhase (s : State) (p : ThreadPhase) : Bool := s.mot.state = .threading && s.mot.threadPhase = p

/-- R84, R85: the path phase entered. -/
def enterPath (s : State) : State :=
  { s with mot.threadPhase := .path, mot.leader := .inPath, mot.threadTimer := some (after s 8000) }

/-- LEADER_CAPTURED (R84). -/
def execLeaderCaptured (s : State) : Host.Outcome State Fault Refusal :=
  .next (if inPhase s .capture then enterPath s else s)

/-- R84: the capture attempt is over: another reach, or the third attempt's fault. -/
def captureOver (s : State) : State :=
  if s.mot.attempt < 3 then
    { s with mot.attempt := s.mot.attempt + 1, mot.threadRetries := bump s.mot.threadRetries,
             mot.threadTimer := some (after s 3000) }
  else
    motionFault 1 .threading { s with mot.state := .seated, mot.leader := .home, mot.threadTimer := none }

/-- CAPTURE_TIMER_EXPIRY (R84). -/
def execCaptureTimerExpiry (s : State) : Host.Outcome State Fault Refusal :=
  .next (if inPhase s .capture && expired s.mot.threadTimer s then finish (captureOver s) else s)

/-- R85: the tensioning phase entered. -/
def enterTensioning (s : State) : State :=
  { s with mot.threadPhase := .tensioning, mot.leader := .onReel, mot.threadTimer := none }

/-- LEADER_ATTACHED (R85). -/
def execLeaderAttached (s : State) : Host.Outcome State Fault Refusal :=
  .next (if inPhase s .path then enterTensioning s else s)

/-- PATH_TIMER_EXPIRY (R86). -/
def execPathTimerExpiry (s : State) : Host.Outcome State Fault Refusal :=
  .next (if inPhase s .path && expired s.mot.threadTimer s then enterUnthreading .pathFault s else s)

/-- R85, R130: threading done: the tape stands at BOT at tension, the geometry word goes to CML, TAPE_READY. -/
def threadingDone (g : Geometry) (s : State) : State :=
  let s := takeGeometry g (idleAt (0, 0) { s with mot.tension := .tensioned, mot.word := some g })
  emit .threaded (raise .tapeReady (geometry s).wraps s.mot.tab.toNat 0 s)

/-- R90: RELAXED tape is at tension again: the held request is carried out. -/
def retensioned (s : State) : State :=
  let st := if s.mot.splice.isSome then MotionState.positioned else MotionState.threadedIdle
  serveHeld (startDwell { s with mot.tension := .tensioned, mot.retension := false, mot.state := st })

/-- R108, R130: the tape of a recovery is at tension: the recovery rewind. -/
def recoveryRewind (g : Geometry) (s : State) : State :=
  takeGeometry g
    { s with mot.tension := .tensioned, mot.recovering := false, mot.state := .travel, mot.dest := .recovery,
             mot.pos := none, mot.word := some g }

/-- WORKING_TENSION (R85, R90, R108), by what the tension is being raised for. -/
def execWorkingTension (g : Geometry) (s : State) : Host.Outcome State Fault Refusal :=
  .next
    (if inPhase s .tensioning then finish (threadingDone g s)
     else if s.mot.state = .relaxed && s.mot.retension then finish (retensioned s)
     else if (s.mot.state = .stranded || s.mot.state = .faultHeld) && s.mot.recovering then recoveryRewind g s
     else s)

/-- LEADER_HOME (R107). -/
def execLeaderHome (s : State) : Host.Outcome State Fault Refusal :=
  .next (if s.mot.state = .unthreading then finish (leaderIsHome s) else s)

/-- UNTHREAD_TIMER_EXPIRY (R107). -/
def execUnthreadTimerExpiry (s : State) : Host.Outcome State Fault Refusal :=
  .next (if s.mot.state = .unthreading && expired s.mot.threadTimer s then finish (unthreadFailed s) else s)

/-- CM_ANSWER (R127). -/
def execCmAnswer (reply : CmReply) (s : State) : Host.Outcome State Fault Refusal :=
  .next (if s.cml.access.isSome then finish (answerAccess reply s) else s)

/-- CM_ATTEMPT_TIMEOUT (R127). -/
def execCmAttemptTimeout (s : State) : Host.Outcome State Fault Refusal :=
  match s.cml.access with
  | some a => .next (finish (failAttempt a s))
  | none => .next s

end Sys2Proof.Machine
end

