-- ==== Sys2Proof/WellFormed.lean ====
section
/-! DEFINITION. Well-formed commands: operands that an event of the hardware can carry. -/

namespace Sys2Proof

/-- A read of the port, or a write at or below the last byte of buffer memory: no write of a register, which is a
command of its own (BINDING, POST, ABORT, COND, the resets, REGISTER_WRITE_IGNORED). -/
def windowWf (addr : Word) (write : Option Word) : Bool := write.isNone || decide (addr.toNat < memoryBytes)

/-- R159: a register write that is disregarded: short, or to IDENT, to an unnamed address, or to RESET with a code
that is neither 1 nor 2. -/
def ignoredWrite (addr : Word) (len : AccessLen) (value : Word) : Bool :=
  let a := addr.toNat
  decide (memoryBytes ≤ a)
    && (len ≠ .four
      || !(a = memoryBytes + 4 || a = memoryBytes + 8 || a = memoryBytes + 12 || a = memoryBytes + 16
        || (a = memoryBytes + 20 && (value = 1 || value = 2))))

/-- A row as it lies on tape: one of the 72 rows, with 16,384 data bytes (R40). -/
def TapeRow.wf (r : TapeRow) : Bool := decide (r.ident.row < 72) && decide (r.data.length = rowBytes)

/-- What one head reports is well-formed. -/
def HeadOutcome.wf : HeadOutcome → Bool
  | .found _ row => row.wf
  | .unreadable => true
  | .absent => true

/-- The channels of a list rise strictly. -/
def channelsRise : List (Fin 16 × HeadOutcome) → Bool
  | a :: b :: rest => decide (a.1 < b.1) && channelsRise (b :: rest)
  | _ => true

/-- The outcomes of a row time: each channel at most once, in channel order, each well-formed. -/
def headsWf (heads : List (Fin 16 × HeadOutcome)) : Bool := channelsRise heads && heads.all (fun h => h.2.wf)

/-- A command is well-formed. -/
def Instr.wf : Instr → Bool
  | .powerOnReset _ => true
  | .hardReset _ => true
  | .softReset => true
  | .registerWriteIgnored addr len value => ignoredWrite addr len value
  | .binding _ => true
  | .setupRecordRead => true
  | .post _ => true
  | .quietTimerExpiry => true
  | .cond _ => true
  | .abort _ => true
  | .windowAccess addr _ w => windowWf addr w
  | .burstDone => true
  | .write => true
  | .mark => true
  | .flush => true
  | .read => true
  | .space => true
  | .locate => true
  | .rewind => true
  | .load => true
  | .unload => true
  | .tune => true
  | .report => true
  | .check => true
  | .chunkCommit => true
  | .idleTimerExpiry => true
  | .rowTimeBoundary => true
  | .verifyResult _ => true
  | .readHeadOutcome heads => headsWf heads
  | .blankRunLimit => true
  | .decodeEntry => true
  | .servoFrame _ => true
  | .lockLimitTimerExpiry => true
  | .cartridgeSeated _ => true
  | .cartridgeRemoved => true
  | .leaderCaptured => true
  | .captureTimerExpiry => true
  | .leaderAttached => true
  | .pathTimerExpiry => true
  | .workingTension _ => true
  | .leaderHome => true
  | .unthreadTimerExpiry => true
  | .tensionFault => true
  | .dwellTimerExpiry => true
  | .tapeAtRest => true
  | .runUpPointReached => true
  | .travelArrival => true
  | .turnDone => true
  | .botSensor => true
  | .cmAnswer _ => true
  | .cmAttemptTimeout => true
  | .motionSecond => true

end Sys2Proof
end

