-- ==== Sys2Proof/Machine/DataPath.lean ====
section
/-! DEFINITION. The events of the data paths: commits and the idle timer (chapter 1), verify results (chapter 3), read
head outcomes, the blank run's limit and decoded entries (chapter 4). -/

namespace Sys2Proof.Machine

/-- CHUNK_COMMIT (R11). -/
def execChunkCommit (s : State) : Host.Outcome State Fault Refusal := .next (finish (commitCandidate s))

/-- IDLE_TIMER_EXPIRY (R17). -/
def execIdleTimerExpiry (s : State) : Host.Outcome State Fault Refusal := .next (finish (idleExpiry s))

/-- VERIFY_RESULT (R47, R48): a result against the oldest window entry. -/
def execVerifyResult (r : VerifyOutcome) (s : State) : Host.Outcome State Fault Refusal :=
  .next (if s.fmt.window.isEmpty then s else finish (afterResult (takeResult r s)))

/-- A row time of STREAMING_READ: its serpentine position (R63, R91). -/
def readPlace (s : State) : Option Nat := if s.mot.state = .streamingRead then headPlace s else none

/-- Rows are read by a read session, and by nothing else. -/
def sessionReads (s : State) : Bool :=
  s.mot.locate.isNone && s.cml.rebuild.isNone && s.ord.find.isNone && s.rdc.phase.active

/-- R63: a row time below SETTLED: nothing is found and nothing counted, but it moves the frontier of a session. -/
def lockGapRowTime (place : Nat) (s : State) : State :=
  if sessionReads s then sessionRowTime [] place (!reportedBefore s) (noteRowTime place s) else s

/-- The good rows of a report handed to what reads the tape: a locate (R105), a rebuild (R138), a search (R189), a
session (R63 to R66). -/
def readRowTime (rows : List TapeRow) (place : Nat) (first : Bool) (s : State) : State :=
  match s.mot.locate with
  | some l => locateRowTime l rows place s
  | none =>
    if s.cml.rebuild.isSome then rebuildRowTime rows place first s
    else if s.ord.find.isSome then findRows place rows s
    else if s.rdc.phase.active then sessionRowTime rows place first s
    else s

/-- READ_HEAD_OUTCOME (R63): what read heads report in the row time in hand. Its heads may report together or one
after another (log 42). -/
def execReadHeadOutcome (heads : List (Fin 16 × HeadOutcome)) (s : State) : Host.Outcome State Fault Refusal :=
  if headsWf heads then
    match readPlace s with
    | some place =>
      if s.mot.lock = .unlocked then .next (finish (lockGapRowTime place s))
      else
        let rows := goodRows s heads
        let first := !reportedBefore s
        .next (finish (readRowTime rows place first (countRows rows.length place (countUnreadable heads s))))
    | none => .next s
  else .refused .illFormed

/-- The search's examining scan is running (R189). -/
def examining (s : State) : Bool := match s.ord.find with | some f => f.phase = .examining | none => false

/-- The blank run's limit, by what the reading is for: R105, R139, R140, R189, R68, R70, R72. -/
def blankLimit (s : State) : State :=
  if s.cml.rebuild.isSome then (if rebuildLimit s then endScanNow s else s)
  else if s.rdc.blankRun < 2000 then s
  else if s.mot.locate.isSome then failLocate s
  else if examining s then failFind s
  else sessionBlank s

/-- BLANK_RUN_LIMIT (R72). -/
def execBlankRunLimit (s : State) : Host.Outcome State Fault Refusal :=
  .next (if s.mot.state = .streamingRead then finish (blankLimit s) else s)

/-- DECODE_ENTRY (R75). -/
def execDecodeEntry (s : State) : Host.Outcome State Fault Refusal := .next (finish (decodeEntryNow s))

end Sys2Proof.Machine
end

