-- ==== Sys2Proof/Machine/OrderRows.lean ====
section
/-! DEFINITION. The twelve orders (chapter 10): each makes the checks of R179 on the TAKEN order of its kind and begins
its first stage. -/

namespace Sys2Proof.Machine

/-- WRITE (R184). -/
def execWrite (s : State) : Host.Outcome State Fault Refusal := .next (finish (runOrder .write beginWriting s))

/-- MARK (R2, R184). -/
def execMark (s : State) : Host.Outcome State Fault Refusal := .next (finish (runOrder .mark beginWriting s))

/-- FLUSH (R186). -/
def execFlush (s : State) : Host.Outcome State Fault Refusal := .next (finish (runOrder .flush beginFlush s))

/-- READ (R187). -/
def execRead (s : State) : Host.Outcome State Fault Refusal := .next (finish (runOrder .read beginRead s))

/-- SPACE (R190). -/
def execSpace (s : State) : Host.Outcome State Fault Refusal := .next (finish (runOrder .space beginPositioning s))

/-- LOCATE (R189). -/
def execLocate (s : State) : Host.Outcome State Fault Refusal := .next (finish (runOrder .locate beginPositioning s))

/-- REWIND (R191). -/
def execRewind (s : State) : Host.Outcome State Fault Refusal := .next (finish (runOrder .rewind beginPositioning s))

/-- LOAD (R192). -/
def execLoad (s : State) : Host.Outcome State Fault Refusal := .next (finish (runOrder .load beginLoad s))

/-- UNLOAD (R193). -/
def execUnload (s : State) : Host.Outcome State Fault Refusal := .next (finish (runOrder .unload beginUnload s))

/-- TUNE (R194). -/
def execTune (s : State) : Host.Outcome State Fault Refusal := .next (finish (runOrder .tune beginTune s))

/-- REPORT (R195, R196). -/
def execReport (s : State) : Host.Outcome State Fault Refusal := .next (finish (runOrder .report beginReport s))

/-- CHECK (R198, R199). -/
def execCheck (s : State) : Host.Outcome State Fault Refusal := .next (finish (runOrder .check beginCheck s))

end Sys2Proof.Machine
end

