-- ==== Sys2Proof/Machine/Port.lean ====
section
/-! DEFINITION. The commands of the processor port and of the exchange unit: the resets, binding, POST, ABORT, COND, the
quiet timer, window accesses and bursts (chapters 2 and 9). -/

namespace Sys2Proof.Machine

/-- POWER_ON_RESET (R176): every block takes its hard-reset state, MOT's as the sensors give it (R83). -/
def execPowerOnReset (sensors : Sensors) (s : State) : Host.Outcome State Fault Refusal :=
  .next (hardResetState sensors s)

/-- HARD_RESET (R176): the same, made by code 2 written to RESET. -/
def execHardReset (sensors : Sensors) (s : State) : Host.Outcome State Fault Refusal :=
  .next (hardResetState sensors s)

/-- SOFT_RESET (R177). -/
def execSoftReset (s : State) : Host.Outcome State Fault Refusal := .next (finish (softResetState s))

/-- REGISTER_WRITE_IGNORED (R159): nothing changes. A write that is not one of those disregarded is another command. -/
def execRegisterWriteIgnored (addr : Word) (len : AccessLen) (value : Word) (s : State) :
    Host.Outcome State Fault Refusal :=
  if ignoredWrite addr len value then .next s else .refused .illFormed

/-! ### Binding -/

/-- R161: an address that EXBASE takes. -/
def baseOk (a : Nat) : Bool := a % 4096 = 0 && decide (a + exchangeBytes ≤ memoryBytes)

/-- R161: the setup record's reading begun. -/
def beginBinding (a : Nat) (s : State) : State :=
  raiseRead .exu .setupRecord a 512 { s with exu.binding := some ⟨a, none⟩ }

/-- BINDING (R161): a write to EXBASE. -/
def execBinding (value : Word) (s : State) : Host.Outcome State Fault Refusal :=
  .next
    (if s.exu.bind ≠ .unbound then raise .exchangeFault value.toNat 3 0 s
     else if s.exu.binding.isSome then s
     else if baseOk value.toNat then grant (beginBinding value.toNat s)
     else { s with exu.outcome := .baseBad })

/-- R162: the binding fails: SETUP_BAD with the number of the field at fault is to be written into the setup record, and the
binding is over once it is. -/
def setupBad (a fieldNumber : Nat) (s : State) : State :=
  serveFree (queueWork [.outcome a (.setupBad fieldNumber)] { s with exu.binding := some ⟨a, none⟩ })

/-- R24: the frame table built. -/
def buildFrames (base count : Nat) (s : State) : State :=
  { s with bsm.frames := List.replicate count freeFrame, bsm.base := base, bsm.mode := .idle }

/-- R164: EXU's marks and counts at a binding. -/
def bindExu (a firstTicket : Nat) (s : State) : State :=
  let t : Ticket := BitVec.ofNat 16 firstTicket - 1
  { s with
    exu.base := some a, exu.takenMark := t, exu.postMark := t, exu.passedOver := [], exu.active := none,
    exu.count := 0, exu.quietTimer := none, exu.raises := List.replicate 15 0, exu.lastAbort := 0, exu.abortOutcome := 0,
    exu.bind := .bound, exu.binding := none }

/-- R174: one held detail to be written to its cell with a raise count of 1, which is then the condition's. -/
def writeHeld (c : Condition) (d : Option Detail) (s : State) : State :=
  match d with
  | some d => queueWork [.held c d] { s with exu.raises := modifyAt (fun _ => 1) s.exu.raises c.bit }
  | none => s

/-- R164: the held details to be written. -/
def writeHeldAll (s : State) : State :=
  writeHeld .dataDiscarded s.exu.heldDiscarded
    (writeHeld .tapeReady s.exu.heldTapeReady (writeHeld .cartridge s.exu.heldCartridge s))

/-- R156: HCM's restore, if a head history block is present. -/
def restoreIfPresent (h : Option HeadHistory) (s : State) : State :=
  match h with
  | some b => restoreHistory b s
  | none => s

/-- Section 6.1: SPM's last computation is absent until the first sample of the binding. -/
def forgetComputation (s : State) : State :=
  { s with spm.lastSample := none, spm.lastDemand := none, spm.lastChoice := none }

/-- R164: the outcome a binding ends with. -/
def boundOutcome (clamped : Bool) : BindOutcome := if clamped then .boundClamped else .bound

/-- R163, R164: a binding that passes its checks completes, step by step; the outcome field and the cells of the held details are
written through the memory port, and before any cell of a condition that HCM's evaluation raises. HCM's evaluation is made
without a head history block too (log 79). -/
def completeBinding (a : Nat) (r : Setup) (s : State) : State :=
  let named : Named := r.tunables.map some
  let t := applyTunables named r.frames (buildFrames r.storeBase r.frames s)
  let clamped := anyClamped named r.frames s t
  let t := bindExu a r.firstTicket t
  let t := serveFree (writeHeldAll (queueWork [.outcome a (boundOutcome clamped)] t))
  evaluate (restoreIfPresent r.history (forgetComputation t))

/-- SETUP_RECORD_READ (R162): the setup record of the binding in progress has been read. -/
def execSetupRecordRead (s : State) : Host.Outcome State Fault Refusal :=
  match s.exu.binding with
  | some ⟨a, some bytes⟩ =>
    match setupFault a (readSetup bytes) with
    | some n => .next (setupBad a n s)
    | none => .next (finish (completeBinding a (readSetup bytes) s))
  | some ⟨_, none⟩ => .next s
  | none => .next s

/-! ### POST, ABORT, COND, the quiet timer -/

/-- R166: the distance of a value from the taken mark, modulo 65,536. -/
def ticketDistance (s : State) (t : Ticket) : Nat := (t - s.exu.takenMark).toNat

/-- POST (R166): a write to POST. -/
def execPost (value : Word) (s : State) : Host.Outcome State Fault Refusal :=
  let p : Ticket := value.setWidth 16
  .next
    (if s.exu.bind = .unbound then s
     else if 16 < ticketDistance s p then raise .exchangeFault value.toNat 1 0 s
     else lookForOrder { s with exu.postMark := p, exu.bind := .bound })

/-- QUIET_TIMER_EXPIRY (R172). -/
def execQuietTimerExpiry (s : State) : Host.Outcome State Fault Refusal :=
  .next
    (if !expired s.exu.quietTimer s then s
     else if s.exu.count = 0 then { s with exu.quietTimer := none }
     else raiseCompletions s)

/-- COND (R173): a write to COND. -/
def execCond (value : Word) (s : State) : Host.Outcome State Fault Refusal :=
  .next { s with exu.cond := s.exu.cond &&& ~~~(value.setWidth 15) }

/-- R170: the kind of the TAKEN order, when ticket `t` is its own and it is abortable. -/
def abortableKind (s : State) (t : Ticket) : Option Kind :=
  match s.exu.active with
  | some (_, u) => if u = t then (takenKind s).filter abortable else none
  | none => none

/-- R170: the ticket lies within 1..16 ahead of the taken mark. -/
def aheadOfTaken (s : State) (t : Ticket) : Bool := decide (1 ≤ ticketDistance s t) && decide (ticketDistance s t ≤ 16)

/-- R170: the slots are to be read for an abort. A look in hand that has not yet TAKEN an order begins again behind it, so that
the abort is first of the two (R171, log 6). -/
def queueAbort (t : Ticket) (s : State) : State :=
  let u := { s with exu.work := s.exu.work.filter (fun w => !w.looks) ++ [.scan .abort t 0 []] }
  if s.exu.work.any ExuWork.looks then queueWork (lookWork u) u else u

/-- R170: the first case of the table that holds; whether slots are POSTED with the ticket shows once they are read. -/
def abortTicket (t : Ticket) (s : State) : State :=
  match abortableKind s t with
  | some k => abortTaken k { s with exu.abortOutcome := 1 }
  | none => serveFree (if aheadOfTaken s t then queueAbort t s else abortUnmatched t s)

/-- ABORT (R170): a write to ABORT. -/
def execAbort (value : Word) (s : State) : Host.Outcome State Fault Refusal :=
  .next
    (if s.exu.bind = .unbound then s
     else finish (abortTicket (value.setWidth 16) { s with exu.lastAbort := value.setWidth 16 }))

/-! ### The window and the memory port -/

/-- WINDOW_ACCESS (R26): an access below 1 GiB is raised through PROC and done at its grant; a register is read at
once (R159). Below 1 GiB, an access that runs past the last byte has no meaning. -/
def execWindowAccess (addr : Word) (len : AccessLen) (w : Option Word) (s : State) : Host.Outcome State Fault Refusal :=
  if addr.toNat < memoryBytes then
    if memoryBytes < addr.toNat + len.bytes then .fault .outsideMemory
    else
      match w with
      | none => .next (grant (raiseRead .proc .windowRead addr.toNat len.bytes s))
      | some v => .next (grant (raiseWrite .proc .windowWrite addr.toNat (toBytes len.bytes v.toNat) s))
  else
    match w with
    | none => .next { s with portRead := some (registerRead s addr.toNat len) }
    | some _ => .refused .illFormed

/-- R26: a window read has its bytes. -/
def windowReadDone (bytes : List Byte) (s : State) : State :=
  { s with portRead := some (BitVec.ofNat 32 (fromBytes bytes)) }

/-- R161: the setup record has been read. -/
def setupBytesRead (bytes : List Byte) (s : State) : State :=
  { s with exu.binding := s.exu.binding.map (fun b => { b with bytes := some bytes }) }

/-- R75: the stored bytes of the entry at DCP's cursor have been read. -/
def storedBytesRead (bytes : List Byte) (s : State) : State := { s with dcp.stored := bytes, dcp.phase := .ready }

/-- What follows the last burst of a transfer (R38). -/
def transferDone (t : Transfer) (s : State) : State :=
  match t.purpose with
  | .setupRecord => setupBytesRead t.data s
  | .reportRecord => reportWritten s
  | .windowRead => windowReadDone t.data s
  | .windowWrite => s
  | .chunkIn => prepareChunk t.data s
  | .chunkOut => s
  | .headerOut => sealDone s
  | .rowFetch => rowFetched t.data s
  | .rowStore => rowStored s
  | .rowRestore b => rowRestored b s
  | .headerIn => headerRead s
  | .entryIn => storedBytesRead t.data s
  | .deliver => entryDelivered s
  | .loopChunkIn | .loopChunkOut | .loopHeaderOut | .loopRowOut | .loopRowIn | .loopHeaderIn | .loopEntryIn
  | .loopDeliver | .loopSource | .loopDestination => loopTransferDone t.purpose t.data s

/-- R1: the intake cursor counts the bytes of its chunk as they are read. -/
def countIntake (t : Transfer) (n : Nat) (s : State) : State := if t.purpose = .chunkIn then advanceByte n s else s

/-- R26: what a window write changes in a frame's header rows. -/
def countWindow (t : Transfer) (n : Nat) (s : State) : State :=
  if t.purpose = .windowWrite then tamperHeader t.addr (t.data.take n) s else s

/-- R38: a burst of `n` bytes of a transfer moved; the transfer goes on, or is complete. -/
def moveBurst (t : Transfer) (n : Nat) (s : State) : State :=
  let t' := advanceTransfer s.mem n t
  let rest := replaceTransfer t.who (if t'.left = 0 then none else some t') s.marb.transfers
  let s := countWindow t n (countIntake t n { s with mem := burstMemory s.mem n t, marb.transfers := rest })
  if t'.left = 0 then transferDone t' s else s

/-- The burst in progress ends; one that serves nothing moves nothing (log 7). -/
def endBurst (b : Burst) (s : State) : State :=
  let s := { s with marb.burst := none }
  match transferOf s b.who with
  | some t => if b.len = 0 then s else moveBurst t b.len s
  | none => s

/-- BURST_DONE (R38). -/
def execBurstDone (s : State) : Host.Outcome State Fault Refusal :=
  match s.marb.burst with
  | some b => .next (finish (endBurst b s))
  | none => .next s

end Sys2Proof.Machine
end

