-- ==== Sys2Proof/Machine/Dispatch.lean ====
section
/-! DEFINITION. The meaning of each command: one arm per constructor of Instr. -/

namespace Sys2Proof.Machine

def exec (i : Instr) (s : State) : Host.Outcome State Fault Refusal :=
  match i with
  | .powerOnReset sensors => Sys2Proof.Machine.execPowerOnReset sensors s
  | .hardReset sensors => Sys2Proof.Machine.execHardReset sensors s
  | .softReset => Sys2Proof.Machine.execSoftReset s
  | .registerWriteIgnored addr len value => Sys2Proof.Machine.execRegisterWriteIgnored addr len value s
  | .binding value => Sys2Proof.Machine.execBinding value s
  | .setupRecordRead => Sys2Proof.Machine.execSetupRecordRead s
  | .post value => Sys2Proof.Machine.execPost value s
  | .quietTimerExpiry => Sys2Proof.Machine.execQuietTimerExpiry s
  | .cond value => Sys2Proof.Machine.execCond value s
  | .abort value => Sys2Proof.Machine.execAbort value s
  | .windowAccess addr len w => Sys2Proof.Machine.execWindowAccess addr len w s
  | .burstDone => Sys2Proof.Machine.execBurstDone s
  | .write => Sys2Proof.Machine.execWrite s
  | .mark => Sys2Proof.Machine.execMark s
  | .flush => Sys2Proof.Machine.execFlush s
  | .read => Sys2Proof.Machine.execRead s
  | .space => Sys2Proof.Machine.execSpace s
  | .locate => Sys2Proof.Machine.execLocate s
  | .rewind => Sys2Proof.Machine.execRewind s
  | .load => Sys2Proof.Machine.execLoad s
  | .unload => Sys2Proof.Machine.execUnload s
  | .tune => Sys2Proof.Machine.execTune s
  | .report => Sys2Proof.Machine.execReport s
  | .check => Sys2Proof.Machine.execCheck s
  | .chunkCommit => Sys2Proof.Machine.execChunkCommit s
  | .idleTimerExpiry => Sys2Proof.Machine.execIdleTimerExpiry s
  | .rowTimeBoundary => Sys2Proof.Machine.execRowTimeBoundary s
  | .verifyResult result => Sys2Proof.Machine.execVerifyResult result s
  | .readHeadOutcome heads => Sys2Proof.Machine.execReadHeadOutcome heads s
  | .blankRunLimit => Sys2Proof.Machine.execBlankRunLimit s
  | .decodeEntry => Sys2Proof.Machine.execDecodeEntry s
  | .servoFrame good => Sys2Proof.Machine.execServoFrame good s
  | .lockLimitTimerExpiry => Sys2Proof.Machine.execLockLimitTimerExpiry s
  | .cartridgeSeated tab => Sys2Proof.Machine.execCartridgeSeated tab s
  | .cartridgeRemoved => Sys2Proof.Machine.execCartridgeRemoved s
  | .leaderCaptured => Sys2Proof.Machine.execLeaderCaptured s
  | .captureTimerExpiry => Sys2Proof.Machine.execCaptureTimerExpiry s
  | .leaderAttached => Sys2Proof.Machine.execLeaderAttached s
  | .pathTimerExpiry => Sys2Proof.Machine.execPathTimerExpiry s
  | .workingTension g => Sys2Proof.Machine.execWorkingTension g s
  | .leaderHome => Sys2Proof.Machine.execLeaderHome s
  | .unthreadTimerExpiry => Sys2Proof.Machine.execUnthreadTimerExpiry s
  | .tensionFault => Sys2Proof.Machine.execTensionFault s
  | .dwellTimerExpiry => Sys2Proof.Machine.execDwellTimerExpiry s
  | .tapeAtRest => Sys2Proof.Machine.execTapeAtRest s
  | .runUpPointReached => Sys2Proof.Machine.execRunUpPointReached s
  | .travelArrival => Sys2Proof.Machine.execTravelArrival s
  | .turnDone => Sys2Proof.Machine.execTurnDone s
  | .botSensor => Sys2Proof.Machine.execBotSensor s
  | .cmAnswer reply => Sys2Proof.Machine.execCmAnswer reply s
  | .cmAttemptTimeout => Sys2Proof.Machine.execCmAttemptTimeout s
  | .motionSecond => Sys2Proof.Machine.execMotionSecond s

end Sys2Proof.Machine
end

