-- ==== Sys2Proof/Safety.lean ====
section
/-! DEFINITION. What statements about runs are made of: the structural soundness that every step keeps, the states in
which no block has work of its own to go on with, and the states in which a TAKEN order can be spoken of alone. -/

namespace Sys2Proof.Machine

/-! ### Structural soundness -/

/-- Chapter 8: sixteen channels; N counts the ACTIVE ones and is never below 12 (R151, R152); scores saturate at 65,535
(R145); the thresholds lie in their ranges, the score thresholds in their order (R144). -/
abbrev HeadCareSound (h : Hcm) : Prop :=
  h.channels.length = 16 ∧ h.n = activeCount h.channels ∧ 12 ≤ h.n ∧ (∀ c ∈ h.channels, c.score ≤ 65535)
    ∧ h.advise ≤ h.require ∧ h.require ≤ h.retire ∧ h.retire ≤ 65535
    ∧ 256 ≤ h.advise ∧ h.advise ≤ 32768 ∧ h.require ≤ 49152 ∧ 3600 ≤ h.hours ∧ h.hours ≤ 1800000

/-- Chapters 5 and 6: the speed table holds six entries of 8,192 to 262,144, strictly ascending (R112), and the current
speed, the next speed and the lower vote name entries of it. -/
abbrev SpeedSound (table : List Nat) (speed next : Nat) (vote : Option Nat) : Prop :=
  table.length = 6 ∧ (∀ v ∈ table, 8192 ≤ v ∧ v ≤ 262144) ∧ tableAscends table = true
    ∧ speed ≤ 5 ∧ next ≤ 5 ∧ vote.getD 0 ≤ 5

/-- R91: the count of in-tolerance frames that each lock level allows. -/
abbrev LockSound (level : LockLevel) (count : Nat) : Prop :=
  (level = .unlocked → count < 32) ∧ (level = .settled → 32 ≤ count ∧ count < 64) ∧ (level = .locked → count = 64)

/-- Chapters 3 and 4: the out-buffer, with the row being read for it, and the in-buffer hold at most 8 rows (R43, R64);
the blank run ends at 2,000 row times (R63). -/
abbrev BuffersSound (out : List OutRow) (reading : Option OutRow) (inBuffer : List InRow) (blankRun : Nat) : Prop :=
  out.length + reading.toList.length ≤ 8 ∧ inBuffer.length ≤ 8 ∧ blankRun ≤ 2000

/-- R38: the last grants of the two groups name requesters of those groups. -/
abbrev GrantsSound (lastTape lastGeneral : Requester) : Prop :=
  lastTape.group = .tape ∧ lastGeneral.group = .general

/-- R27, R33: at most one frame is OPEN, and the store never holds write-mode frames and read-mode frames at the same time:
it is IDLE with every frame FREE, or holds frames of its mode alone. -/
structure StoreSound (frames : List Frame) (mode : StoreMode) : Prop where
  oneOpen : frames.countP (fun f => f.state = .opened) ≤ 1
  idle    : mode = .idle → ∀ f ∈ frames, f.state = .free
  write   : mode = .write → ∀ f ∈ frames, f.state.readMode = false
  read    : mode = .read → ∀ f ∈ frames, f.state.writeMode = false

/-- The parts of structural soundness. -/
structure SoundParts (mem : Memory) (h : Hcm) (table : List Nat) (speed next : Nat) (vote : Option Nat)
    (level : LockLevel) (count : Nat) (out : List OutRow) (reading : Option OutRow) (inBuffer : List InRow)
    (blankRun : Nat) (lastTape lastGeneral : Requester) (frames : List Frame) (mode : StoreMode) : Prop where
  memory  : Memory.wf mem = true
  head    : HeadCareSound h
  speeds  : SpeedSound table speed next vote
  lock    : LockSound level count
  buffers : BuffersSound out reading inBuffer blankRun
  grants  : GrantsSound lastTape lastGeneral
  store   : StoreSound frames mode

/-- A state is structurally sound: buffer memory is in its canonical form, and the head care monitor, the speed matcher,
the speed lock, the row buffers, the arbiter's last grants and the bundle store hold what their chapters allow. -/
abbrev Sound (s : State) : Prop :=
  SoundParts s.mem s.hcm s.spm.table s.mot.speed s.spm.next s.spm.vote s.mot.lock s.mot.lockCount s.fmt.outBuffer
    s.fmt.reading s.rdc.inBuffer s.rdc.blankRun s.marb.lastTape s.marb.lastGeneral s.bsm.frames s.bsm.mode

/-! ### Blocks at rest -/

/-- FMT has no row to place by itself, and no restart to make again: it is STOPPED or HELD; or EMITTING with work left, the
tape not left standing, and no row that may be placed now; or it waits for the verify window to empty. -/
def fmtPlacesNone (s : State) : Prop :=
  s.fmt.phase = .stopped ∨ s.fmt.phase = .held
    ∨ (s.fmt.phase = .emitting ∧ emissionWork s.fmt = true ∧ tapeStands s.mot = false
        ∧ (s.fmt.slots = [] ∨ s.fmt.outBuffer = [] ∨ s.mot.state ≠ .streamingWrite ∨ s.mot.lock ≠ .locked))
    ∨ (s.fmt.phase = .drainingWindow ∧ emissionWork s.fmt = false ∧ s.fmt.window ≠ [])

/-- FMT has no row to begin to read: no bundle is being written, the phase is HELD, the out-buffer is full, a row is being
read already, or nothing is left to read. -/
def fmtReadsNone (s : State) : Prop :=
  s.bsm.mode ≠ .write ∨ s.fmt.phase = .held ∨ 8 ≤ s.fmt.outBuffer.length ∨ s.fmt.reading.isSome = true
    ∨ (s.fmt.cursor = none ∧ ∀ e ∈ s.fmt.rewrites, e.sent = true)

/-- FMT does nothing by itself. -/
def fmtAtRest (s : State) : Prop := fmtPlacesNone s ∧ fmtReadsNone s

/-- A read session with no bundle in hand, before the end of the data. -/
def sessionEmpty (s : State) : Prop :=
  s.rdc.phase = .reading ∧ s.rdc.assemblies = [] ∧ s.rdc.recovery = none ∧ nextBundle s < eodBundle s

/-- A session that is over, or that an emergency stop holds, with no bundle whose rows are all present, and, but in the stop, none
that is closing or closes as the frontier stands (R67, R71, R89). -/
def sessionRests (s : State) : Prop :=
  (s.rdc.phase.active = false ∨ s.mot.state = .faultHeld)
    ∧ ∀ a ∈ s.rdc.assemblies, allPresent a = false
        ∧ (s.mot.state = .faultHeld ∨ (a.closing = false ∧ closes (s.rdc.frontier.getD 0) a = false))

/-- RDC does nothing by itself: no session, or one at rest or with no bundle in hand; and no row that waits to be stored. -/
def rdcAtRest (s : State) : Prop :=
  (s.rdc.phase = .none ∨ sessionRests s ∨ sessionEmpty s)
    ∧ (s.rdc.inBuffer = [] ∨ transferInHand s .rowStore = true)

/-- DCP waits for a bundle that is not yet DECODED. -/
def dcpWaits (s : State) : Prop :=
  s.dcp.waiting = true ∧ s.dcp.frame = none ∧ nothingLeft s = false
    ∧ ∃ b, s.dcp.next = some b ∧ decodedFrame s b = none ∧ endedAt s b = false ∧ failedAt s b = false

/-- DCP does nothing by itself: it has something in hand, or no work to go on with, or waits for a bundle. -/
def dcpAtRest (s : State) : Prop :=
  s.dcp.phase ≠ .idle ∨ (delivering s = false ∧ readingBack s = false) ∨ (readingBack s = false ∧ dcpWaits s)

/-- No memory stage of a LOAD or UNLOAD waits to begin its access. -/
def cmlAtRest (s : State) : Prop :=
  s.cml.access.isSome = true ∨ (atStage s .load .loadMemory = false ∧ atStage s .unload .unloadMemory = false)

/-- Nothing in the part goes on by itself: what follows an event is the grant of the memory port alone. -/
structure Calm (s : State) : Prop where
  sig : s.sig = []
  fmt : fmtAtRest s
  rdc : rdcAtRest s
  dcp : dcpAtRest s
  cml : cmlAtRest s

/-- No request is raised at the memory port, by a transfer or by EXU for the exchange area, and no burst runs. -/
def portAtRest (s : State) : Prop := s.marb.transfers = [] ∧ s.marb.burst = none ∧ s.exu.work = []

/-- No request waits at a free memory port: a burst runs, or the port is at rest (R38). -/
def portSettled (s : State) : Prop := s.marb.burst.isSome = true ∨ portAtRest s

/-- No signal is in flight and no block goes on by itself. -/
def Steady (s : State) : Prop := s.sig = [] ∧ proceed s = s

/-- A calm state with the memory port at rest, no order TAKEN and no order posted. -/
structure Quiet (s : State) : Prop extends Calm s where
  port     : portAtRest s
  record   : s.ord.record = none
  noSearch : s.ord.find = none

/-- Nothing is in hand but what MOT and the cartridge do: no order TAKEN, FMT STOPPED with no row to read, no read session,
no transfer and no burst. What MOT does next changes none of this. -/
structure Idle (s : State) : Prop where
  sig      : s.sig = []
  stopped  : s.fmt.phase = .stopped
  noFetch  : fmtReadsNone s
  session  : s.rdc.phase = .none
  noRow    : s.rdc.inBuffer = []
  decoder  : s.dcp.phase = .idle
  noAppend : s.ord.append = none
  record   : s.ord.record = none
  noSearch : s.ord.find = none
  port     : portAtRest s

/-- The store is IDLE with every frame FREE, and no read session stands. -/
structure StoreAtRest (s : State) : Prop where
  mode    : s.bsm.mode = .idle
  frames  : ∀ f ∈ s.bsm.frames, f.state = .free
  sealing : s.cmp.sealing = none
  session : s.rdc.phase = .none
  resume  : s.rdc.resumeAt = none
  next    : s.dcp.next = none

/-! ### Orders and the memory port -/

/-- The command of an order kind. -/
def orderCommand : Kind → Instr
  | .write => .write | .mark => .mark | .flush => .flush | .read => .read | .space => .space | .locate => .locate
  | .rewind => .rewind | .load => .load | .unload => .unload | .tune => .tune | .report => .report | .check => .check

/-- An order of this kind has been taken and not yet checked (R178, R179). -/
structure OrderTaken (k : Kind) (r : OrderRec) (s : State) : Prop where
  record : s.ord.record = some r
  kind   : kindOfCode r.kind = some k
  stage  : s.ord.stage = .checking

/-- An order of this kind has been taken, and the checks of R179 pass. -/
structure OrderPasses (k : Kind) (r : OrderRec) (s : State) : Prop extends OrderTaken k r s where
  noDeferred : meetsDeferred s k = none
  checks     : takeFault s r k = none

/-- Frame `i` is the lowest-numbered FREE one (R28). -/
def LowestFree (i : Nat) (s : State) : Prop :=
  (∃ f, s.bsm.frames[i]? = some f ∧ f.state = .free) ∧ ∀ j f, j < i → s.bsm.frames[j]? = some f → f.state ≠ .free

/-- A bundle opened in frame `i` for CMP: the frame is OPEN for the bundle one past the highest sealed, CMP's values are those
of a new bundle, and out of another mode a write session begins, of FMT and of SPM (R3, R28, R33, R59, R114). -/
def bundleOpened (i : Nat) (s : State) : State :=
  { s with
    bsm.frames := s.bsm.frames.set i ⟨.opened, some s.bsm.sealedThrough, some 0, none, []⟩, bsm.mode := .write
    cmp.history := [], cmp.table := [], cmp.index := [], cmp.payloadFill := 0, cmp.rawCount := 0
    fmt := if s.bsm.mode = .write then s.fmt else (beginFmtSession (endPosition s) s).fmt
    spm := (beginWriteSession s).spm }

/-- The header of a seal of the open bundle, with the index and the payload bytes it then has (R15). -/
def sealedHeader (cause : SealCause) (ix : List IndexEntry) (used : Nat) (s : State) : BundleHeader :=
  { bundle := s.bsm.sealedThrough, copy := 0, identity := s.cml.copy.bind (fun c => c.identity),
    firstObject := (ix.head?.map (fun e => e.object)).getD 0, entryCount := ix.length, payloadUsed := used, cause := cause,
    wrap := none }

/-- A seal of the bundle open in frame `i` has begun, with an index and the payload bytes used: its header and index are being
written into rows 0 and 1 of the frame through CMP_OUT, and CMP's values are those of a new bundle (R15, R29). -/
structure SealBegun (cause : SealCause) (i : Nat) (ix : List IndexEntry) (used : Nat) (again : Bool) (s t : State) : Prop where
  sealing : t.cmp.sealing = some ⟨sealedHeader cause ix used s, ix, false, again⟩ ∧ t.cmp.idleTimer = none
  emptied : t.cmp.history = [] ∧ t.cmp.table = [] ∧ t.cmp.index = [] ∧ t.cmp.payloadFill = 0 ∧ t.cmp.rawCount = 0
  frame   : ∀ f, s.bsm.frames[i]? = some f →
    t.bsm = { s.bsm with frames := s.bsm.frames.set i { f with header := some (sealedHeader cause ix used s), index := ix } }
  write   : ⟨.cmpOut, .headerOut, true, s.bsm.base + i * 1114112, 32768, headerRows (sealedHeader cause ix used s) ix⟩
    ∈ t.marb.transfers

/-- A search for the bundle holding an object has begun (R189): the estimated bundle of R136 is being located, 200 row times
before its estimated place, with the tape STARTING there or travelling to it; SPM's session is ended. -/
structure SearchBegun (target : Nat) (s t : State) : Prop where
  find    : t.ord.find = some ⟨target, estimateBundle s target, 0, .locating, none, [], none, none⟩
  locate  : t.mot.locate = some ⟨estimateBundle s target, (estimatePlace s (estimateBundle s target)).1,
              serpentine s (estimatePlace s (estimateBundle s target)).1 ((estimatePlace s (estimateBundle s target)).2 - 200),
              0, .approaching⟩
  motion  : t.mot.state = .starting ∨ t.mot.state = .travel
  session : t.spm.session = .none
  order   : t.ord.record = s.ord.record ∧ t.ord.position = s.ord.position
  kept    : t.mem = s.mem ∧ t.exu = s.exu ∧ t.bsm = s.bsm ∧ t.cmp = s.cmp ∧ t.cml = s.cml

/-- MOT has made an emergency stop (R88, R89, R92): FAULT_HELD with the leader ON_REEL and nothing of the motion kept;
MOTION_FAULT raised with a detail and what was sensed; FMT HELD if write work stands (R55). -/
structure EmergencyStopped (detail sensed : Nat) (s t : State) : Prop where
  state    : t.mot.state = .faultHeld ∧ t.mot.leader = .onReel ∧ t.mot.tension = .off ∧ t.mot.pos = none
  released : t.mot.splice = none ∧ t.mot.held = none ∧ t.mot.locate = none
  lock     : t.mot.lock = .unlocked ∧ t.mot.lockCount = 0
  timers   : t.mot.limitTimer = none ∧ t.mot.dwellTimer = none
  counted  : t.mot.motionFaults = min (s.mot.motionFaults + 1) 4294967295
  raised   : t.exu = (raise .motionFault 0 detail sensed s).exu ∧ t.mem = (raise .motionFault 0 detail sensed s).mem
  fmt      : t.fmt.phase = (if holdsWriteFrames s then .held else .stopped)
  kept     : t.bsm = s.bsm ∧ t.ord = s.ord ∧ t.mot.speed = s.mot.speed

/-- A row time of STREAMING_WRITE has begun at a position (R42, R96): one slot for each ACTIVE channel, ascending; on the last
wrap, from the early-warning position on, the crossing is reported once for each entry into the state, and EARLY_WARNING
raised at the first report (R60). -/
structure RowTimeOffered (reported : Bool) (p : Pos) (s t : State) : Prop where
  heads     : t.mot.state = .streamingWrite ∧ t.mot.pos = some p ∧ t.writeHeads = []
  ascending : t.fmt.slots.Pairwise (· < ·)
  slots     : ∀ c : Nat, c ∈ t.fmt.slots ↔ (s.hcm.channels[c]?).any (fun x => x.active) = true
  crossed   : reported = false → p.wrap + 1 = (geometry s).wraps →
    min ((geometry s).length - (geometry s).margin) ((geometry s).length - 1) ≤ p.index →
      t.mot.ewReported = true ∧ t.fmt.ewFlag = true
        ∧ t.exu = (if s.fmt.ewFlag then s else raise .earlyWarning s.fmt.lastPlaced 0 0 s).exu
        ∧ t.mem = (if s.fmt.ewFlag then s else raise .earlyWarning s.fmt.lastPlaced 0 0 s).mem
  uncrossed : reported = true ∨ p.wrap + 1 ≠ (geometry s).wraps
      ∨ p.index < min ((geometry s).length - (geometry s).margin) ((geometry s).length - 1) →
        t.mot.ewReported = reported ∧ t.fmt.ewFlag = s.fmt.ewFlag ∧ t.exu = s.exu ∧ t.mem = s.mem

/-- The tape streams for writing within a wrap, at LOCKED, with no early-warning crossing to report; FMT emits and reads a row,
and the port serves a burst: at the next row time FMT has its out-buffer to place and nothing else to go on with. -/
structure Emits (p : Pos) (s : State) : Prop where
  sig     : s.sig = []
  heads   : s.mot.state = .streamingWrite ∧ s.mot.pos = some p ∧ s.mot.runOn = .none ∧ s.mot.lock = .locked
  inWrap  : p.index + 1 < wrapLength s
  warned  : s.mot.ewReported = true ∨ p.wrap + 1 ≠ (geometry s).wraps
  phase   : s.fmt.phase = .emitting ∧ s.fmt.reading.isSome = true
  sixteen : s.hcm.channels.length = 16
  stored  : ∀ r ∈ s.fmt.outBuffer, ∃ i, frameOf s r.bundle = some i
  counts  : s.fmt.rowsPlaced ≤ 4294967295 ∧ s.fmt.rewritesPlaced ≤ 4294967295
  port    : s.marb.burst.isSome = true
  others  : rdcAtRest s ∧ dcpAtRest s ∧ cmlAtRest s

/-- Among rows placed is a row of a bundle at its first emission. -/
def firstEmitted (placed : List (OutRow × Nat)) (b row : Nat) : Bool :=
  placed.any (fun x => x.1.bundle = b && x.1.row = row && x.1.attempt = 1)

/-- Rows have been placed, each with its channel, in a row time: each goes to its channel's write head and joins the verify
window, the rows and rewrites are counted, and the records and frames of their bundles follow (R41, R44, R46). -/
structure RowsPlaced (place : Nat) (placed : List (OutRow × Nat)) (s t : State) : Prop where
  window    : t.fmt.window = s.fmt.window
    ++ placed.map (fun x => ⟨x.1.bundle, x.1.copy, x.1.row, x.2, place, x.1.attempt, false⟩)
  heads     : t.writeHeads.map (fun h => (h.1, h.2.ident.bundle, h.2.ident.copy, h.2.ident.row, h.2.data))
    = placed.map (fun x => (x.2, x.1.bundle, x.1.copy, x.1.row, x.1.data))
  counted   : t.fmt.rowsPlaced = min (s.fmt.rowsPlaced + placed.length) 4294967295
    ∧ t.fmt.rewritesPlaced
        = min (s.fmt.rewritesPlaced + (placed.filter (fun x => x.1.attempt ≠ 1)).length) 4294967295
  begun     : ∀ b, firstEmitted placed b 0 = true →
    t.fmt.placements.find? (fun r => r.bundle = b) = some ⟨b, place, place⟩
      ∧ t.fmt.passMaps.find? (fun m => m.bundle = b) = some ⟨b, []⟩
  goesOn    : ∀ b, firstEmitted placed b 0 = false →
    t.fmt.placements.find? (fun r => r.bundle = b)
        = (s.fmt.placements.find? (fun r => r.bundle = b)).map (fun r =>
            if placed.any (fun x => x.1.bundle = b) then { r with latest := place } else r)
      ∧ t.fmt.passMaps.find? (fun m => m.bundle = b) = s.fmt.passMaps.find? (fun m => m.bundle = b)
  frames    : ∀ i f b, s.bsm.frames[i]? = some f → frameOf s b = some i →
    firstEmitted placed b 0 = false ∨ firstEmitted placed b 71 = false →
      t.bsm.frames[i]? = some { f with
        state := if f.state = .sealed ∧ firstEmitted placed b 0 = true then .writing
          else if f.state = .writing ∧ firstEmitted placed b 71 = true then .pending else f.state }
  untouched : ∀ i f, s.bsm.frames[i]? = some f → (∀ x ∈ placed, frameOf s x.1.bundle ≠ some i) → t.bsm.frames[i]? = some f
  through   : ∀ i f b, s.bsm.frames[i]? = some f → frameOf s b = some i → f.state = .writing →
    firstEmitted placed b 71 = true → (∀ c, c ≠ b → firstEmitted placed c 71 = false) → t.bsm.writtenThrough = b + 1
  notYet    : (∀ b, firstEmitted placed b 71 = false) → t.bsm.writtenThrough = s.bsm.writtenThrough

/-- A verify result that does not pass its row (R48). -/
def ResultFails (x : VerifyOutcome) (s : State) : Prop :=
  x = .notFound ∨ ∃ n : BitVec 8, x = .found n ∧ (s.fmt.threshold < n.toNat ∨ s.mot.lock ≠ .locked)

/-- The result owed next is that of an entry, while FMT emits and reads a row, no row slot is left and a burst runs: FMT has
nothing else to go on with in the step. -/
structure ResultOwed (e : WindowEntry) (rest : List WindowEntry) (s : State) : Prop where
  window  : s.fmt.window = e :: rest
  phase   : s.fmt.phase = .emitting
  slots   : s.fmt.slots = []
  reading : s.fmt.reading.isSome = true
  runOn   : s.mot.runOn = .none
  burst   : s.marb.burst.isSome = true

/-- The failure of a row told to HCM: at LOCKED its channel takes a wear event of a weight, below it is only counted (R49). -/
structure FailureTold (e : WindowEntry) (weight : Nat) (s t : State) : Prop where
  scored   : s.mot.lock = .locked → t.hcm = (wearEvent e.channel weight s).hcm
    ∧ t.fmt.unscoredFailures = s.fmt.unscoredFailures
  unscored : s.mot.lock ≠ .locked → t.hcm = s.hcm
    ∧ t.fmt.unscoredFailures = min (s.fmt.unscoredFailures + 1) 4294967295

/-- A frame that a repeat or a fault of bundle `b` reaches: a row of its bundle, `b` or above, has been emitted (R30). -/
def Begun (b : Nat) (f : Frame) : Prop :=
  (f.state = .writing ∨ f.state = .pending ∨ f.state = .verified) ∧ b ≤ f.bundle.getD 0

/-- What FMT holds of bundles from `b` on is gone: their window entries are dropped, their rows, rewrite entries, pass maps
and placement records taken out (R53, R54). -/
structure DroppedFrom (b : Nat) (rest : List WindowEntry) (s t : State) : Prop where
  window     : t.fmt.window = rest.map (fun e => if b ≤ e.bundle then { e with dropped := true } else e)
  outBuffer  : t.fmt.outBuffer = s.fmt.outBuffer.filter (fun r => r.bundle < b)
  rewrites   : ∀ r ∈ t.fmt.rewrites, r.bundle < b
  passMaps   : t.fmt.passMaps = s.fmt.passMaps.filter (fun m => m.bundle < b)
  placements : t.fmt.placements = s.fmt.placements.filter (fun m => m.bundle < b)

/-- A rebuild reads the tape, with no session, search or locate, and nothing else in hand (R138). -/
structure Rebuilding (r : Rebuild) (p : Pos) (s : State) : Prop extends Calm s where
  port     : portAtRest s
  rebuild  : s.cml.rebuild = some r
  reads    : s.mot.state = .streamingRead ∧ s.mot.pos = some p ∧ s.mot.lock ≠ .unlocked
  noLocate : s.mot.locate = none
  session  : s.rdc.phase = .none
  noSearch : s.ord.find = none
  noAppend : s.ord.append = none

/-- The tape is being brought from STREAMING_READ to a start at a place (R97, R98). -/
structure RestartsAt (place : Nat) (s t : State) : Prop where
  state  : t.mot.state = .stopping ∧ t.mot.afterRest = .runUp
  splice : t.mot.splice = some place ∧ t.mot.held = some (.start (some place) .read)
  lock   : t.mot.lock = .unlocked ∧ t.mot.lockCount = 0 ∧ t.mot.limitTimer = none
  blank  : t.rdc.blankRun = 0 ∧ t.rdc.blankStart = none
  kept   : t.mot.pos = s.mot.pos ∧ t.mem = s.mem ∧ t.exu = s.exu ∧ t.bsm = s.bsm ∧ t.ord = s.ord

/-- The optional part that a rebuild gives the entry of wrap `i`: the differences to the next wrap found; for the last found
those to the EOD values; none beyond (R139, R140). -/
def rebuiltPart (s : State) (found : List (Nat × Nat)) (eodBundle eodObject place i : Nat) : Option DirPart :=
  match found[i]?, found[i + 1]? with
  | some a, some b => some ⟨a.1, b.1 - a.1, a.2, b.2 - a.2, none, wrapLength s⟩
  | some a, none =>
    some ⟨a.1, eodBundle - a.1, a.2, eodObject - a.2, none,
      if (placeOf s place).1 = i then (placeOf s place).2 else wrapLength s⟩
  | none, _ => none

/-- A rebuild is done with these EOD values: the tape map and the directory are set from it, the counters and the position
follow, DIRECTORY_STALE is raised, and the LOAD completes OK with the REBUILT flag (R141). -/
structure RebuildDone (eodBundle eodObject place : Nat) (part : Nat → Option DirPart) (s : State) (q : OrderResult)
    (u : State) : Prop where
  result   : q.status = .ok ∧ q.flags = 2 + 4 * s.ord.discardSeen.toNat ∧ q.c = eodObject ∧ q.d = eodBundle
  cml      : u.cml.state = .loaded ∧ u.cml.rebuilt = true ∧ u.cml.rebuild = none
  port     : portAtRest u
  map      : u.cml.map = some ⟨eodObject, eodBundle, place / wrapLength s, place % wrapLength s⟩
  wraps    : ∀ c, s.cml.copy = some c →
    u.cml.copy = some { c with directory := (List.range c.geometry.wraps).map (fun i => ⟨i, part i⟩) }
  counters : u.bsm.sealedThrough = eodBundle ∧ u.bsm.writtenThrough = eodBundle ∧ u.bsm.verifiedThrough = eodBundle
  position : u.ord.position = 0
  raised   : u.exu = (raise .directoryStale eodBundle ((s.cml.stale.map (fun r => r.code)).getD 0) 0 s).exu
    ∧ u.mem = (raise .directoryStale eodBundle ((s.cml.stale.map (fun r => r.code)).getD 0) 0 s).mem
  motion   : u.mot.state = .stopping ∧ u.mot.lock = .unlocked

/-- Contents of cartridge memory whose identity, type and geometry can be taken (R128, first class). -/
structure FirstClass (c : CmContents) : Prop where
  type     : c.type ≠ none
  wraps    : 8 ≤ c.geometry.wraps ∧ c.geometry.wraps ≤ 64
  length   : 1000 ≤ c.geometry.length ∧ c.geometry.length ≤ 100000
  margin   : c.geometry.margin ≤ 100000
  cleaning : c.type = some .cleaning → 1 ≤ c.passLimit ∧ 1 ≤ c.cleaningLength ∧ c.cleaningLength ≤ 100000

/-- The optional part of the entry of wrap `i` in contents read. -/
def partAt (c : CmContents) (i : Nat) : Option DirPart := (c.directory[i]?).bind (fun e => e.part)

/-- Contents of cartridge memory whose directory and EOD record agree with themselves (R128, second class; R133). -/
structure SecondClass (c : CmContents) : Prop where
  wraps  : c.directory.map (fun e => e.wrap) = List.range c.geometry.wraps
  noGap  : ∀ i j k, i < j → j < k → (partAt c i).isSome = true → (partAt c k).isSome = true → (partAt c j).isSome = true
  follow : ∀ i p q, partAt c i = some p → partAt c (i + 1) = some q →
    q.firstBundle = p.firstBundle + p.bundleCount ∧ q.firstObject = p.firstObject + p.objectCount
  each   : ∀ i p, partAt c i = some p → 1 ≤ p.bundleCount ∧ 1 ≤ p.rowTimes ∧ p.rowTimes ≤ c.geometry.length
  eod    : ∀ i p, partAt c i = some p → partAt c (i + 1) = none →
    c.eod.eodBundle = p.firstBundle + p.bundleCount ∧ c.eod.eodObject = p.firstObject + p.objectCount
  blank  : (∀ i, partAt c i = none) → c.eod.eodBundle = 0 ∧ c.eod.eodObject = 0
  place  : c.eod.endWrap < c.geometry.wraps ∧ c.eod.endIndex < c.geometry.length

/-- The place from which a search for an object would first read lies on the tape. -/
def searchOnTape (s : State) (target : Nat) : Prop :=
  serpentine s (estimatePlace s (estimateBundle s target)).1 ((estimatePlace s (estimateBundle s target)).2 - 200)
    < physicalEnd s

/-! ### What a binding looks at (R24, R112, R156, R162) -/

/-- A speed table entry of a setup record, clamped (R112). -/
def setupSpeed (bytes : List Byte) (i : Nat) : Nat := clamp 8192 262144 (field bytes (72 + 4 * i) 4)

/-- A channel's state in the head history block of a setup record, and how many channels are RETIRED there. -/
def setupChannel (bytes : List Byte) (c : Nat) : Nat := field bytes (160 + c) 1
def setupRetired (bytes : List Byte) : Nat := ((List.range 16).filter (fun c => setupChannel bytes c = 1)).length

/-- The structural check that names a field of the setup record fails, the exchange area lying at `a`: 3 the store base, 4 the
frame count, 19 to 23 a speed not above the one before, 26 the channel states, 27 the clean call, 28 the worn flag, 29 the fence
flag. -/
def CheckFails (a : Nat) (bytes : List Byte) (n : Nat) : Prop :=
  let base := field bytes 12 4
  let frames := field bytes 16 4
  (n = 3 ∧ (base % 4096 ≠ 0 ∨ 1073741824 < base + frames * 1114112
      ∨ ∃ x, base ≤ x ∧ x < base + frames * 1114112 ∧ a ≤ x ∧ x < a + 8192))
    ∨ (n = 4 ∧ (frames < 8 ∨ 128 < frames))
    ∨ (19 ≤ n ∧ n ≤ 23 ∧ setupSpeed bytes (n - 18) ≤ setupSpeed bytes (n - 19))
    ∨ (field bytes 96 4 ≠ 0 ∧
        ((n = 26 ∧ ((∃ c, c < 16 ∧ 1 < setupChannel bytes c) ∨ 4 < setupRetired bytes))
          ∨ (n = 27 ∧ 2 < field bytes 176 1) ∨ (n = 28 ∧ 1 < field bytes 177 1)
          ∨ (n = 29 ∧ (1 < field bytes 178 1 ∨ (field bytes 178 1 = 1 ∧ setupRetired bytes < 4)))))

/-- The first check that fails names field `n`; they are made in the order of the field numbers. -/
def SetupAtFault (a : Nat) (bytes : List Byte) (n : Nat) : Prop := CheckFails a bytes n ∧ ∀ m, m < n → ¬CheckFails a bytes m

/-- HCM as a binding leaves it before its evaluation: a head history block present takes the place of its scores, states, call,
flags, motion seconds and bundles, and the record's thresholds are taken (R144, R156). -/
def setupHead (bytes : List Byte) (h : Hcm) : Hcm :=
  let v := fun j => field bytes (20 + 4 * j) 4
  let advise := clamp 256 32768 (v 6)
  let require := max advise (min 49152 (v 7))
  let h := { h with advise := advise, require := require, retire := max require (min 65535 (v 8)),
                    hours := clamp 3600 1800000 (v 9) }
  if field bytes 96 4 = 0 then h
  else
    let channels := (List.range 16).map (fun c => ⟨field bytes (128 + 2 * c) 2, decide (setupChannel bytes c = 0)⟩)
    { h with channels := channels, n := activeCount channels,
             call := if field bytes 176 1 = 0 then .none else if field bytes 176 1 = 1 then .advised else .required,
             worn := decide (field bytes 177 1 = 1), fence := decide (field bytes 178 1 = 1),
             seconds := field bytes 180 4, bundles := field bytes 184 4 }

/-- The 16 bytes of a detail cell raised once. -/
def firstCell (d : Detail) : List Byte :=
  toBytes 4 d.a ++ toBytes 2 d.b ++ toBytes 2 d.c ++ toBytes 4 d.time.toNat ++ [1, 0, 0, 0]

/-! ### What the take-time checks look at (R179, R18, R25) -/

/-- The count and body fields are in range for the kind. -/
def BodyPasses (k : Kind) (r : OrderRec) : Prop :=
  match k with
  | .write | .read =>
    1 ≤ r.count ∧ r.count ≤ 16
      ∧ ∀ i, i < r.count → 1 ≤ bodyField r (20 + 8 * i) 4 ∧ bodyField r (20 + 8 * i) 4 ≤ 16777216
  | .mark => 1 ≤ r.count ∧ r.count ≤ 255
  | .space => bodyField r 16 4 ≠ 2147483648 ∧ bodyField r 20 1 ≤ 1
  | .locate => bodyField r 20 1 ≤ 1
  | .check =>
    1 ≤ bodyField r 20 4 ∧ bodyField r 20 4 ≤ 1048576 ∧ 1 ≤ bodyField r 28 4 ∧ bodyField r 28 4 ≤ 1048576
  | .flush | .rewind | .load | .unload | .tune | .report => True

/-- The extents an order names, each a start address and a length. -/
def orderExtents (k : Kind) (r : OrderRec) : List (Nat × Nat) :=
  match k with
  | .write | .read => (List.range r.count).map (fun i => (bodyField r (16 + 8 * i) 4, bodyField r (20 + 8 * i) 4))
  | .report => [(bodyField r 16 4, 1536)]
  | .check => [(bodyField r 16 4, bodyField r 20 4), (bodyField r 24 4, bodyField r 28 4)]
  | .mark | .flush | .space | .locate | .rewind | .load | .unload | .tune => []

/-- An extent lies within memory, and none of its bytes in the exchange area or the store. -/
def ExtentFree (s : State) (e : Nat × Nat) : Prop :=
  e.1 + e.2 ≤ 1073741824
    ∧ ∀ x, e.1 ≤ x → x < e.1 + e.2 →
        ¬(exchangeBase s ≤ x ∧ x < exchangeBase s + 8192)
          ∧ ¬(s.bsm.base ≤ x ∧ x < s.bsm.base + s.bsm.frames.length * 1114112)

/-- The kinds that need a loaded data tape: a FLUSH only while the store holds write-mode frames. -/
def NeedsTape (k : Kind) (s : State) : Prop :=
  k ∈ [.write, .mark, .read, .space, .locate, .rewind] ∨ (k = .flush ∧ ∃ f ∈ s.bsm.frames, f.state.writeMode = true)

/-! ### The report record -/

/-- The 4-byte fields of the report record, each with its offset (10.9.7), as they are of a state (R196). -/
def reportFields (s : State) : List (Nat × Nat) :=
  let m := s.mot
  let h := s.hcm
  let f := s.fmt
  let absent := 4294967295
  [(0, 69656), (4, s.timebase.toNat), (8, s.exu.takenMark.toNat), (12, s.exu.postMark.toNat), (16, s.ord.position),
   (20, (s.ord.deferred.map (fun d => d.1)).getD absent),
   (24, (s.ord.deferred.map (fun d => match d.2 with | .rowFailure => 0 | .endOfMedia => 1)).getD absent),
   (28, (s.cml.map.map (fun x => x.eodObject)).getD absent), (32, (s.cml.map.map (fun x => x.eodBundle)).getD absent),
   (36, s.cml.state.code), (40, cartTypeCode s),
   (44, ((identityOf s).map (fun i => i.toNat % 4294967296)).getD absent),
   (48, ((identityOf s).map (fun i => i.toNat / 4294967296)).getD absent),
   (52, if s.cml.readable then (s.cml.copy.map (fun c => c.loadCount)).getD absent else absent),
   (56, (s.cml.stale.map (fun x => match x with | .dirty => 0 | .inconsistent => 1 | .unreadable => 2)).getD absent),
   (60, s.cml.rebuilt.toNat),
   (64, m.state.code), (68, m.leader.code), (72, (m.pos.map (fun p => p.wrap)).getD absent),
   (76, (m.pos.map (fun p => p.index)).getD absent), (80, (m.pos.map (fun p => p.dir.code)).getD absent), (84, m.speed),
   (88, m.lock.code), (92, m.lockCount), (96, m.tension.code), (100, m.tab.toNat), (104, m.motionTime),
   (108, (s.cml.map.map (fun x => x.endWrap)).getD absent), (112, (s.cml.map.map (fun x => x.endIndex)).getD absent),
   (128, s.bsm.mode.code), (132, s.bsm.frames.length), (136, frameCount s .free), (140, frameCount s .opened),
   (144, frameCount s .sealed), (148, frameCount s .writing), (152, frameCount s .pending),
   (156, frameCount s .verified), (160, frameCount s .filling), (164, frameCount s .decoded),
   (168, frameCount s .draining), (172, s.bsm.sealedThrough), (176, s.bsm.writtenThrough), (180, s.bsm.verifiedThrough),
   (192, s.spm.session.code), (196, s.spm.rate), (200, s.spm.vote.getD absent), (204, s.spm.next),
   (208, s.spm.lastSample.getD absent), (212, s.spm.lastDemand.getD absent), (216, s.spm.lastChoice.getD absent),
   (308, h.seconds), (312, h.bundles),
   (320, h.h), (324, h.n), (328, h.advise), (332, h.require), (336, h.retire), (340, h.hours), (344, h.retirements),
   (348, h.fences), (352, h.rises), (356, h.cleanings),
   (384, f.rowsPlaced), (388, f.rewritesPlaced), (392, f.blankSlots), (396, f.unscoredFailures), (400, f.repeats),
   (404, f.writeFaults), (408, s.rdc.rowsReceived), (412, s.rdc.overruns), (416, s.rdc.unreadable),
   (420, s.rdc.superseded), (424, s.rdc.rereads), (428, s.rdc.recoveries), (432, s.rdc.recoveriesFailed),
   (436, s.dcp.corrupt), (440, m.backhitches), (444, m.wrapTurns), (448, m.speedChanges), (452, m.lockLosses),
   (456, m.travels), (460, m.threadRetries), (464, m.motionFaults), (468, s.spm.writeSamples), (472, s.spm.readSamples),
   (476, s.spm.rises), (480, s.spm.falls), (484, s.spm.stepDowns), (488, s.cml.accesses), (492, s.cml.retried),
   (496, s.cml.failed)]

/-- Bytes hold the report record of a state: its 4-byte fields, the head history block of 10.9.5 at 256 and the frame table at
512, in 1,536 bytes. -/
structure ReportHolds (bytes : List Byte) (s : State) : Prop where
  length : bytes.length = 1536
  fields : ∀ x ∈ reportFields s, field bytes x.1 4 = x.2 % 4294967296
  scores : ∀ c, c < 16 → field bytes (256 + 2 * c) 2 = ((s.hcm.channels.map (fun x => x.score)).getD c 0) % 65536
  states : ∀ c, c < 16 → field bytes (288 + c) 1 = if (s.hcm.channels.map (fun x => x.active)).getD c true then 0 else 1
  call   : field bytes 304 1 = (match s.hcm.call with | .none => 0 | .advised => 1 | .required => 2)
  flags  : field bytes 305 1 = s.hcm.worn.toNat ∧ field bytes 306 1 = s.hcm.fence.toNat
  frames : ∀ i f, s.bsm.frames[i]? = some f →
            field bytes (512 + 8 * i) 1 = f.state.code ∧ field bytes (513 + 8 * i) 1 = f.copy.getD 255 % 256
              ∧ field bytes (516 + 8 * i) 4 = f.bundle.getD 4294967295 % 4294967296
  rest   : ∀ i, s.bsm.frames.length ≤ i → i < 128 → field bytes (512 + 8 * i) 8 = 0

/-- The counters that a REPORT with CLEAR sets to 0 (R197). -/
def counters (s : State) : List Nat :=
  [s.fmt.rowsPlaced, s.fmt.rewritesPlaced, s.fmt.blankSlots, s.fmt.unscoredFailures, s.fmt.repeats, s.fmt.writeFaults,
   s.rdc.rowsReceived, s.rdc.overruns, s.rdc.unreadable, s.rdc.superseded, s.rdc.rereads, s.rdc.recoveries,
   s.rdc.recoveriesFailed, s.dcp.corrupt, s.mot.backhitches, s.mot.wrapTurns, s.mot.speedChanges, s.mot.lockLosses,
   s.mot.travels, s.mot.threadRetries, s.mot.motionFaults, s.spm.writeSamples, s.spm.readSamples, s.spm.rises,
   s.spm.falls, s.spm.stepDowns, s.cml.accesses, s.cml.retried, s.cml.failed, s.hcm.retirements, s.hcm.fences,
   s.hcm.rises, s.hcm.cleanings]

/-! ### The queue of orders, and the memory port -/

/-- What the arbiter records at a grant to EXU of an access to the exchange area (R38). -/
def exuGranted (s : State) : Marb := { s.marb with lastGeneral := .exu, lastGroup := .general }

/-- Slots are set DONE with a status alone, every other byte of their result areas 0, each counted as a completion of a ticket
with the count below the trigger; no other byte of memory changes (R167, R172, R182). -/
structure SlotsDone (st : Status) (k : Ticket) (slots : List Nat) (s t : State) : Prop where
  done   : ∀ j ∈ slots, memRead t.mem (slotAddress (exchangeBase s) j) = 3
    ∧ memReadN t.mem (slotAddress (exchangeBase s) j + 144) 112 = BitVec.ofNat 8 st.code :: List.replicate 111 0
  others : ∀ x, (∀ j ∈ slots, x ≠ slotAddress (exchangeBase s) j
      ∧ (x < slotAddress (exchangeBase s) j + 144 ∨ slotAddress (exchangeBase s) j + 256 ≤ x)) →
    memRead t.mem x = memRead s.mem x
  exu    : t.exu = { s.exu with
    count := s.exu.count + slots.length, lastTicket := if slots = [] then s.exu.lastTicket else k,
    quietTimer := if slots = [] then s.exu.quietTimer else some (after s s.exu.quietTime) }
  port   : t.marb = exuGranted s
  rest   : { t with mem := s.mem, exu := s.exu, marb := s.marb } = s

/-- The order in a slot is taken with its ticket: copied into ORD's record, TAKEN written into the slot's state byte and no
other byte, the taken mark set; it is not yet checked (R168, R178). -/
structure SlotTaken (slot : Nat) (k : Ticket) (s t : State) : Prop where
  order  : t.ord.record = some (slotOrder s slot) ∧ t.ord.stage = .checking ∧ t.ord.releaseMark = none
    ∧ t.ord.records = 0 ∧ t.ord.marks = 0 ∧ t.ord.delivered = 0 ∧ t.ord.discardSeen = false
  kept   : t.ord.position = s.ord.position ∧ t.ord.deferred = s.ord.deferred
  state  : memRead t.mem (slotAddress (exchangeBase s) slot) = 2
  others : ∀ x, x ≠ slotAddress (exchangeBase s) slot → memRead t.mem x = memRead s.mem x
  exu    : t.exu = { s.exu with active := some (slot, k), takenMark := k }
  port   : t.marb = exuGranted s
  rest   : { t with mem := s.mem, exu := s.exu, ord := s.ord, marb := s.marb } = s

/-- The completion of the TAKEN order has been handed to EXU in the step in which a transfer of CMP_OUT is raised at a port at
rest, and that transfer's burst runs. The result is written before it where EXU comes before CMP_OUT in the group's list from the
last grantee on, and else waits; DONE waits behind it for the port (R38, R169, R178; log 6). -/
structure CompletionHanded (slot : Nat) (k : Ticket) (q : OrderResult) (s t : State) : Prop where
  dropped : t.ord.record = none
  burst   : t.marb.burst.any (fun b => b.who = .cmpOut) = true
  first   : s.marb.lastGeneral ∈ [.cmpOut, .dcpIn, .dcpOut] →
    t.exu = { s.exu with work := [.done slot k true] }
      ∧ memReadN t.mem (slotAddress (exchangeBase s) slot + 144) 112 = resultBytes q
      ∧ ∀ x, (x < slotAddress (exchangeBase s) slot + 144 ∨ slotAddress (exchangeBase s) slot + 256 ≤ x) →
          memRead t.mem x = memRead s.mem x
  waits   : s.marb.lastGeneral ∉ [.cmpOut, .dcpIn, .dcpOut] →
    t.exu = { s.exu with work := [.result slot q, .done slot k true] } ∧ t.mem = s.mem

/-- How many requesters of its group come before `r`, taken round the group's list from the one after `last` (R38). -/
def turnsAfter (last r : Requester) : Nat :=
  let rs := if r.group = .tape then tapeRequesters else generalRequesters
  (rs.idxOf r + rs.length - 1 - rs.idxOf last) % rs.length

/-- No order is posted beyond the one taken last. -/
def noneWaits (s : State) : Prop := s.exu.postMark = s.exu.takenMark

/-- The memory port serves one transfer, of a requester of the general group: it alone is raised, and its first burst
granted (R38). -/
def portServes (t : Transfer) (s : State) : State :=
  { s with marb.burst := some ⟨t.who, burstLength t⟩, marb.lastGeneral := t.who, marb.lastGroup := .general,
           marb.transfers := [t] }

end Sys2Proof.Machine
end

