-- ==== Sys2Proof/Certificates/Slice0/Obligations.lean ====
section
/-! DEFINITION. The statements for the provers. Each definition's docstring says what it states; OBLIGATIONS.json lists
them. -/

open Sys2Proof Sys2Proof.Machine

/-! ### Steps and resets -/

/-- A step takes the command at the front of the queue and runs it with the queue's rest. -/
def Obligations.StepRunsFrontCommand : Prop :=
  ∀ (c : Instr) (rest : List Instr) (s : State),
    step { s with pending := c :: rest } = exec c { s with pending := rest }

/-- With no command waiting a step is one millisecond: the timebase counts it modulo 2 to the power 32, and the motion time
accumulator in a moving state. The model's choice (log 1). -/
def Obligations.IdleStepCountsMillisecond : Prop :=
  ∀ s : State, s.pending = [] →
    ∃ t, step s = .next t ∧ t.timebase = s.timebase + 1
      ∧ t.mot.motionTime = (if s.mot.state.moving then s.mot.motionTime + 1 else s.mot.motionTime)
      ∧ { t with timebase := s.timebase, mot := s.mot } = s
      ∧ { t.mot with motionTime := s.mot.motionTime } = s.mot

/-- The state after reset is structurally sound.
Model's choices: log 4. -/
def Obligations.ResetIsSound : Prop := Sound State.reset

/-- Every step keeps structural soundness: the canonical form of memory, the head care monitor's channel count and
thresholds, the speed table and indexes, the lock count of each level, the bounds of the row buffers and of the blank
run, the last grants of the two groups, and the bundle store: at most one OPEN frame, every frame FREE in an IDLE store, no
read-mode frame in WRITE mode and no write-mode frame in READ mode (R27, R33). -/
def Obligations.StepKeepsSound : Prop := ∀ s t : State, Sound s → step s = .next t → Sound t

/-- No command touches the queue behind it, and none but a hard reset touches the timebase: that the queue stands over every
reset is the model's choice, and so is that no time passes but on a step with no command waiting.
Model's choices: logs 1, 4. -/
def Obligations.CommandsKeepQueueAndTimebase : Prop :=
  ∀ (c : Instr) (s t : State), exec c s = .next t →
    t.pending = s.pending
      ∧ ((∀ x, c ≠ .powerOnReset x) → (∀ x, c ≠ .hardReset x) → t.timebase = s.timebase)

/-- A hard reset, by power-on or by RESET, leaves every block as its rule states, MOT's state as the sensors give it, and
the bytes of buffer memory as they were. The write-protect tab is sensed where the state found is SEATED (R83); that it is clear
in STRANDED, of which R83 says nothing, is the model's choice (log 76).
Model's choices: logs 4, 40, 41, 48, 76. -/
def Obligations.HardResetState : Prop :=
  ∀ (x : Sensors) (s : State), ∃ t,
    exec (.powerOnReset x) s = .next t ∧ exec (.hardReset x) s = .next t
    ∧ t.mem = s.mem ∧ t.pending = s.pending ∧ t.portRead = s.portRead ∧ t.timebase = 0
    ∧ t.exu = Exu.hardReset ∧ t.exu.bind = .unbound ∧ t.exu.cond = 0 ∧ alert t = false ∧ attn t = false
    ∧ t.ord = Ord.hardReset ∧ t.ord.record = none ∧ t.ord.deferred = none ∧ t.ord.position = 0
    ∧ t.cmp = Cmp.hardReset ∧ t.bsm = Bsm.hardReset ∧ t.bsm.frames = [] ∧ t.marb = Marb.hardReset
    ∧ t.fmt = Fmt.hardReset ∧ t.rdc = Rdc.hardReset ∧ t.dcp = Dcp.hardReset ∧ t.spm = Spm.hardReset
    ∧ t.cml = Cml.hardReset ∧ t.hcm = Hcm.hardReset ∧ t.loop = none
    ∧ t.mot.state = (if x.present then (if x.home then .seated else .stranded) else .empty)
    ∧ t.mot.leader = (if x.present then (if x.home then .home else if x.attached then .onReel else .inPath) else .none)
    ∧ t.mot.tab = (x.present && x.home && x.tab)
    ∧ t.mot.pos = none ∧ t.mot.splice = none ∧ t.mot.speed = 0 ∧ t.mot.lock = .unlocked ∧ t.mot.lockCount = 0
    ∧ t.mot.tension = .off ∧ t.mot.motionTime = 0

/-- A soft reset with no command's work in flight: EXU is UNBOUND, its accesses to the exchange area that wait are dropped, and
only CARTRIDGE and TAPE_READY are kept in COND, set too where a cell of theirs waited, with their latest details held; and, when
write work was lost, DATA_DISCARDED set and held (R177, R174); no order, frame, session or loop check stands; memory, the
timebase, the last abort, the head care monitor, the cartridge copy, the counters of every block and the settings are kept. With
write work lost, sealed-through, written-through and the EOD bundle go back to verified-through, the EOD object becomes the
first object of the lowest bundle lost, and the logical position is lowered to it; without, they and the position stay (R36,
R178). A rebuild in hand is dropped. Moving tape, but a recovery rewind, is brought to a stop without a backhitch, to stay where
it comes to rest; POSITIONED becomes THREADED_IDLE; threading is abandoned (R87); every other state stands. The lock, its timer,
the held request and the locate are dropped, the position, speed, tab and motion time kept (R110). Model's choices: logs 25, 46,
74; the marks dropped read 0 (log 89). -/
def Obligations.SoftResetState : Prop :=
  ∀ s : State, s.sig = [] →
    ∃ t, exec .softReset s = .next t
      ∧ t.mem = s.mem ∧ t.timebase = s.timebase ∧ t.hcm = s.hcm ∧ t.cml.copy = s.cml.copy
      ∧ t.exu.bind = .unbound ∧ t.exu.binding = none ∧ t.exu.base = none ∧ t.exu.outcome = .none
      ∧ t.portRead = s.portRead ∧ t.pending = s.pending ∧ counters t = counters s
      ∧ t.exu.postMark = 0 ∧ t.exu.takenMark = 0 ∧ t.exu.active = none ∧ t.exu.passedOver = []
      ∧ t.exu.count = 0 ∧ t.exu.quietTimer = none ∧ t.exu.raises = List.replicate 15 0
      ∧ t.exu.lastAbort = s.exu.lastAbort ∧ t.exu.abortOutcome = s.exu.abortOutcome
      ∧ t.exu.heldCartridge = s.exu.lastCartridge ∧ t.exu.heldTapeReady = s.exu.lastTapeReady
      ∧ t.exu.lastCartridge = s.exu.lastCartridge ∧ t.exu.lastTapeReady = s.exu.lastTapeReady
      ∧ t.exu.alertSet = s.exu.alertSet ∧ t.exu.trigger = s.exu.trigger ∧ t.exu.quietTime = s.exu.quietTime
      ∧ t.exu.work = []
      ∧ t.exu.cond = (s.exu.cond &&& 12)
          ||| (if s.exu.work.any (fun w => match w with | .cell .cartridge _ _ => true | _ => false) then 4 else 0)
          ||| (if s.exu.work.any (fun w => match w with | .cell .tapeReady _ _ => true | _ => false) then 8 else 0)
          ||| (if (s.bsm.frames.filter (holdsWork s)).isEmpty then 0 else 1024)
      ∧ t.ord.record = none ∧ t.ord.deferred = none
      ∧ t.bsm.frames = [] ∧ t.bsm.mode = .idle ∧ t.bsm.verifiedThrough = s.bsm.verifiedThrough
      ∧ (s.bsm.frames.filter (holdsWork s) = [] →
          t.bsm.sealedThrough = s.bsm.sealedThrough ∧ t.bsm.writtenThrough = s.bsm.writtenThrough
            ∧ (s.cml.state ≠ .rebuilding → t.cml.map = s.cml.map) ∧ t.ord.position = s.ord.position
            ∧ t.exu.heldDiscarded = s.exu.heldDiscarded)
      ∧ (∀ f o, lowestFrame (s.bsm.frames.filter (holdsWork s)) = some f → firstObjectOf s f = some o →
          t.bsm.sealedThrough = s.bsm.verifiedThrough ∧ t.bsm.writtenThrough = s.bsm.verifiedThrough
            ∧ (s.cml.state ≠ .rebuilding →
                t.cml.map = s.cml.map.map (fun m => { m with eodObject := o, eodBundle := s.bsm.verifiedThrough }))
            ∧ t.ord.position = min s.ord.position o
            ∧ t.exu.heldDiscarded = some ⟨min ((s.exu.heldDiscarded.map (fun h => h.a)).getD 0
                + (s.bsm.frames.filter (holdsWork s)).length) 4294967295, 0, 0, s.timebase⟩)
      ∧ (s.cml.state ≠ .rebuilding → t.cml.state = s.cml.state) ∧ (s.cml.state = .rebuilding → t.cml.state = .held)
      ∧ t.cmp.cursor = none ∧ t.cmp.index = [] ∧ t.cmp.idleTimer = none ∧ t.cmp.blocked = false
      ∧ t.cmp.compression = s.cmp.compression ∧ t.cmp.idleSeal = s.cmp.idleSeal
      ∧ t.fmt.phase = .stopped ∧ t.fmt.cursor = none ∧ t.fmt.outBuffer = [] ∧ t.fmt.window = [] ∧ t.fmt.rewrites = []
      ∧ t.fmt.passMaps = [] ∧ t.fmt.placements = [] ∧ t.fmt.faultMark = false ∧ t.fmt.ewFlag = s.fmt.ewFlag
      ∧ t.fmt.threshold = s.fmt.threshold ∧ t.fmt.restart = s.fmt.restart
      ∧ t.rdc.phase = .none ∧ t.rdc.inBuffer = [] ∧ t.rdc.assemblies = [] ∧ t.rdc.next = none ∧ t.rdc.frontier = none
      ∧ t.rdc.blankRun = 0 ∧ t.rdc.recovery = none ∧ t.rdc.limit = s.rdc.limit
      ∧ t.dcp.phase = .idle ∧ t.dcp.next = none ∧ t.dcp.history = [] ∧ t.dcp.waiting = false
      ∧ t.spm.session = .none ∧ t.spm.table = s.spm.table ∧ t.spm.rate = s.spm.rate ∧ t.spm.lastSample = s.spm.lastSample
      ∧ t.spm.lastDemand = s.spm.lastDemand ∧ t.spm.lastChoice = s.spm.lastChoice ∧ t.spm.excluded = 0
      ∧ t.spm.openSince = none ∧ t.spm.vote = none ∧ t.spm.next = s.mot.speed ∧ t.mot.speed = s.mot.speed
      ∧ t.mot.dwellTime = s.mot.dwellTime
      ∧ t.mot.held = none ∧ t.mot.locate = none ∧ t.mot.lock = .unlocked ∧ t.mot.lockCount = 0 ∧ t.mot.limitTimer = none
      ∧ t.loop = none
      ∧ t.mot.pos = s.mot.pos ∧ t.mot.tab = s.mot.tab ∧ t.mot.motionTime = s.mot.motionTime
      ∧ (s.mot.state ∈ [.starting, .streamingWrite, .streamingRead, .stopping, .repositioning, .turning, .cleaning]
          ∨ (s.mot.state = .travel ∧ s.mot.dest ≠ .recovery) →
          t.mot.state = .stopping ∧ t.mot.afterRest = .stay ∧ t.mot.splice = none ∧ t.mot.startKind = none
            ∧ t.mot.leader = s.mot.leader ∧ t.mot.tension = s.mot.tension)
      ∧ (s.mot.state = .positioned →
          t.mot.state = .threadedIdle ∧ t.mot.splice = none ∧ t.mot.startKind = none
            ∧ t.mot.dwellTimer = (if s.mot.dwellTime = 0 then none
                else some (s.timebase + BitVec.ofNat 32 (s.mot.dwellTime * 1000))))
      ∧ (s.mot.state = .relaxed → t.mot.state = .relaxed ∧ t.mot.splice = none ∧ t.mot.startKind = none)
      ∧ (s.mot.state = .threading →
          (s.mot.threadPhase = .capture → t.mot.state = .seated ∧ t.mot.leader = .home ∧ t.mot.threadTimer = none)
          ∧ (s.mot.threadPhase ≠ .capture →
              t.mot.state = .unthreading ∧ t.mot.leader = .inPath ∧ t.mot.tension = .off
                ∧ t.mot.unthreadWhy = .abandoned ∧ t.mot.threadTimer = some (s.timebase + 8000)))
      ∧ (s.mot.state ∈ [.empty, .seated, .threadedIdle, .unthreading, .stranded, .faultHeld]
          ∨ (s.mot.state = .travel ∧ s.mot.dest = .recovery) →
          t.mot.state = s.mot.state ∧ t.mot.leader = s.mot.leader ∧ t.mot.tension = s.mot.tension)

/-! ### The processor port, binding, POST, ABORT, COND -/

/-- A register write that is disregarded changes nothing; one that another command stands for is refused by that row.
Model's choices: log 50. -/
def Obligations.IgnoredWriteChangesNothing : Prop :=
  ∀ (addr : Word) (len : AccessLen) (v : Word) (s : State),
    (addr.toNat ≥ 1073741824 →
      (len ≠ .four ∨ addr.toNat = 1073741824 ∨ 1073741844 < addr.toNat ∨ addr.toNat % 4 ≠ 0
        ∨ (addr.toNat = 1073741844 ∧ v ≠ 1 ∧ v ≠ 2)) →
      exec (.registerWriteIgnored addr len v) s = .next s)
    ∧ (addr.toNat < 1073741824 ∨
        (len = .four ∧ (addr.toNat = 1073741828 ∨ addr.toNat = 1073741832 ∨ addr.toNat = 1073741836
          ∨ addr.toNat = 1073741840 ∨ (addr.toNat = 1073741844 ∧ (v = 1 ∨ v = 2)))) →
      exec (.registerWriteIgnored addr len v) s = .refused .illFormed)

/-- A write to EXBASE: refused with REBIND while bound; without effect while a binding is in progress; BASE_BAD for an
address not a multiple of 4,096 or too high; otherwise the reading of the 512 bytes of the setup record begins.
Model's choices: logs 33, 45. -/
def Obligations.BindingRequest : Prop :=
  ∀ (v : Word) (s : State),
    (s.exu.bind ≠ .unbound → exec (.binding v) s = .next (raise .exchangeFault v.toNat 3 0 s))
    ∧ (s.exu.bind = .unbound → s.exu.binding.isSome = true → exec (.binding v) s = .next s)
    ∧ (s.exu.bind = .unbound → s.exu.binding = none → ¬(v.toNat % 4096 = 0 ∧ v.toNat + 8192 ≤ 1073741824) →
        exec (.binding v) s = .next { s with exu.outcome := .baseBad })
    ∧ (s.exu.bind = .unbound → s.exu.binding = none → v.toNat % 4096 = 0 → v.toNat + 8192 ≤ 1073741824 → portAtRest s →
        exec (.binding v) s =
          .next { s with exu.binding := some ⟨v.toNat, none⟩,
                         marb.burst := some ⟨.exu, 512⟩, marb.lastGeneral := .exu, marb.lastGroup := .general,
                         marb.transfers := [⟨.exu, .setupRecord, false, v.toNat, 512, []⟩] })

/-- A setup record with a field at fault, at a memory port at rest: SETUP_BAD with the number of the field the first failing check
names, in EXBASE's outcome and in the first four bytes of the record, written by one access of EXU; no binding in progress, and no
other byte of memory changed. While a burst holds the port the access waits, the binding still in progress. The store base
is at fault where it is no multiple of 4,096, or the store leaves memory or meets the exchange area; the frame count outside 8
to 128; the first clamped speed not above the one before; and, with a head history block present, its channel states, clean
call, worn flag or fence flag (R24, R112, R156, R162).
Model's choices: logs 6, 33, 34. -/
def Obligations.SetupRecordRefused : Prop :=
  ∀ (a n : Nat) (bytes : List Byte) (s : State), Memory.wf s.mem = true →
    s.exu.binding = some ⟨a, some bytes⟩ → SetupAtFault a bytes n →
    (portAtRest s →
      ∃ t, exec .setupRecordRead s = .next t
        ∧ t.exu.outcome = .setupBad n ∧ t.exu.binding = none ∧ t.exu.bind = s.exu.bind
        ∧ memReadN t.mem a 4 = [2, 0, BitVec.ofNat 8 (n % 256), BitVec.ofNat 8 (n / 256)]
        ∧ (∀ x, (x < a ∨ a + 4 ≤ x) → memRead t.mem x = memRead s.mem x)
        ∧ t.marb = exuGranted s ∧ { t with mem := s.mem, exu := s.exu, marb := s.marb } = s
        ∧ { t.exu with outcome := s.exu.outcome, binding := s.exu.binding } = s.exu)
    ∧ (s.marb.burst.isSome = true →
        exec .setupRecordRead s =
          .next { s with exu.binding := some ⟨a, none⟩, exu.work := s.exu.work ++ [.outcome a (.setupBad n)] })

/-- A setup record that passes its checks binds: EXU BOUND at the base, both marks one before the first ticket, the frame
table of the setup's frame count all FREE, the store IDLE at its base, and each of the 19 tunables as the record gives it,
clamped to its range. The outcome is BOUND with CLAMPED when a value was clamped and BOUND otherwise; it stands in the first
four bytes of the record, and no other byte changes but those of the detail cells. Each held detail goes to its cell with a raise
count of 1, and the bits of COND stay set (R174). A head history block takes the place of HCM's state, and HCM evaluates (R156).
Model's choices: logs 6, 25, 33 (the outcome's bytes), 79 (an evaluation without a block), 80 (bytes 14 and 15 of a cell), 88 (a
value of the alert set with bits 15 to 31 set is taken as given, those bits dropped). -/
def Obligations.SetupRecordBinds : Prop :=
  ∀ (a : Nat) (bytes : List Byte) (s : State), Quiet s → Memory.wf s.mem = true → s.exu.bind = .unbound →
    s.exu.binding = some ⟨a, some bytes⟩ → (∀ n, ¬CheckFails a bytes n) →
    let v := fun j => field bytes (20 + 4 * j) 4
    let frames := field bytes 16 4
    ∃ (t : State) (asGiven : Bool), exec .setupRecordRead s = .next t
      ∧ (asGiven = true ↔
          100 ≤ v 1 ∧ v 1 ≤ 10000 ∧ v 2 ≤ 8 ∧ 1 ≤ v 3 ∧ v 3 ≤ 32 ∧ v 3 ≤ frames / 2 ∧ 1 ≤ v 4 ∧ v 4 ≤ 8
            ∧ (v 5 = 0 ∨ 10 ≤ v 5) ∧ v 5 ≤ 600 ∧ 256 ≤ v 6 ∧ v 6 ≤ 32768 ∧ v 6 ≤ v 7 ∧ v 7 ≤ 49152 ∧ v 7 ≤ v 8
            ∧ v 8 ≤ 65535 ∧ 3600 ≤ v 9 ∧ v 9 ≤ 1800000 ∧ v 10 % 2 = 0 ∧ 1 ≤ v 11 ∧ v 11 ≤ 16 ∧ v 12 ≤ 255
            ∧ ∀ i, i < 6 → 8192 ≤ v (13 + i) ∧ v (13 + i) ≤ 262144)
      ∧ t.exu.outcome = (if asGiven then .bound else .boundClamped)
      ∧ memReadN t.mem a 4 = [3, if asGiven then 0 else 1, 0, 0]
      ∧ (∀ x, (x < a ∨ a + 4 ≤ x) → (x < a + 512 ∨ a + 752 ≤ x) → memRead t.mem x = memRead s.mem x)
      ∧ t.exu.bind = .bound ∧ t.exu.base = some a ∧ t.exu.binding = none
      ∧ t.exu.postMark = BitVec.ofNat 16 (field bytes 8 2) - 1 ∧ t.exu.takenMark = t.exu.postMark
      ∧ t.exu.active = none ∧ t.exu.passedOver = [] ∧ t.exu.count = 0 ∧ t.exu.quietTimer = none
      ∧ t.exu.lastAbort = 0 ∧ t.exu.abortOutcome = 0
      ∧ t.exu.heldCartridge = none ∧ t.exu.heldTapeReady = none ∧ t.exu.heldDiscarded = none
      ∧ t.bsm.frames = List.replicate frames freeFrame ∧ t.bsm.base = field bytes 12 4 ∧ t.bsm.mode = .idle
      ∧ t.cmp.compression = decide (v 0 ≠ 0) ∧ t.cmp.idleSeal = clamp 100 10000 (v 1)
      ∧ t.fmt.threshold = min 8 (v 2) ∧ t.fmt.restart = min (clamp 1 32 (v 3)) (frames / 2)
      ∧ t.rdc.limit = clamp 1 8 (v 4) ∧ t.mot.dwellTime = (if v 5 = 0 then 0 else clamp 10 600 (v 5))
      ∧ (∀ x : State, x.hcm = setupHead bytes s.hcm → t.hcm = (evaluate x).hcm)
      ∧ (∀ d, s.exu.heldCartridge = some d → memReadN t.mem (a + 544) 16 = firstCell d ∧ t.exu.raises[2]? = some 1)
      ∧ (∀ d, s.exu.heldTapeReady = some d → memReadN t.mem (a + 560) 16 = firstCell d ∧ t.exu.raises[3]? = some 1)
      ∧ (∀ d, s.exu.heldDiscarded = some d → memReadN t.mem (a + 672) 16 = firstCell d ∧ t.exu.raises[10]? = some 1)
      ∧ t.exu.cond &&& s.exu.cond = s.exu.cond
      ∧ t.hcm.advise = clamp 256 32768 (v 6) ∧ t.hcm.require = max t.hcm.advise (min 49152 (v 7))
      ∧ t.hcm.retire = max t.hcm.require (min 65535 (v 8)) ∧ t.hcm.hours = clamp 3600 1800000 (v 9)
      ∧ t.exu.alertSet.getLsbD 0 = false
      ∧ (∀ i : Nat, 0 < i → i < 15 → t.exu.alertSet.getLsbD i = (v 10).testBit i)
      ∧ t.exu.trigger = clamp 1 16 (v 11) ∧ t.exu.quietTime = min 255 (v 12)
      ∧ t.spm.table = (List.range 6).map (fun i => clamp 8192 262144 (v (13 + i)))

/-- A value of POST more than 16 ahead of the taken mark, modulo 65,536, changes neither mark: EXCHANGE_FAULT with detail
POST_RANGE. While UNBOUND a write to POST changes nothing.
Model's choices: log 45. -/
def Obligations.PostOutOfRangeRefused : Prop :=
  ∀ (v : Word) (s : State),
    (s.exu.bind = .unbound → exec (.post v) s = .next s)
    ∧ (s.exu.bind ≠ .unbound → 16 < ((v.setWidth 16 : BitVec 16) - s.exu.takenMark).toNat →
        exec (.post v) s = .next (raise .exchangeFault v.toNat 1 0 s))

/-- A value of POST in range becomes the post mark, and EXU BOUND. With an order TAKEN, or the taken mark itself posted, nothing
more follows. With none, EXU looks for the ticket after the taken mark, at the grants of the memory port: while a burst holds it
the look waits. At a port at rest it is made at once: the order in the lowest-numbered slot POSTED with it is
taken, and every other such slot is set DONE with DUPLICATE_TICKET; an order of an unknown kind ends BAD_ORDER at once. A ticket
passed over leaves the list and becomes the taken mark, every slot POSTED with it is set DONE with DUPLICATE_TICKET, and the
look goes on from there. The slots set DONE are each counted, here with the count below the trigger (R166 to R168).
Model's choices: logs 5, 6. -/
def Obligations.PostTakesNextOrder : Prop :=
  ∀ (v : Word) (s : State), Memory.wf s.mem = true → s.exu.bind ≠ .unbound → portSettled s →
    ((v.setWidth 16 : BitVec 16) - s.exu.takenMark).toNat ≤ 16 →
    let k := s.exu.takenMark + 1
    let posted := { s with exu.postMark := v.setWidth 16, exu.bind := .bound }
    (s.exu.active.isSome = true ∨ v.setWidth 16 = s.exu.takenMark → exec (.post v) s = .next posted)
    ∧ (s.exu.active = none → v.setWidth 16 ≠ s.exu.takenMark → s.marb.burst.isSome = true →
        exec (.post v) s =
          .next (if s.exu.work.any ExuWork.looks then posted
            else { posted with exu.work := s.exu.work ++ [.scan .look k 0 []] }))
    ∧ (∀ slot others, portAtRest s → s.exu.active = none → v.setWidth 16 ≠ s.exu.takenMark → s.exu.passedOver.contains k = false →
        postedSlots s k = slot :: others → s.exu.quietTime ≠ 0 → s.exu.count + others.length < s.exu.trigger →
        s.exu.trigger ≤ 16 →
        (∀ j ∈ others, slot < j)
          ∧ ∃ u t, SlotTaken slot k posted u ∧ SlotsDone .duplicateTicket k others u t
            ∧ ((kindOfCode (slotOrder s slot).kind).isSome = true → exec (.post v) s = .next t)
            ∧ ((kindOfCode (slotOrder s slot).kind).isSome = false → v.setWidth 16 = k →
                exec (.post v) s = .next (finishActive ⟨.badOrder, .none, 0, 1, s.ord.position, 0, 0, []⟩ t)))
    ∧ (portAtRest s → s.exu.active = none → v.setWidth 16 ≠ s.exu.takenMark → s.exu.passedOver.contains k = true →
        s.exu.quietTime ≠ 0 → s.exu.count + (postedSlots s k).length < s.exu.trigger → s.exu.trigger ≤ 16 →
        ∃ u, SlotsDone .duplicateTicket k (postedSlots s k) s u
          ∧ exec (.post v) s =
              exec (.post v) { u with exu.passedOver := s.exu.passedOver.filter (fun x => x ≠ k), exu.takenMark := k })

/-- A ticket due that no slot holds POSTED stalls EXU, the look made at a memory port at rest: STALLED, and EXCHANGE_FAULT with
the ticket and detail 2.
Model's choices: log 6. -/
def Obligations.PostOfMissingTicketStalls : Prop :=
  ∀ (v : Word) (s : State), portAtRest s → s.exu.bind ≠ .unbound → s.exu.active = none →
    ((v.setWidth 16 : BitVec 16) - s.exu.takenMark).toNat ≤ 16 → v.setWidth 16 ≠ s.exu.takenMark →
    s.exu.passedOver.contains (s.exu.takenMark + 1) = false → postedSlots s (s.exu.takenMark + 1) = [] →
    exec (.post v) s =
      .next (raise .exchangeFault (s.exu.takenMark + 1).toNat 2 0
        { s with exu.postMark := v.setWidth 16, exu.bind := .stalled })

/-- A write to COND clears each bit written as 1 and leaves the others; bits 15 to 31 are disregarded. -/
def Obligations.CondWriteClearsBits : Prop :=
  ∀ (v : Word) (s : State), ∃ t, exec (.cond v) s = .next t
    ∧ (∀ i : Nat, i < 15 → t.exu.cond.getLsbD i = (s.exu.cond.getLsbD i && !v.getLsbD i))
    ∧ { t with exu := s.exu } = s ∧ { t.exu with cond := s.exu.cond } = s.exu

/-- The quiet timer's expiry: nothing when it is stopped, or when its time, half the timebase's range or less ahead, has not
come; when it runs and its time has come, it stops, and with completions counted COMPLETIONS is raised with the count and the
ticket of the latest, and the count set to 0.
Model's choices: log 13. -/
def Obligations.QuietTimerExpiry : Prop :=
  ∀ s : State,
    (s.exu.quietTimer = none → exec .quietTimerExpiry s = .next s)
    ∧ (∀ t : Time, s.exu.quietTimer = some t →
        (2147483648 ≤ (s.timebase - t).toNat → exec .quietTimerExpiry s = .next s)
        ∧ ((s.timebase - t).toNat < 2147483648 → s.exu.count = 0 →
            exec .quietTimerExpiry s = .next { s with exu.quietTimer := none })
        ∧ ((s.timebase - t).toNat < 2147483648 → 0 < s.exu.count →
            exec .quietTimerExpiry s =
              .next (raise .completions s.exu.count s.exu.lastTicket.toNat 0
                { s with exu.count := 0, exu.quietTimer := none })))

/-- A write to ABORT of a ticket that is neither that of an abortable TAKEN order nor that of a slot posted 1 to 16 ahead of
the taken mark: outcome 3 and EXCHANGE_FAULT with the ticket and detail 4, whether an order is TAKEN or not; a slot POSTED with
a ticket out of that range is not touched. While UNBOUND nothing. -/
def Obligations.AbortOfNothing : Prop :=
  ∀ (v : Word) (s : State),
    (s.exu.bind = .unbound → exec (.abort v) s = .next s)
    ∧ (Calm s → portAtRest s → s.exu.bind ≠ .unbound →
        ((∀ slot, s.exu.active ≠ some (slot, v.setWidth 16))
          ∨ takenKind s ∈ [none, some .flush, some .unload, some .tune, some .report, some .check]) →
        ((v.setWidth 16 : BitVec 16) = s.exu.takenMark ∨ 16 < ((v.setWidth 16 : BitVec 16) - s.exu.takenMark).toNat
          ∨ postedSlots s (v.setWidth 16) = []) →
        exec (.abort v) s =
          .next (raise .exchangeFault (v.setWidth 16 : BitVec 16).toNat 4 0
            { s with exu.lastAbort := v.setWidth 16, exu.abortOutcome := 3 }))

/-- A write to ABORT of a ticket posted ahead in one slot, with no order TAKEN or one of another ticket: the slot is DONE with
status ABORTED, the ticket passed over, outcome 2.
Model's choices: log 6. -/
def Obligations.AbortOfPostedOrder : Prop :=
  ∀ (v : Word) (slot : Nat) (s : State), Calm s → portAtRest s → Memory.wf s.mem = true → s.exu.bind ≠ .unbound →
    (∀ x, s.exu.active ≠ some (x, v.setWidth 16)) →
    1 ≤ ((v.setWidth 16 : BitVec 16) - s.exu.takenMark).toNat →
    ((v.setWidth 16 : BitVec 16) - s.exu.takenMark).toNat ≤ 16 →
    s.exu.passedOver.contains (v.setWidth 16) = false → postedSlots s (v.setWidth 16) = [slot] →
    s.exu.quietTime ≠ 0 → s.exu.count + 1 < s.exu.trigger → s.exu.trigger ≤ 16 →
    ∃ t, exec (.abort v) s = .next t
      ∧ t.exu.abortOutcome = 2 ∧ t.exu.lastAbort = v.setWidth 16
      ∧ t.exu.passedOver = s.exu.passedOver ++ [v.setWidth 16] ∧ t.exu.count = s.exu.count + 1
      ∧ t.exu.takenMark = s.exu.takenMark ∧ t.exu.postMark = s.exu.postMark ∧ t.exu.active = s.exu.active
      ∧ t.ord = s.ord
      ∧ memRead t.mem (slotAddress (exchangeBase s) slot) = 3
      ∧ memReadN t.mem (slotAddress (exchangeBase s) slot + 144) 112 = 2 :: List.replicate 111 0
      ∧ (∀ x, x ≠ slotAddress (exchangeBase s) slot →
          (x < slotAddress (exchangeBase s) slot + 144 ∨ slotAddress (exchangeBase s) slot + 256 ≤ x) →
          memRead t.mem x = memRead s.mem x)

/-- A write to ABORT of the ticket of a TAKEN order, outcome 1. A WRITE in intake completes ABORTED with intake dropped: chunks
committed of its record leave the open bundle, whose payload, raw count, history and table are those of the entries kept, and the
record ceases unless chunks of it lie in sealed bundles (R22). A READ completes ABORTED: FILLING frames go to FREE, the assemblies
are dropped with the place noted at which reading resumes, and the tape stops at the heads (R80). A SPACE, LOCATE or REWIND
completes ABORTED: in DRAINING with nothing else changed, past it with the tape stopped at the heads and the position at the
last header read (R191). An abort of a LOAD lets the memory read finish; in the capture phase the LOAD completes ABORTED in
SEATED; later the tape is unthreaded, from BOT at once, and a rebuild is dropped (R87, R141, R192).
Model's choices: logs 65 (the session phase), 74. -/
def Obligations.AbortOfWriteInIntake : Prop :=
  ∀ (v : Word) (slot : Nat) (r : OrderRec) (s : State), portAtRest s → noneWaits s →
    s.exu.bind ≠ .unbound → s.exu.active = some (slot, v.setWidth 16) → s.ord.record = some r →
    let told := { s with exu.lastAbort := v.setWidth 16, exu.abortOutcome := 1 }
    (∀ k, kindOfCode r.kind = some .write → s.ord.stage = .intake → s.cmp.cursor = some k → Calm s →
      let spm := if s.cmp.blocked then (exclusionEnd s).spm else s.spm
      (k.chunk = 0 →
        exec (.abort v) s =
          .next (complete .aborted .none
            { told with cmp.cursor := none, cmp.marksLeft := 0, cmp.candidate := none, cmp.blocked := false, spm := spm }))
      ∧ (∀ (i : Nat) (kept own : List IndexEntry), s.cmp.index = kept ++ own → openFrame s = some i → s.cmp.sealing = none →
          s.cml.map.isSome = true → 1 ≤ k.chunk → own.length ≤ k.chunk →
          (∀ e ∈ own, e.kind = .data ∧ e.object = eodObject s - 1) →
          (∀ e ∈ kept, e.kind = .data → e.object ≠ eodObject s - 1) →
          let back := kept.foldl (rebuildEntry s.mem (s.bsm.base + i * 1114112 + 32768)) ⟨[], [], 0, 0⟩
          let ceases := own.length = k.chunk
          ∃ u, exec (.abort v) s = .next (complete .aborted .none u) ∧ u.marb = s.marb
            ∧ u.exu = told.exu ∧ u.mem = s.mem ∧ u.bsm = s.bsm ∧ u.fmt = s.fmt ∧ u.mot = s.mot ∧ u.hcm = s.hcm ∧ u.spm = spm
            ∧ u.cmp = { s.cmp with
                index := kept, payloadFill := back.offset, rawCount := back.rawCount, history := back.history,
                table := back.table, cursor := none, marksLeft := 0, candidate := none, blocked := false }
            ∧ back.offset = ((kept.filter (fun e => e.kind = .data)).map (fun e => e.storedLen)).sum
            ∧ back.rawCount = ((kept.filter (fun e => e.kind = .data)).map (fun e => e.rawLen)).sum
            ∧ eodObject u = (if ceases then eodObject s - 1 else eodObject s) ∧ eodBundle u = eodBundle s
            ∧ u.ord.position = (if ceases then eodObject s - 1 else s.ord.position) ∧ u.ord.records = s.ord.records
            ∧ u.ord.record = some r))
    ∧ (kindOfCode r.kind = some .read → s.ord.stage = .reading → s.ord.find = none → s.rdc.phase.active = true →
        s.mot.state = .streamingRead → s.bsm.mode = .read → s.cmp.blocked = false → s.sig = [] → fmtAtRest s → cmlAtRest s →
        ∃ t u, exec (.abort v) s = .next t ∧ u.exu = told.exu ∧ u.mem = s.mem ∧ portAtRest u
          ∧ t = finishActive ⟨.aborted, .none, resultFlags s false s.ord.discardSeen false, s.ord.delivered, s.ord.position,
              s.ord.firstObject.getD s.ord.position, 0, s.ord.extents⟩ u
          ∧ u.ord.position = s.ord.position ∧ u.rdc.next = s.rdc.next ∧ u.dcp.next = s.dcp.next
          ∧ u.bsm.frames = s.bsm.frames.map (fun f => if f.state = .filling then freeFrame else f)
          ∧ u.rdc.phase = .none ∧ u.rdc.assemblies = [] ∧ u.rdc.recovery = none ∧ u.rdc.inBuffer = []
          ∧ u.rdc.resumeAt = some (s.rdc.assemblies.foldl (fun p a => min p a.earliest) (s.rdc.frontier.getD 0))
          ∧ u.dcp.record = none ∧ u.dcp.waiting = false
          ∧ u.mot.state = .stopping ∧ u.mot.splice = some ((headPlace s).getD 0) ∧ u.mot.lock = .unlocked)
    ∧ (∀ kind, kindOfCode r.kind = some kind → kind ∈ [.space, .locate, .rewind] → Calm s →
        (s.ord.stage = .draining → exec (.abort v) s = .next (complete .aborted .none (noteCount told)))
        ∧ (∀ p, s.ord.stage = .positioning → s.mot.pos = some p →
            s.mot.state = .streamingRead ∨ (s.mot.state = .travel ∧ (s.mot.dest = .bot ∨ ∃ n, s.mot.dest = .named n)) →
            let q := s.ord.lastHeader.getD s.ord.position
            ∃ u, exec (.abort v) s =
                .next (finishActive ⟨.aborted, .none, resultFlags s false s.ord.discardSeen false, valueA s, q, valueC s, 0, []⟩ u)
              ∧ u.exu = told.exu ∧ u.mem = s.mem ∧ u.marb = s.marb ∧ u.bsm = s.bsm ∧ u.cmp = s.cmp ∧ u.fmt = s.fmt
              ∧ u.ord.position = q
              ∧ u.mot.state = .stopping ∧ u.mot.splice = some (serpentine s p.wrap p.index) ∧ u.mot.locate = none
              ∧ u.mot.held = none ∧ u.mot.afterRest = .runUp))
    ∧ (kindOfCode r.kind = some .load → s.ord.loadAborted = false → Calm s →
        (s.ord.stage = .loadMemory → exec (.abort v) s = .next { told with ord.loadAborted := true })
        ∧ (s.ord.stage = .loadThreading → s.mot.state = .threading → s.mot.threadPhase = .capture →
            ∃ q u, exec (.abort v) s = .next (finishActive q u) ∧ q.status = .aborted ∧ u.exu = told.exu ∧ u.mem = s.mem
              ∧ u.marb = s.marb ∧ u.mot = { s.mot with state := .seated, leader := .home, threadTimer := none })
        ∧ (s.ord.stage = .loadThreading ∧ s.mot.state = .threading ∧ s.mot.threadPhase ≠ .capture
            ∨ s.ord.stage = .loadCleaning ∧ s.mot.state = .threadedIdle ∧ atBot s = true →
            ∃ t, exec (.abort v) s = .next t ∧ t.mot.state = .unthreading ∧ t.mot.leader = .inPath ∧ t.mot.tension = .off
              ∧ t.mot.unthreadWhy = .abandoned ∧ t.mot.threadTimer = some (s.timebase + 8000)
              ∧ t.ord = { s.ord with loadAborted := true } ∧ t.exu = told.exu ∧ t.mem = s.mem)
        ∧ (s.ord.stage = .loadMap → s.cml.state = .rebuilding → s.mot.state = .streamingRead →
            ∃ t, exec (.abort v) s = .next t ∧ t.cml.state = .held ∧ t.cml.rebuild = none ∧ t.cml.map = none
              ∧ t.cml.stale = s.cml.stale ∧ t.mot.state = .stopping ∧ t.mot.afterRest = .go .bot
              ∧ t.mot.afterRewind = .unthread ∧ t.mot.unthreadWhy = .abandoned
              ∧ t.ord = { s.ord with loadAborted := true } ∧ t.exu = told.exu ∧ t.mem = s.mem))

/-- A read of a register returns the bytes of its value at once, from the byte addressed on: IDENT 4,120 with revision 1;
EXBASE bits 12 to 29 of the base, the outcome code, the binding-in-progress mark and the binding state; POST both marks; ABORT
the last ticket and outcome; COND its 15 bits; and 0 at an address that names none or is write-only. A read of fewer than four
bytes returns those bytes of the register's value.
Model's choices: log 21. -/
def Obligations.RegisterReads : Prop :=
  ∀ (addr : Word) (len : AccessLen) (s : State), 1073741824 ≤ addr.toNat →
    ∃ w, exec (.windowAccess addr len none) s = .next { s with portRead := some w }
      ∧ (len = .four → addr.toNat = 1073741824 → w = 69656)
      ∧ (len = .four → addr.toNat = 1073741828 →
          w.toNat = s.exu.base.getD 0 / 4096 % 262144 * 4096
            + 16 * (match s.exu.outcome with
                | .none => 0 | .baseBad => 1 | .setupBad _ => 2 | .bound => 3 | .boundClamped => 4)
            + (if s.exu.binding.isSome then 4 else 0)
            + (match s.exu.bind with | .unbound => 0 | .bound => 1 | .stalled => 2))
      ∧ (len = .four → addr.toNat = 1073741832 →
          w.toNat = s.exu.postMark.toNat + 65536 * s.exu.takenMark.toNat)
      ∧ (len = .four → addr.toNat = 1073741836 →
          w.toNat = s.exu.lastAbort.toNat + 65536 * (s.exu.abortOutcome % 65536))
      ∧ (len = .four → addr.toNat = 1073741840 → w.toNat = s.exu.cond.toNat)
      ∧ (1073741844 ≤ addr.toNat → w = 0)
      ∧ ∃ whole, exec (.windowAccess (BitVec.ofNat 32 (addr.toNat / 4 * 4)) .four none) s =
            .next { s with portRead := some whole }
          ∧ w.toNat = whole.toNat / 256 ^ (addr.toNat % 4) % 256 ^ len.bytes

/-- An access below 1 GiB is raised as a transfer of the requester PROC; one that runs past the last byte faults by name.
Model's choices: logs 7, 50. -/
def Obligations.WindowAccessIsRaised : Prop :=
  ∀ (addr : Word) (len : AccessLen) (v : Word) (s : State), portAtRest s → addr.toNat < 1073741824 →
    (addr.toNat + len.bytes ≤ 1073741824 →
      exec (.windowAccess addr len none) s =
          .next (portServes ⟨.proc, .windowRead, false, addr.toNat, len.bytes, []⟩ s)
      ∧ exec (.windowAccess addr len (some v)) s =
          .next (portServes ⟨.proc, .windowWrite, true, addr.toNat, len.bytes, toBytes len.bytes v.toNat⟩ s))
    ∧ (1073741824 < addr.toNat + len.bytes → ∀ w, exec (.windowAccess addr len w) s = .fault .outsideMemory)

/-- The burst of a window write that lies in one 512-byte block, outside rows 0 and 1 of every frame, stores its bytes and
nothing else; that of a window read, wherever it lies, returns the bytes memory holds then. The port is free after it. The last
burst of a row that FMT reads puts the row at the end of the out-buffer: rows 0 and 1 as memory holds them, payload rows with
zeros beyond the payload used, parity rows from the working values; a data row read for its first attempt is folded into the
working values, row 0 beginning them, and nothing else changes (R40, R43). With no burst running nothing ends. Here no access of
EXU waits for the port. Model's choices: logs 3, 7, 12 (BURST_DONE with no burst running changes nothing), 17, 30, 58. -/
def Obligations.WindowBurstMovesBytes : Prop :=
  (∀ (a : Nat) (bs : List Byte) (s : State), Calm s → Memory.wf s.mem = true → s.exu.work = [] →
    1 ≤ bs.length → a % 512 + bs.length ≤ 512 →
    (s.marb.transfers = [⟨.proc, .windowWrite, true, a, bs.length, bs⟩] → s.marb.burst = some ⟨.proc, bs.length⟩ →
      (∀ x, a ≤ x → x < a + bs.length → s.bsm.base ≤ x → x < s.bsm.base + s.bsm.frames.length * 1114112 →
        32768 ≤ (x - s.bsm.base) % 1114112) →
      ∃ t, exec .burstDone s = .next t ∧ memReadN t.mem a bs.length = bs
        ∧ (∀ x, (x < a ∨ a + bs.length ≤ x) → memRead t.mem x = memRead s.mem x)
        ∧ t = { s with mem := t.mem, marb.burst := none, marb.transfers := [] })
    ∧ (s.marb.transfers = [⟨.proc, .windowRead, false, a, bs.length, []⟩] → s.marb.burst = some ⟨.proc, bs.length⟩ →
        exec .burstDone s =
          .next { s with portRead := some (BitVec.ofNat 32 (fromBytes (memReadN s.mem a bs.length))),
                         marb.burst := none, marb.transfers := [] })
    ∧ (s.marb.burst = none → exec .burstDone s = .next s))
  ∧ ∀ (r : OutRow) (i : Nat) (f : Frame) (addr n : Nat) (had : List Byte) (s : State),
      s.fmt.reading = some r → frameOf s r.bundle = some i → s.bsm.frames[i]? = some f → 1 ≤ n → s.exu.work = [] →
      s.marb.transfers = [⟨.rowOut, .rowFetch, false, addr, n, had⟩] → s.marb.burst = some ⟨.rowOut, n⟩ →
      let data := had ++ memReadN s.mem addr n
      let work := s.bsm.base + 1114112 * i + 1081344
      let left := ((f.header.map (fun h => h.payloadUsed)).getD 0) - (r.row - 2) * 16384
      let bytes :=
        if r.row < 2 then data
        else if r.row < 66 then data.take left ++ List.replicate (data.length - left) 0
        else parityRow (memReadN s.mem work 32768) r.row
      let mem :=
        if r.row < 66 ∧ r.attempt = 1 then
          memWriteN s.mem work (foldRow (if r.row = 0 then [] else memReadN s.mem work 32768) r.row bytes)
        else s.mem
      let t := { s with mem := mem, marb.burst := none, marb.transfers := [], fmt.reading := none,
                        fmt.outBuffer := s.fmt.outBuffer ++ [{ r with data := bytes }] }
      Calm t → exec .burstDone s = .next t

/-- The grant (R38, R39). While a burst runs, or with nothing raised, it changes nothing; after it a burst runs, or nothing is
raised. Where it goes to EXU with accesses to the exchange area that wait, the oldest is done, one burst, and the port is
granted again (R160; log 6). Otherwise it goes to one requester, for a burst of the first transfer that requester has, up to the
next 512-byte boundary, and changes only what the arbiter records: to ROW_OUT or ROW_IN if one alone is urgent with a request
raised; of two, to the one not granted urgently last; else to the group asking, of two the one not granted last, and in it to
the requester that comes first after the last one granted, round the group's list. ROW_IN is urgent with 6 or more rows in its
buffer, ROW_OUT in STREAMING_WRITE with 2 or fewer in its own; no other requester is ever urgent. Each group's last grantee is
one of that group (the invariant Sound). Model's choices: log 6. -/
def Obligations.GrantAlternates : Prop :=
  ∀ s : State,
    (s.marb.burst.isSome = true → grant s = s)
    ∧ (s.marb.transfers = [] → s.exu.work = [] → grant s = s)
    ∧ portSettled (grant s)
    ∧ (∀ w rest, s.marb.burst = none → s.marb.lastGeneral.group = .general → s.exu.work = w :: rest →
        (urgent s .rowOut && requestRaised s .rowOut) = false → (urgent s .rowIn && requestRaised s .rowIn) = false →
        (∀ q, q.group = .tape → requestRaised s q = false) ∨ s.marb.lastGroup = .tape →
        (∀ q, q.group = .general → requestRaised s q = true →
          turnsAfter s.marb.lastGeneral .exu ≤ turnsAfter s.marb.lastGeneral q) →
        grant s = grant (perform w { s with exu.work := rest, marb := exuGranted s }))
    ∧ (∀ r, urgent s r =
        ((decide (r = .rowIn) && decide (6 ≤ s.rdc.inBuffer.length))
          || (decide (r = .rowOut) && decide (s.mot.state = .streamingWrite) && decide (s.fmt.outBuffer.length ≤ 2))))
    ∧ ∀ r t, s.marb.burst = none → GrantsSound s.marb.lastTape s.marb.lastGeneral →
        s.marb.transfers.find? (fun x => x.who = r) = some t → (r = .exu → s.exu.work = []) →
        let out := urgent s .rowOut && requestRaised s .rowOut
        let inn := urgent s .rowIn && requestRaised s .rowIn
        let granted := fun u : Bool => { s with
          marb.burst := some ⟨r, min t.left (512 - t.addr % 512)⟩, marb.lastGroup := r.group,
          marb.lastTape := if r.group = .tape then r else s.marb.lastTape,
          marb.lastGeneral := if r.group = .general then r else s.marb.lastGeneral,
          marb.lastUrgent := if u then r else s.marb.lastUrgent }
        (r = .rowOut → out = true → inn = false → grant s = granted true)
        ∧ (r = .rowIn → out = false → inn = true → grant s = granted true)
        ∧ (r = (if s.marb.lastUrgent = .rowOut then .rowIn else .rowOut) → out = true → inn = true →
            grant s = granted true)
        ∧ (out = false → inn = false →
            (∀ q, q.group ≠ r.group → requestRaised s q = false) ∨ s.marb.lastGroup ≠ r.group →
            (∀ q, q.group = r.group → requestRaised s q = true →
              turnsAfter (if r.group = .tape then s.marb.lastTape else s.marb.lastGeneral) r
                ≤ turnsAfter (if r.group = .tape then s.marb.lastTape else s.marb.lastGeneral) q) →
            grant s = granted false)


/-! ### Conditions, completions, refusals -/

/-- A condition raised while BOUND or STALLED: its raise count rises by one up to 65,535, and what EXU keeps of the latest
CARTRIDGE and TAPE_READY becomes the detail raised. At a memory port at rest its detail cell is written with the detail, the time
and that count by one access of EXU, then its bit is set, and nothing else changes; while a burst holds the port the access waits.
The access, when it is done, writes those 16 bytes and sets the bit.
While UNBOUND, CARTRIDGE and TAPE_READY set their bit and replace their held detail, DATA_DISCARDED adds to its own, and the
others leave the state as it is.
Model's choices: log 6, and log 80 for bytes 14 and 15 of the cell. -/
def Obligations.RaisedCondition : Prop :=
  ∀ (c : Condition) (a b d : Nat) (s : State), Memory.wf s.mem = true → s.exu.raises.length = 15 →
    (s.exu.bind ≠ .unbound → portAtRest s →
      (raise c a b d s).exu.raises = s.exu.raises.set c.bit (min (s.exu.raises.getD c.bit 0 + 1) 65535)
      ∧ memReadN (raise c a b d s).mem (exchangeBase s + 512 + 16 * c.bit) 16 =
          toBytes 4 a ++ toBytes 2 b ++ toBytes 2 d ++ toBytes 4 s.timebase.toNat
            ++ toBytes 2 (min (s.exu.raises.getD c.bit 0 + 1) 65535) ++ [0, 0]
      ∧ (∀ x, (x < exchangeBase s + 512 + 16 * c.bit ∨ exchangeBase s + 528 + 16 * c.bit ≤ x) →
          memRead (raise c a b d s).mem x = memRead s.mem x)
      ∧ (∀ i : Nat, i < 15 →
          (raise c a b d s).exu.cond.getLsbD i = (s.exu.cond.getLsbD i || decide (i = c.bit)))
      ∧ (raise c a b d s).marb = exuGranted s
      ∧ { raise c a b d s with mem := s.mem, exu := s.exu, marb := s.marb } = s
      ∧ { (raise c a b d s).exu with raises := s.exu.raises, cond := s.exu.cond, lastCartridge := s.exu.lastCartridge,
                                     lastTapeReady := s.exu.lastTapeReady } = s.exu
      ∧ (raise c a b d s).exu.lastCartridge =
          (if c = .cartridge then some ⟨a, b, d, s.timebase⟩ else s.exu.lastCartridge)
      ∧ (raise c a b d s).exu.lastTapeReady =
          (if c = .tapeReady then some ⟨a, b, d, s.timebase⟩ else s.exu.lastTapeReady))
    ∧ (s.exu.bind ≠ .unbound → s.marb.burst.isSome = true →
        let count := min (s.exu.raises.getD c.bit 0 + 1) 65535
        raise c a b d s = { s with
          exu.raises := s.exu.raises.set c.bit count,
          exu.lastCartridge := if c = .cartridge then some ⟨a, b, d, s.timebase⟩ else s.exu.lastCartridge,
          exu.lastTapeReady := if c = .tapeReady then some ⟨a, b, d, s.timebase⟩ else s.exu.lastTapeReady,
          exu.work := s.exu.work ++ [.cell c ⟨a, b, d, s.timebase⟩ count] })
    ∧ (∀ (time : Time) (count : Nat),
        let t := perform (.cell c ⟨a, b, d, time⟩ count) s
        memReadN t.mem (exchangeBase s + 512 + 16 * c.bit) 16 =
            toBytes 4 a ++ toBytes 2 b ++ toBytes 2 d ++ toBytes 4 time.toNat ++ toBytes 2 count ++ [0, 0]
        ∧ (∀ x, (x < exchangeBase s + 512 + 16 * c.bit ∨ exchangeBase s + 528 + 16 * c.bit ≤ x) →
            memRead t.mem x = memRead s.mem x)
        ∧ (∀ i : Nat, i < 15 → t.exu.cond.getLsbD i = (s.exu.cond.getLsbD i || decide (i = c.bit)))
        ∧ { t with mem := s.mem, exu.cond := s.exu.cond } = s)
    ∧ (s.exu.bind = .unbound → c = .cartridge →
        raise c a b d s = { s with exu.cond := s.exu.cond ||| 4, exu.heldCartridge := some ⟨a, b, d, s.timebase⟩,
                                   exu.lastCartridge := some ⟨a, b, d, s.timebase⟩ })
    ∧ (s.exu.bind = .unbound → c = .tapeReady →
        raise c a b d s = { s with exu.cond := s.exu.cond ||| 8, exu.heldTapeReady := some ⟨a, b, d, s.timebase⟩,
                                   exu.lastTapeReady := some ⟨a, b, d, s.timebase⟩ })
    ∧ (s.exu.bind = .unbound → c = .dataDiscarded →
        raise c a b d s = { s with exu.cond := s.exu.cond ||| 1024,
                                   exu.heldDiscarded := some ⟨min ((s.exu.heldDiscarded.map (fun h => h.a)).getD 0 + a)
                                     4294967295, b, d, s.timebase⟩ })
    ∧ (s.exu.bind = .unbound → c ≠ .cartridge → c ≠ .tapeReady → c ≠ .dataDiscarded → raise c a b d s = s)

/-- ALERT is asserted while a COND bit of the alert set is set, ATTN while any other is, in every binding state and for the bits
already set when a TUNE changes the alert set; a value given for the alert set never takes in COMPLETIONS, whose bit so drives
ATTN; a soft reset keeps the alert set, and a hard reset empties it. -/
def Obligations.LinesFollowCond : Prop :=
  ∀ (x : Sensors) (s : State),
    (alert s = true ↔ ∃ i : Nat, i < 15 ∧ s.exu.cond.getLsbD i = true ∧ s.exu.alertSet.getLsbD i = true)
    ∧ (attn s = true ↔ ∃ i : Nat, i < 15 ∧ s.exu.cond.getLsbD i = true ∧ s.exu.alertSet.getLsbD i = false)
    ∧ (∀ v : Nat, (alertSetOf v).getLsbD 0 = false ∧ ∀ i : Nat, 0 < i → i < 15 → (alertSetOf v).getLsbD i = v.testBit i)
    ∧ (s.exu.alertSet.getLsbD 0 = false → s.exu.cond.getLsbD 0 = true → attn s = true)
    ∧ (∀ (n : Named) (frames v : Nat), namedAt n 10 = some v →
        (applyTunables n frames s).exu.alertSet = alertSetOf v ∧ (applyTunables n frames s).exu.cond = s.exu.cond)
    ∧ (softResetState s).exu.alertSet = s.exu.alertSet ∧ (hardResetState x s).exu.alertSet = 0

/-- A completion at a memory port at rest writes the 112 bytes of the result into the result area and then DONE into the state
byte of the active slot, and no other byte of memory; the slot is active no more, the completion is counted, and ORD holds no
order. While the count stays below the trigger, with a quiet time above 0, the quiet timer is started afresh. When the count
reaches the trigger, or with a quiet time of 0, COMPLETIONS is raised with the count and the ticket, the count is 0 and the timer
stops. Then EXU looks for the next order; with none posted, or not BOUND, that is nothing. While a burst holds the port both
writes wait, and ORD holds no order from then on.
Model's choices: log 6. -/
def Obligations.CompletionWrites : Prop :=
  ∀ (r : OrderResult) (slot : Nat) (k : Ticket) (s : State), Memory.wf s.mem = true → s.exu.active = some (slot, k) →
    let n := min (s.exu.count + 1) 65535
    let dropped := { s.ord with record := none, stage := .checking, releaseMark := none, find := none, append := none,
                                outcome := none }
    (∀ x : State, portSettled x → x.exu.bind ≠ .bound ∨ noneWaits x → lookForOrder x = x)
    ∧ (s.marb.burst.isSome = true → s.exu.work.any ExuWork.completes = false →
        finishActive r s = { s with ord := dropped, exu.work := s.exu.work ++ [.result slot r, .done slot k true] })
    ∧ (portAtRest s → ∃ u : State,
      memRead u.mem (slotAddress (exchangeBase s) slot) = 3
      ∧ memReadN u.mem (slotAddress (exchangeBase s) slot + 144) 112 =
          toBytes 1 r.status.code ++ toBytes 1 r.reason.code ++ toBytes 2 r.flags ++ toBytes 4 r.a ++ toBytes 4 r.b
            ++ toBytes 4 r.c ++ toBytes 4 r.d ++ List.replicate 12 0 ++ extentTable r.extents ++ List.replicate 16 0
      ∧ (∀ x, x ≠ slotAddress (exchangeBase s) slot →
          (x < slotAddress (exchangeBase s) slot + 144 ∨ slotAddress (exchangeBase s) slot + 256 ≤ x) →
          memRead u.mem x = memRead s.mem x)
      ∧ u.ord = dropped ∧ u.marb = exuGranted s
      ∧ { u with mem := s.mem, ord := s.ord, marb := s.marb } = s
      ∧ (n < s.exu.trigger → s.exu.quietTime ≠ 0 →
          finishActive r s =
            lookForOrder { u with exu := { s.exu with
                active := none, count := n, lastTicket := k,
                quietTimer := some (s.timebase + BitVec.ofNat 32 s.exu.quietTime) } })
      ∧ (s.exu.trigger ≤ n ∨ s.exu.quietTime = 0 →
          finishActive r s =
            lookForOrder (raise .completions n k.toNat 0
              { u with exu := { s.exu with active := none, count := 0, lastTicket := k, quietTimer := none } })))

/-- An order TAKEN that fails a take-time check completes at once with that check's status and the offset it names, and
nothing else is done for it. The checks in their order: the count and the body fields, each at its offset; the extents; the
drive's readiness for the kind; and for a WRITE or MARK the cartridge type known, the tab, the fence, and the position of an
append-only cartridge. An order that meets them all passes.
Model's choices: log 5. -/
def Obligations.OrderFailingItsChecks : Prop :=
  ∀ (k : Kind) (r : OrderRec) (s : State),
    (∀ st off, OrderTaken k r s → Calm s → portAtRest s → noneWaits s → s.exu.active.isSome = true →
      meetsDeferred s k = none → takeFault s r k = some (st, off) →
      exec (orderCommand k) s =
        .next (finishActive ⟨st, .none, resultFlags s false s.ord.discardSeen false, off, s.ord.position, 0, 0, []⟩ s))
    ∧ (k = .write ∨ k = .read → r.count = 0 ∨ 16 < r.count → takeFault s r k = some (.badOrder, 6))
    ∧ (k = .write ∨ k = .read → 1 ≤ r.count → r.count ≤ 16 →
        ∀ i, i < r.count → bodyField r (20 + 8 * i) 4 = 0 ∨ 16777216 < bodyField r (20 + 8 * i) 4 →
          (∀ j, j < i → 1 ≤ bodyField r (20 + 8 * j) 4 ∧ bodyField r (20 + 8 * j) 4 ≤ 16777216) →
          takeFault s r k = some (.badRecordLength, 20 + 8 * i))
    ∧ (k = .mark → r.count = 0 ∨ 255 < r.count → takeFault s r k = some (.badOrder, 6))
    ∧ (k = .space → bodyField r 16 4 = 2147483648 → takeFault s r k = some (.badOrder, 16))
    ∧ (k = .space → bodyField r 16 4 ≠ 2147483648 → 1 < bodyField r 20 1 → takeFault s r k = some (.badOrder, 20))
    ∧ (k = .locate → 1 < bodyField r 20 1 → takeFault s r k = some (.badOrder, 20))
    ∧ (k = .check → bodyField r 20 4 = 0 ∨ 1048576 < bodyField r 20 4 →
        takeFault s r k = some (.badRecordLength, 20))
    ∧ (k = .check → 1 ≤ bodyField r 20 4 → bodyField r 20 4 ≤ 1048576 →
        bodyField r 28 4 = 0 ∨ 1048576 < bodyField r 28 4 → takeFault s r k = some (.badRecordLength, 28))
    ∧ (BodyPasses k r → (∃ e ∈ orderExtents k r, ¬ExtentFree s e) → takeFault s r k = some (.memoryFault, 0))
    ∧ (BodyPasses k r → (∀ e ∈ orderExtents k r, ExtentFree s e) →
        (s.mot.state = .empty → NeedsTape k s ∨ k = .load ∨ k = .unload → takeFault s r k = some (.noTape, 0))
        ∧ (s.mot.state ≠ .empty → k = .load → s.fmt.phase = .held → takeFault s r k = some (.notReady, 0))
        ∧ (s.mot.state ≠ .empty → NeedsTape k s → s.cml.state = .held → cartType s = some .cleaning →
            takeFault s r k = some (.cleanerLoaded, 0))
        ∧ (s.mot.state ≠ .empty → NeedsTape k s → ¬(s.cml.state = .held ∧ cartType s = some .cleaning) →
            s.cml.state ≠ .loaded ∨ s.mot.state = .stranded ∨ s.mot.state = .faultHeld →
            takeFault s r k = some (.notReady, 0))
        ∧ (s.mot.state ∉ [.empty, .stranded, .faultHeld] → s.cml.state = .loaded → k = .write ∨ k = .mark →
            takeFault s r k =
              if cartType s = none then some (.cmFault, 0)
              else if s.mot.tab = true then some (.writeProtected, 0)
              else if s.hcm.fence = true then some (.headFenced, 0)
              else if cartType s = some .appendOnly ∧ s.ord.position ≠ eodObject s then some (.appendOnlyRefused, 0)
              else none)
        ∧ (s.mot.state ∉ [.empty, .stranded, .faultHeld] → s.cml.state = .loaded →
            k ∈ [.flush, .read, .space, .locate, .rewind] → takeFault s r k = none)
        ∧ (k ∈ [.tune, .report, .check] ∨ (k = .flush ∧ ¬NeedsTape k s)
            ∨ (s.mot.state ≠ .empty ∧ (k = .unload ∨ (k = .load ∧ s.fmt.phase ≠ .held))) → takeFault s r k = none))

/-- With a deferred error pending, the next order TAKEN of a kind other than REPORT and TUNE completes DEFERRED_ERROR with the
bundle and the reason of the fault and the DATA_DISCARDED flag, and does nothing else; the error is pending no more.
Model's choices: log 5. -/
def Obligations.DeferredErrorMet : Prop :=
  ∀ (k : Kind) (r : OrderRec) (b : Nat) (why : FaultReason) (s : State), OrderTaken k r s → Calm s → portAtRest s →
    noneWaits s → s.exu.active.isSome = true → s.ord.deferred = some (b, why) → k ≠ .report → k ≠ .tune →
    exec (orderCommand k) s =
      .next (finishActive ⟨.deferredError, .none, resultFlags s false true false, 0, s.ord.position, b,
        (match why with | .rowFailure => 1 | .endOfMedia => 2), []⟩ { s with ord.deferred := none })

/-! ### The orders -/

/-- A WRITE that passes its checks with the position at the EOD object begins its intake: the first chunk of its first record
is read through CMP_IN. With the position below the EOD object and the store at rest it searches for its append point.
Model's choices: logs 5, 15, 29. -/
def Obligations.WriteBegins : Prop :=
  ∀ (r : OrderRec) (s : State), OrderPasses .write r s → Calm s → portAtRest s →
    (s.bsm.mode ≠ .read → s.ord.fenceSeen = false → eodObject s ≤ s.ord.position →
      exec .write s =
        .next (portServes ⟨.cmpIn, .chunkIn, false, (descriptor r 0).start, min 32768 (descriptor r 0).length, []⟩
          { s with ord.stage := .intake, ord.append := none, ord.find := none, cmp.cursor := some ⟨0, 0, 0⟩,
                   cmp.candidate := none }))
    ∧ (StoreAtRest s → s.ord.position < eodObject s → searchOnTape s s.ord.position →
        s.mot.state = .threadedIdle ∨ s.mot.state = .positioned →
        ∃ t, exec .write s = .next t ∧ SearchBegun s.ord.position s t ∧ t.ord.stage = .settling)

/-- A MARK with a bundle open that has room commits one MARK entry for each mark of its count, each with the next object
number; the history, the table and the payload are not touched. Without SYNC it completes OK with the marks committed and the
first mark's object number. With SYNC it enters WAITING, its SYNC seal begun and the release mark one past the bundle sealed.
Marks that bring the index to 1,024 entries seal the bundle with cause INDEX; those left over wait for the seal.
With no frame OPEN the lowest FREE one is opened first, and with none FREE intake is blocked (R3, R4, R11, R16, R28).
At the seal's beginning the frame holds the header and index and CMP's values are those of a new bundle. A completion in the
step of a seal's beginning has its writes wait for the port behind the seal's, but one that EXU's turn brings before.
Model's choices: logs 5, 6, 11, 28, and for the seal's beginning logs 9, 30. -/
def Obligations.MarkCommitsItsMarks : Prop :=
  ∀ (r : OrderRec) (i slot : Nat) (k : Ticket) (s : State), OrderPasses .mark r s → Calm s → portAtRest s → noneWaits s →
    s.exu.active = some (slot, k) → s.bsm.mode ≠ .read → s.ord.fenceSeen = false →
    s.cmp.sealing = none → s.cmp.candidate = none → s.cml.map.isSome = true → 1 ≤ r.count →
    s.ord.marks = 0 → s.ord.firstObject = none →
    let marked (n : Nat) : List IndexEntry :=
      s.cmp.index ++ (List.range n).map (fun j => ⟨.mark, eodObject s + j, false, false, .plain, 0, 0⟩)
    (s.bsm.mode = .write → openFrame s = some i → s.cmp.index.length + r.count < 1024 → r.sync = false →
      ∃ t u, exec .mark s = .next t
        ∧ t = finishActive ⟨.ok, .none, resultFlags s false s.ord.discardSeen false, r.count, eodObject s + r.count,
                eodObject s, 0, []⟩ u
        ∧ u.marb = s.marb ∧ u.mem = s.mem ∧ u.exu = s.exu ∧ u.bsm = s.bsm ∧ u.fmt = s.fmt ∧ u.mot = s.mot
        ∧ u.cmp = { s.cmp with index := marked r.count, marksLeft := 0, idleTimer := some (after s s.cmp.idleSeal) }
        ∧ eodObject u = eodObject s + r.count ∧ eodBundle u = eodBundle s ∧ u.ord.position = eodObject s + r.count)
    ∧ (s.bsm.mode = .write → openFrame s = some i → s.cmp.index.length + r.count < 1024 → r.sync = true →
        s.bsm.verifiedThrough ≤ s.bsm.sealedThrough →
        ∃ t, exec .mark s = .next t ∧ SealBegun .sync i (marked r.count) s.cmp.payloadFill false s t
          ∧ t.ord.record = some r ∧ t.ord.stage = .waiting ∧ t.ord.releaseMark = some (s.bsm.sealedThrough + 1)
          ∧ t.ord.marks = r.count ∧ t.ord.firstObject = some (eodObject s) ∧ t.ord.position = eodObject s + r.count
          ∧ eodObject t = eodObject s + r.count ∧ t.mem = s.mem ∧ t.exu = s.exu ∧ t.fmt = s.fmt)
    ∧ (s.bsm.mode = .write → openFrame s = some i → s.cmp.index.length < 1024 → 1024 ≤ s.cmp.index.length + r.count →
        let n := 1024 - s.cmp.index.length
        n < r.count ∨ r.sync = false →
        ∃ t, exec .mark s = .next t ∧ SealBegun .index i (marked n) s.cmp.payloadFill false s t
          ∧ eodObject t = eodObject s + n ∧ t.ord.position = eodObject s + n ∧ t.cmp.marksLeft = r.count - n
          ∧ (n < r.count → t.ord.record = some r ∧ t.ord.stage = .intake ∧ t.ord.marks = n ∧ t.mem = s.mem ∧ t.exu = s.exu)
          ∧ (n = r.count → CompletionHanded slot k ⟨.ok, .none, resultFlags s false s.ord.discardSeen false, r.count,
                  eodObject s + r.count, eodObject s, 0, []⟩ s t))
    ∧ (openFrame s = none → s.cmp.blocked = false →
        (∃ f ∈ s.bsm.frames, f.state.writeMode = true) ∨ eodObject s ≤ s.ord.position →
        (LowestFree i s → exec .mark s = exec .mark (bundleOpened i s) ∧ openFrame (bundleOpened i s) = some i)
        ∧ ((∀ f ∈ s.bsm.frames, f.state ≠ .free) →
            exec .mark s =
              .next { s with ord.stage := .intake, ord.append := none, ord.find := none, cmp.marksLeft := r.count,
                             cmp.blocked := true, spm.openSince := some s.timebase }))

/-- A FLUSH that finds the store at rest completes OK at once. One that finds write-mode frames enters WAITING: an open bundle
with entries is sealed with cause FLUSH; a seal being written is marked as met by it; an open bundle without entries gives its
frame back to FREE, and the FLUSH completes OK when no other write-mode frame was held. With no bundle open and SEALED frames
held, FMT in STOPPED asks MOT to restart; in another phase nothing more follows (R15, R16, R58, R186).
Model's choices: logs 5, 11, and for a seal's beginning and one being written logs 9, 30. -/
def Obligations.FlushOfStoreAtRest : Prop :=
  ∀ (r : OrderRec) (i : Nat) (s : State), OrderPasses .flush r s → Calm s → portAtRest s → noneWaits s →
    s.exu.active.isSome = true →
    (StoreAtRest s → s.fmt.phase = .stopped →
      exec .flush s =
        .next (finishActive ⟨.ok, .none, resultFlags s false s.ord.discardSeen false, 0, s.ord.position, 0, 0, []⟩ s))
    ∧ (∀ x, s.cmp.sealing = some x → (∃ f ∈ s.bsm.frames, f.state.writeMode = true) →
        exec .flush s = .next { s with ord.stage := .waiting, cmp.sealing := some { x with flushSeen := true } })
    ∧ (s.cmp.sealing = none → openFrame s = some i → s.cmp.index ≠ [] →
        ∃ t, exec .flush s = .next t
          ∧ SealBegun .flush i s.cmp.index s.cmp.payloadFill s.cmp.candidate.isSome s t
          ∧ { t with bsm := s.bsm, cmp := s.cmp, marb := s.marb } = { s with ord.stage := .waiting })
    ∧ (s.cmp.sealing = none → openFrame s = some i → s.cmp.index = [] → s.bsm.mode = .write → s.fmt.phase ≠ .stopped →
        (∃ j f, j ≠ i ∧ s.bsm.frames[j]? = some f ∧ f.state.writeMode = true) →
        exec .flush s =
          .next { s with ord.stage := .waiting, bsm.frames := s.bsm.frames.set i freeFrame, cmp.idleTimer := none,
                         cmp.history := [], cmp.table := [], cmp.payloadFill := 0, cmp.rawCount := 0 })
    ∧ (s.cmp.sealing = none → openFrame s = some i → s.cmp.index = [] → s.bsm.mode = .write → s.bsm.claims = [] →
        (∀ j f, j ≠ i → s.bsm.frames[j]? = some f → f.state = .free) → s.fmt.phase = .stopped →
        ∃ t u, exec .flush s = .next t ∧ u.marb = s.marb ∧ u.mem = s.mem ∧ u.exu = s.exu ∧ u.fmt = s.fmt ∧ u.mot = s.mot
          ∧ u.bsm = { s.bsm with frames := s.bsm.frames.set i freeFrame, mode := .idle }
          ∧ t = finishActive ⟨.ok, .none, resultFlags s false s.ord.discardSeen false, 0, s.ord.position, 0, 0, []⟩ u)
    ∧ (s.cmp.sealing = none → openFrame s = none → (∃ f ∈ s.bsm.frames, f.state.writeMode = true) →
        s.fmt.phase ≠ .stopped ∨ (∀ f ∈ s.bsm.frames, f.state ≠ .sealed) →
        exec .flush s = .next { s with ord.stage := .waiting })
    ∧ (s.cmp.sealing = none → openFrame s = none → (∃ f ∈ s.bsm.frames, f.state = .sealed) → s.fmt.phase = .stopped →
        s.fmt.cursor.isSome = true → s.fmt.reading.isSome = true →
        s.mot.state = .positioned ∨ s.mot.state = .threadedIdle →
        (∃ p, s.fmt.startPoint.or s.mot.splice = some p ∧ p < physicalEnd s) →
        ∃ t, exec .flush s = .next t ∧ t.fmt.phase = .emitting ∧ (t.mot.state = .starting ∨ t.mot.state = .travel)
          ∧ t.ord = { s.ord with stage := .waiting } ∧ t.bsm = s.bsm ∧ t.cmp = s.cmp ∧ t.mem = s.mem ∧ t.exu = s.exu)

/-- A READ that passes its checks with the store at rest: at the EOD object it completes DONE_SHORT with END_OF_DATA and
delivers nothing; below it, it searches for the bundle that holds the position's object.
Model's choices: logs 5, 15. -/
def Obligations.ReadBegins : Prop :=
  ∀ (r : OrderRec) (s : State), OrderPasses .read r s → Calm s → portAtRest s → StoreAtRest s → s.dcp.phase = .idle →
    (noneWaits s → s.exu.active.isSome = true → eodObject s ≤ s.ord.position → s.dcp.waiting = false →
      exec .read s =
        .next (finishActive ⟨.doneShort, .endOfData, resultFlags s false s.ord.discardSeen false, s.ord.delivered,
          s.ord.position, s.ord.firstObject.getD s.ord.position, 0, s.ord.extents⟩ { s with dcp.record := none }))
    ∧ (s.ord.position < eodObject s → searchOnTape s s.ord.position →
        s.mot.state = .threadedIdle ∨ s.mot.state = .positioned →
        ∃ t, exec .read s = .next t ∧ SearchBegun s.ord.position s t ∧ t.ord.stage = .reading)

/-- A SPACE of count 0 completes OK at once. A SPACE forward searches for the bundle of the position's object, one backward
for that of the object before it, with the magnitude of the count as residual. A LOCATE of an object below the EOD object
searches for its bundle; one above it completes NOT_FOUND with no motion; one of the EOD object, or in mode EOD, travels to
the end position.
Model's choices: logs 5, 39. -/
def Obligations.SpaceAndLocateBegin : Prop :=
  ∀ (r : OrderRec) (s : State), Calm s → portAtRest s → StoreAtRest s →
    s.mot.state = .threadedIdle ∨ s.mot.state = .positioned →
    (OrderPasses .space r s → spaceCount r = 0 → noneWaits s → s.exu.active.isSome = true →
      exec .space s =
        .next (finishActive ⟨.ok, .none, resultFlags s false s.ord.discardSeen false, 0, s.ord.position, 0, 0, []⟩
          { s with ord.residual := 0 }))
    ∧ (OrderPasses .space r s → 0 < spaceCount r → s.ord.position < eodObject s → searchOnTape s s.ord.position →
        ∃ t, exec .space s = .next t ∧ SearchBegun s.ord.position s t ∧ t.ord.residual = (spaceCount r).natAbs)
    ∧ (OrderPasses .space r s → spaceCount r < 0 → 0 < s.ord.position → searchOnTape s (s.ord.position - 1) →
        ∃ t, exec .space s = .next t ∧ SearchBegun (s.ord.position - 1) s t ∧ t.ord.residual = (spaceCount r).natAbs)
    ∧ (OrderPasses .locate r s → bodyField r 20 1 = 0 → bodyField r 16 4 < eodObject s → searchOnTape s (bodyField r 16 4) →
        ∃ t, exec .locate s = .next t ∧ SearchBegun (bodyField r 16 4) s t ∧ t.ord.stage = .positioning)
    ∧ (OrderPasses .locate r s → bodyField r 20 1 = 0 → eodObject s < bodyField r 16 4 → noneWaits s →
        s.exu.active.isSome = true → s.ord.located = none →
        exec .locate s =
          .next (finishActive ⟨.notFound, .none, resultFlags s false s.ord.discardSeen false, 0, s.ord.position,
            4294967295, 0, []⟩ s))
    ∧ (OrderPasses .locate r s → (bodyField r 20 1 = 1 ∨ bodyField r 16 4 = eodObject s) →
        ∃ t, exec .locate s = .next t ∧ t.mot.state = .travel ∧ t.mot.dest = .named (endPosition s)
          ∧ t.ord.record = s.ord.record ∧ t.ord.position = s.ord.position ∧ t.mem = s.mem)

/-- A REWIND with the heads at BOT in THREADED_IDLE completes OK without motion, the position 0; elsewhere the tape travels to
BOT.
Model's choices: log 5. -/
def Obligations.RewindGoesToBot : Prop :=
  ∀ (r : OrderRec) (p : Pos) (s : State), OrderPasses .rewind r s → Calm s → portAtRest s → StoreAtRest s →
    s.mot.pos = some p →
    (s.mot.state = .threadedIdle → p.wrap = 0 → p.index = 0 → noneWaits s → s.exu.active.isSome = true →
      exec .rewind s =
        .next (finishActive ⟨.ok, .none, resultFlags s false s.ord.discardSeen false, 0, 0, 0, 0, []⟩
          { s with ord.position := 0 }))
    ∧ (s.mot.state = .positioned ∨ (s.mot.state = .threadedIdle ∧ ¬(p.wrap = 0 ∧ p.index = 0)) →
        ∃ t, exec .rewind s = .next t ∧ t.mot.state = .travel ∧ t.mot.dest = .bot ∧ t.mot.splice = none
          ∧ t.mot.dwellTimer = none ∧ t.ord.stage = .positioning ∧ t.ord.record = s.ord.record
          ∧ t.ord.position = s.ord.position ∧ t.mem = s.mem ∧ t.spm.session = .none)

/-- A LOAD of a seated cartridge not yet known begins the read of cartridge memory; one of a cartridge already in service
completes OK with the position unchanged.
Model's choices: logs 5, 26. -/
def Obligations.LoadBegins : Prop :=
  ∀ (r : OrderRec) (s : State), OrderPasses .load r s → Calm s → portAtRest s → StoreAtRest s →
    (s.cml.state ≠ .loaded → s.cml.access = none →
      exec .load s =
        .next { s with ord.stage := .loadMemory, cml.access := some ⟨.loadRead, 1, none, false⟩,
                       cml.accesses := min (s.cml.accesses + 1) 4294967295 })
    ∧ (s.cml.state = .loaded → s.mot.state ≠ .stranded → s.mot.state ≠ .faultHeld → noneWaits s →
        s.exu.active.isSome = true →
        exec .load s =
          .next (finishActive ⟨.ok, .none, resultFlags s false s.ord.discardSeen false, cartTypeCode s, s.ord.position,
            orAbsent (s.cml.map.map (fun m => m.eodObject)), orAbsent (s.cml.map.map (fun m => m.eodBundle)), []⟩
            { s with spm.session := .none, spm.start := none }))

/-- An UNLOAD in SEATED has the cartridge driven out. Of a loaded tape with the store at rest and the heads at BOT in
THREADED_IDLE it writes cartridge memory, the dirty flag clear, with the directory and the end-of-data record.
Model's choices: log 5. -/
def Obligations.UnloadBegins : Prop :=
  ∀ (r : OrderRec) (s : State), OrderPasses .unload r s → Calm s → portAtRest s →
    (s.mot.state = .seated →
      exec .unload s = .next { s with ord.stage := .unloadUnthread, mot.ejecting := true })
    ∧ (StoreAtRest s → s.fmt.phase = .stopped → s.mot.state = .threadedIdle →
        (s.mot.pos.map (fun p => (p.wrap, p.index))) = some (0, 0) → s.cml.state = .loaded → s.cml.readable = true →
        s.cml.access = none →
        exec .unload s =
          .next { s with ord.stage := .unloadMemory, spm.session := .none, spm.start := none,
                         cml.access := some ⟨.unloadWrite, 1, some ⟨loadCountOf s, some false, none,
                           s.cml.map.map (fun m => ⟨m.eodBundle, m.eodObject, m.endWrap, m.endIndex⟩),
                           some (directory s)⟩, false⟩,
                         cml.accesses := min (s.cml.accesses + 1) 4294967295 })

/-- A TUNE whose resulting speed table ascends takes every named value, clamped by its owner, leaves the others, and completes
OK, with the CLAMPED flag when a value does not stand as it was given; one whose table would not ascend completes BAD_ORDER
with the offset of the first named entry not above the one before, or of the lowest named entry, and applies nothing.
Model's choices: logs 5, 43, 81, and log 88 (a value of the alert set with bits 15 to 31 set is taken as given, those bits
dropped). -/
def Obligations.TuneTakesNamedValues : Prop :=
  ∀ (r : OrderRec) (s : State), OrderPasses .tune r s → Sound s → Calm s → portAtRest s → noneWaits s →
    s.exu.active.isSome = true →
    let n := tuneNamed r
    let table := (List.range 6).map (fun i => clamp 8192 262144 ((namedAt n (13 + i)).getD (s.spm.table.getD i 0)))
    let notAbove := fun i => 0 < i ∧ table.getD i 0 ≤ table.getD (i - 1) 0
    let flags := fun clamped : Bool => (if s.ord.discardSeen then 4 else 0) + (if clamped then 8 else 0)
    ((∀ i, i < 6 → ¬notAbove i) →
      ∃ (u : State) (clamped : Bool),
        exec .tune s = .next (finishActive ⟨.ok, .none, flags clamped, 0, s.ord.position, 0, 0, []⟩ u) ∧ portAtRest u
        ∧ u.cmp.compression = ((namedAt n 0).map (fun v => decide (v ≠ 0))).getD s.cmp.compression
        ∧ u.cmp.idleSeal = ((namedAt n 1).map (clamp 100 10000)).getD s.cmp.idleSeal
        ∧ u.fmt.threshold = ((namedAt n 2).map (min 8)).getD s.fmt.threshold
        ∧ u.fmt.restart = ((namedAt n 3).map (fun v => min (clamp 1 32 v) (s.bsm.frames.length / 2))).getD s.fmt.restart
        ∧ u.rdc.limit = ((namedAt n 4).map (clamp 1 8)).getD s.rdc.limit
        ∧ u.mot.dwellTime = ((namedAt n 5).map (fun v => if v = 0 then 0 else clamp 10 600 v)).getD s.mot.dwellTime
        ∧ u.hcm.advise = clamp 256 32768 ((namedAt n 6).getD s.hcm.advise)
        ∧ u.hcm.require = max u.hcm.advise (min 49152 ((namedAt n 7).getD s.hcm.require))
        ∧ u.hcm.retire = max u.hcm.require (min 65535 ((namedAt n 8).getD s.hcm.retire))
        ∧ u.hcm.hours = ((namedAt n 9).map (clamp 3600 1800000)).getD s.hcm.hours
        ∧ (namedAt n 10 = none → u.exu.alertSet = s.exu.alertSet)
        ∧ (∀ v, namedAt n 10 = some v → u.exu.alertSet.getLsbD 0 = false
            ∧ ∀ i : Nat, 0 < i → i < 15 → u.exu.alertSet.getLsbD i = v.testBit i)
        ∧ u.exu.trigger = ((namedAt n 11).map (clamp 1 16)).getD s.exu.trigger
        ∧ u.exu.quietTime = ((namedAt n 12).map (min 255)).getD s.exu.quietTime
        ∧ u.spm.table = table ∧ u.spm.rate = s.spm.rate ∧ u.spm.next = s.spm.next ∧ u.bsm = s.bsm ∧ u.ord = s.ord
        ∧ (clamped = false ↔
            (∀ v, (namedAt n 1 = some v → u.cmp.idleSeal = v) ∧ (namedAt n 2 = some v → u.fmt.threshold = v)
              ∧ (namedAt n 3 = some v → u.fmt.restart = v) ∧ (namedAt n 4 = some v → u.rdc.limit = v)
              ∧ (namedAt n 5 = some v → u.mot.dwellTime = v) ∧ (namedAt n 9 = some v → u.hcm.hours = v)
              ∧ (namedAt n 10 = some v → v % 2 = 0) ∧ (namedAt n 11 = some v → u.exu.trigger = v)
              ∧ (namedAt n 12 = some v → u.exu.quietTime = v)
              ∧ ∀ i, i < 6 → namedAt n (13 + i) = some v → u.spm.table.getD i 0 = v)
            ∧ u.hcm.advise = (namedAt n 6).getD s.hcm.advise ∧ u.hcm.require = (namedAt n 7).getD s.hcm.require
            ∧ u.hcm.retire = (namedAt n 8).getD s.hcm.retire))
    ∧ (∀ i, i < 6 → notAbove i →
        ∃ k, k < 6 ∧ namedAt n (13 + k) ≠ none
          ∧ exec .tune s =
              .next (finishActive ⟨.badOrder, .none, flags false, 72 + 4 * k, s.ord.position, 0, 0, []⟩ s)
          ∧ (notAbove k → ∀ j, j < k → namedAt n (13 + j) ≠ none → ¬notAbove j)
          ∧ (¬notAbove k → (∀ j, j < 6 → namedAt n (13 + j) ≠ none → ¬notAbove j)
              ∧ ∀ j, j < k → namedAt n (13 + j) = none))

/-- A REPORT begins to write the report record of that moment to its destination through EXU: 1,536 bytes, each field of the
layout at its offset. With CLEAR every counter of the table is set to 0 at the same moment, and nothing else. When the last
byte is written the REPORT completes OK, with 1,536, the position, the time of the taking, and 1 for counters cleared.
Model's choices: logs 5, 6, 22. -/
def Obligations.ReportBegins : Prop :=
  ∀ (r : OrderRec) (s : State), Calm s →
    (OrderPasses .report r s → portAtRest s → HeadCareSound s.hcm → s.bsm.frames.length ≤ 128 →
      ∃ (bytes : List Byte) (u : State), ReportHolds bytes s
        ∧ exec .report s = .next (portServes ⟨.exu, .reportRecord, true, bodyField r 16 4, 1536, bytes⟩
            { u with ord.stage := .reporting, ord.reportTime := s.timebase })
        ∧ (r.clear = false → u = s)
        ∧ (r.clear = true → counters u = List.replicate 33 0
            ∧ { u with
                  fmt.rowsPlaced := s.fmt.rowsPlaced, fmt.rewritesPlaced := s.fmt.rewritesPlaced,
                  fmt.blankSlots := s.fmt.blankSlots, fmt.unscoredFailures := s.fmt.unscoredFailures,
                  fmt.repeats := s.fmt.repeats, fmt.writeFaults := s.fmt.writeFaults,
                  rdc.rowsReceived := s.rdc.rowsReceived, rdc.overruns := s.rdc.overruns,
                  rdc.unreadable := s.rdc.unreadable, rdc.superseded := s.rdc.superseded, rdc.rereads := s.rdc.rereads,
                  rdc.recoveries := s.rdc.recoveries, rdc.recoveriesFailed := s.rdc.recoveriesFailed,
                  dcp.corrupt := s.dcp.corrupt, mot.backhitches := s.mot.backhitches, mot.wrapTurns := s.mot.wrapTurns,
                  mot.speedChanges := s.mot.speedChanges, mot.lockLosses := s.mot.lockLosses,
                  mot.travels := s.mot.travels, mot.threadRetries := s.mot.threadRetries,
                  mot.motionFaults := s.mot.motionFaults, spm.writeSamples := s.spm.writeSamples,
                  spm.readSamples := s.spm.readSamples, spm.rises := s.spm.rises, spm.falls := s.spm.falls,
                  spm.stepDowns := s.spm.stepDowns, cml.accesses := s.cml.accesses, cml.retried := s.cml.retried,
                  cml.failed := s.cml.failed, hcm.retirements := s.hcm.retirements, hcm.fences := s.hcm.fences,
                  hcm.rises := s.hcm.rises, hcm.cleanings := s.hcm.cleanings } = s))
    ∧ (∀ (a n : Nat) (bytes : List Byte), s.ord.record = some r → kindOfCode r.kind = some .report →
        s.ord.stage = .reporting → noneWaits s → s.exu.active.isSome = true →
        s.marb.transfers = [⟨.exu, .reportRecord, true, a, n, bytes⟩] → s.marb.burst = some ⟨.exu, n⟩ → 1 ≤ n →
        s.exu.work = [] →
        exec .burstDone s =
          .next (finishActive ⟨.ok, .none, if s.ord.discardSeen then 4 else 0, 1536, s.ord.position,
              s.ord.reportTime.toNat, if r.clear then 1 else 0, []⟩
            { s with mem := memWriteN s.mem a (bytes.take n), marb.transfers := [], marb.burst := none }))

/-- A CHECK with the store IDLE and the tape still begins with the first chunk of its source; otherwise it completes
NOT_READY.
Model's choices: logs 5, 44. -/
def Obligations.CheckBegins : Prop :=
  ∀ (r : OrderRec) (s : State), OrderPasses .check r s → Calm s → portAtRest s →
    (s.bsm.mode = .idle → s.mot.state.moving = false →
      exec .check s =
        .next (portServes ⟨.cmpIn, .loopChunkIn, false, bodyField r 16 4, min 32768 (bodyField r 20 4), []⟩
          { s with ord.stage := .looping,
                   loop := some newLoop }))
    ∧ (s.bsm.mode ≠ .idle ∨ s.mot.state.moving = true → noneWaits s → s.exu.active.isSome = true →
        exec .check s =
          .next (finishActive ⟨.notReady, .none, resultFlags s false s.ord.discardSeen false, 0, s.ord.position, 0, 0, []⟩ s))

/-! ### The compressor, the formatter, the decoder -/

/-- The commit of a candidate that fits the open bundle: one DATA entry joins the index, with the next object number when the
chunk is its record's first; the payload, the raw count, the history and the table move on by the chunk, whose stored bytes go
to the payload through CMP_OUT; the idle timer starts afresh. The next chunk is then read through CMP_IN. An entry that brings
the index to 1,024 seals the bundle with cause INDEX. After the WRITE's last chunk the order completes OK, its
writes waiting for the port behind those of the commit but one that EXU's turn brings before, or with SYNC it enters WAITING with
its SYNC seal begun and the release mark set (R1, R184). With no frame OPEN the lowest FREE one is opened first,
and with none FREE intake is blocked (R3, R4, R28). With no candidate, or while intake is blocked or a seal is being written,
nothing is committed. A candidate that does not fit makes a FULL seal and stays, to be computed again (R12). The last burst of
a chunk read computes its candidate against the open bundle's history and table, which it leaves as they are; while a seal is
being written it is held (R3, R11, R12).
Model's choices: logs 6, 9, 11, 12 (no candidate or cursor), 30 (the frame's header from the seal's beginning). -/
def Obligations.ChunkCommitMovesBundleOn : Prop :=
  (∀ (c : Candidate) (k : IntakeCursor) (i : Nat) (s : State), Calm s → portAtRest s →
    (s.cmp.candidate = none ∨ s.cmp.cursor = none ∨ s.cmp.blocked = true ∨ s.cmp.sealing.isSome = true →
      exec .chunkCommit s = .next s)
    ∧ (s.cmp.blocked = false → s.cmp.sealing = none → s.cmp.candidate = some c → s.cmp.cursor = some k →
        (openFrame s = some i → 1048576 - s.cmp.payloadFill < c.stored.length ∨ 1024 ≤ s.cmp.index.length →
          ∃ t, exec .chunkCommit s = .next t ∧ SealBegun .full i s.cmp.index s.cmp.payloadFill true s t
            ∧ t.cmp.candidate = some c ∧ t.cmp.cursor = some k
            ∧ { t with bsm := s.bsm, cmp := s.cmp, marb := s.marb } = s)
        ∧ (openFrame s = none → s.bsm.mode ≠ .read → LowestFree i s →
            exec .chunkCommit s = exec .chunkCommit (bundleOpened i s) ∧ openFrame (bundleOpened i s) = some i)
        ∧ (openFrame s = none → (s.bsm.mode = .read ∨ ∀ f ∈ s.bsm.frames, f.state ≠ .free) →
            exec .chunkCommit s = .next { s with cmp.blocked := true, spm.openSince := some s.timebase })))
  ∧ (∀ (r : OrderRec) (c : Candidate) (k : IntakeCursor) (i : Nat) (s : State), Calm s → portAtRest s → noneWaits s →
      s.ord.record = some r → kindOfCode r.kind = some .write → s.ord.stage = .intake → s.cml.map.isSome = true →
      s.cmp.blocked = false → s.cmp.sealing = none → s.cmp.candidate = some c → s.cmp.cursor = some k →
      openFrame s = some i → s.cmp.payloadFill + c.stored.length ≤ 1048576 → s.cmp.index.length < 1024 →
      1 ≤ (descriptor r k.record).length →
      let last := decide (k.chunk + 1 = ((descriptor r k.record).length + 32767) / 32768)
      let ix := s.cmp.index ++
        [⟨.data, if k.chunk = 0 then eodObject s else eodObject s - 1, decide (k.chunk = 0), last, c.form, c.raw.length,
          c.stored.length⟩]
      let used := s.cmp.payloadFill + c.stored.length
      let records := if last then s.ord.records + 1 else s.ord.records
      let position := if k.chunk = 0 then eodObject s + 1 else s.ord.position
      let stores : Transfer := ⟨.cmpOut, .chunkOut, true, frameBase s i + 32768 + s.cmp.payloadFill, c.stored.length, c.stored⟩
      ∃ t, exec .chunkCommit s = .next t
        ∧ stores ∈ t.marb.transfers ∧ t.cmp.candidate = none ∧ t.cmp.cursor = nextCursor s k
        ∧ eodObject t = (if k.chunk = 0 then eodObject s + 1 else eodObject s) ∧ t.ord.position = position
        ∧ t.ord.records = records ∧ t.fmt = s.fmt ∧ t.mot = s.mot ∧ t.hcm = s.hcm
        ∧ (s.cmp.index.length + 1 < 1024 → (nextCursor s k).isSome = true ∨ r.sync = false →
            t.cmp.index = ix ∧ t.cmp.payloadFill = used ∧ t.cmp.rawCount = s.cmp.rawCount + c.raw.length
              ∧ t.cmp.history = recentBytes (s.cmp.history ++ c.raw) ∧ t.cmp.table = c.table
              ∧ t.cmp.idleTimer = some (after s s.cmp.idleSeal) ∧ t.cmp.sealing = none ∧ t.bsm = s.bsm)
        ∧ (s.cmp.index.length + 1 = 1024 → (nextCursor s k).isSome = true ∨ r.sync = false →
            SealBegun .index i ix used false s t)
        ∧ (∀ n, nextCursor s k = some n →
            t.mem = s.mem ∧ t.exu = s.exu
              ∧ ⟨.cmpIn, .chunkIn, false, (descriptor r n.record).start + 32768 * n.chunk,
                  min 32768 ((descriptor r n.record).length - 32768 * n.chunk), []⟩ ∈ t.marb.transfers)
        ∧ (∀ slot ticket, nextCursor s k = none → r.sync = false → s.exu.active = some (slot, ticket) →
            let first := if k.chunk = 0 then s.ord.firstObject.or (some (eodObject s)) else s.ord.firstObject
            CompletionHanded slot ticket ⟨.ok, .none, resultFlags s false s.ord.discardSeen false, records, position,
              first.getD position, 0, []⟩ s t)
        ∧ (nextCursor s k = none → r.sync = true → s.cmp.index.length + 1 < 1024 →
            s.bsm.verifiedThrough ≤ s.bsm.sealedThrough →
            SealBegun .sync i ix used false s t ∧ t.ord.stage = .waiting
              ∧ t.ord.releaseMark = some (s.bsm.sealedThrough + 1) ∧ t.mem = s.mem ∧ t.exu = s.exu))
  ∧ ∀ (r : OrderRec) (k : IntakeCursor) (addr n : Nat) (had : List Byte) (s : State), Calm s → 1 ≤ n →
      s.ord.record = some r → s.cmp.cursor = some k → s.marb.transfers = [⟨.cmpIn, .chunkIn, false, addr, n, had⟩] →
      s.marb.burst = some ⟨.cmpIn, n⟩ → s.exu.work = [] →
      let raw := had ++ memReadN s.mem addr n
      let inp : MatchInput := ⟨s.cmp.history, s.cmp.rawCount, raw⟩
      exec .burstDone s =
        .next { s with
          marb.burst := none, marb.transfers := [], cmp.cursor := some { k with byte := k.byte + n },
          cmp.candidate := some (if s.cmp.sealing.isSome then ⟨.plain, raw, raw, []⟩
            else inp.candidate s.cmp.table (r.plain || !s.cmp.compression)) }

/-- The idle timer's expiry, when its time has come: an open bundle that holds entries is sealed with cause IDLE: its header
and index go into rows 0 and 1 of its frame through CMP_OUT, and CMP's values are those of a new bundle; an open bundle
without entries gives its frame back to FREE, and with no bundle open, or a seal being written, the timer stops and no more.
While the timer is stopped, or before its time, nothing happens.
The last burst of a seal's header makes the frame SEALED, with the header and index it holds since the seal's beginning:
sealed-through goes up by one, the EOD bundle is one past the bundle sealed, FMT keeps the cause, and SPM takes a write sample
unless the payload is empty (R15, R34).
Model's choices: logs 9, 11, 13, 30, 55. -/
def Obligations.IdleTimerSeals : Prop :=
  (∀ (i : Nat) (s : State), Calm s → portAtRest s →
    (s.cmp.idleTimer = none → exec .idleTimerExpiry s = .next s)
    ∧ ∀ x, s.cmp.idleTimer = some x →
        (2147483648 ≤ (s.timebase - x).toNat → exec .idleTimerExpiry s = .next s)
        ∧ ((s.timebase - x).toNat < 2147483648 →
            (s.cmp.sealing.isSome = true ∨ openFrame s = none →
              exec .idleTimerExpiry s = .next { s with cmp.idleTimer := none })
            ∧ (s.cmp.sealing = none → openFrame s = some i → s.cmp.index = [] → s.bsm.mode = .write →
                (∃ j f, j ≠ i ∧ s.bsm.frames[j]? = some f ∧ f.state.writeMode = true) →
                exec .idleTimerExpiry s =
                  .next { s with bsm.frames := s.bsm.frames.set i freeFrame, cmp.idleTimer := none, cmp.history := [],
                                 cmp.table := [], cmp.payloadFill := 0, cmp.rawCount := 0 })
            ∧ ∀ e rest, s.cmp.sealing = none → openFrame s = some i → s.cmp.index = e :: rest →
                ∃ t, exec .idleTimerExpiry s = .next t
                  ∧ SealBegun .idle i (e :: rest) s.cmp.payloadFill s.cmp.candidate.isSome s t
                  ∧ t.cmp.candidate = s.cmp.candidate ∧ t.cmp.cursor = s.cmp.cursor
                  ∧ { t with bsm := s.bsm, cmp := s.cmp, marb := s.marb } = s))
  ∧ ∀ (x : Sealing) (i : Nat) (f : Frame) (addr n : Nat) (data : List Byte) (s : State),
      s.cmp.sealing = some x → openFrame s = some i → s.bsm.frames[i]? = some f → s.cmp.candidate = none →
      s.cmp.marksLeft = 0 → x.flushSeen = false → s.fmt.cursor.isSome = true → 1 ≤ n → data.length = n →
      s.marb.transfers = [⟨.cmpOut, .headerOut, true, addr, n, data⟩] → s.marb.burst = some ⟨.cmpOut, n⟩ → s.exu.work = [] →
      s.fmt.phase = .held ∨ (s.fmt.phase = .stopped ∧ (x.header.cause = .full ∨ x.header.cause = .index)
        ∧ frameCount s .sealed + 1 < min s.fmt.restart (s.bsm.frames.length / 2)) →
      let u := { s with
        mem := memWriteN s.mem addr data, marb.burst := none, marb.transfers := [], cmp.sealing := none,
        bsm.frames := s.bsm.frames.set i { f with state := .sealed },
        bsm.sealedThrough := s.bsm.sealedThrough + 1, fmt.lastCause := some x.header.cause,
        cml.map := s.cml.map.map (fun m => { m with eodBundle := s.bsm.sealedThrough + 1 }) }
      Calm u →
      ∃ m, exec .burstDone s = .next { u with spm := m }
        ∧ (s.spm.session ≠ .write → m = s.spm)
        ∧ (s.spm.session = .write → m.start = some s.timebase ∧ m.excluded = 0
            ∧ m.writeSamples = (if x.header.payloadUsed = 0 then s.spm.writeSamples
                else min (s.spm.writeSamples + 1) 4294967295))

/-- A row time boundary moves the heads one row time on in the direction of motion: with no position none is moved; in TRAVEL,
REPOSITIONING and STOPPING within the wrap; in STARTING up to the splice point, where STREAMING_READ or STREAMING_WRITE begins;
in STREAMING_READ to the next index, unless a rebuild's header scan is at its limit, and from the wrap's last row time into a
TURN. In STREAMING_WRITE each row time offers one slot for each ACTIVE channel, ascending, and reports the early-warning
crossing. At the end of a wrap the slots left count as blank at LOCKED with emission work (R45), and with results owed the tape
runs on; with none it turns, or at the physical end it stops, with the splice point there, as it does in reading. In CLEANING it
counts down the cleaning length, and at its end, or the wrap's, is brought to rest for the rewind. While FMT emits, the rows of
the out-buffer, oldest first, go one into each slot and into the verify window; row 0 of a copy at its first emission takes its
frame from SEALED to WRITING, row 71 from WRITING to PENDING, with written-through one past its bundle (R41, R44, R46). A row 0
with another next speed waiting has it adopted first, and waits for the lock (R46, R93); the first row of a load waits for the
write of the dirty flag (R59). Model's choices: logs 8, 12, 59, 63, 70. -/
def Obligations.RowTimeBoundaryMovesHeads : Prop :=
  (∀ (p : Pos) (s : State), Emits p s →
    let slots := (List.range 16).filter (fun c => (s.hcm.channels[c]?).any (fun x => x.active))
    ∃ t, exec .rowTimeBoundary s = .next t
      ∧ t.mot.pos = some { p with index := p.index + 1 } ∧ t.mot.state = .streamingWrite ∧ t.fmt.phase = .emitting
      ∧ t.mem = s.mem ∧ t.exu = s.exu ∧ t.ord = s.ord ∧ t.cmp = s.cmp ∧ t.hcm = s.hcm
      ∧ (s.fmt.outBuffer = [] →
          t.fmt.slots = slots ∧ t.writeHeads = [] ∧ t.fmt.window = s.fmt.window ∧ t.bsm = s.bsm
            ∧ t.fmt.blankSlots = (if s.fmt.cursor.isSome = true ∨ ∃ e ∈ s.fmt.rewrites, e.sent = false then
                min (s.fmt.blankSlots + s.fmt.slots.length) 4294967295 else s.fmt.blankSlots))
      ∧ (s.fmt.outBuffer ≠ [] → slots ≠ [] → s.cml.dirtyWritten = false → s.cml.access = none →
          (t.cml.access.map (fun a => a.kind)) = some .dirtyWrite ∧ t.fmt.outBuffer = s.fmt.outBuffer ∧ t.fmt.slots = slots
            ∧ t.fmt.window = s.fmt.window ∧ t.bsm = s.bsm ∧ t.mot.lock = .locked)
      ∧ (s.cml.dirtyWritten = true → s.spm.next = s.mot.speed →
          let placed := s.fmt.outBuffer.zip slots
          RowsPlaced (serpentine s p.wrap (p.index + 1)) placed s t
            ∧ t.fmt.outBuffer = s.fmt.outBuffer.drop placed.length ∧ t.fmt.slots = slots.drop placed.length
            ∧ t.mot.lock = .locked ∧ t.mot.speed = s.mot.speed
            ∧ (placed ≠ [] → t.fmt.resume = some (serpentine s p.wrap (p.index + 1) + 1) ∧ t.fmt.startPoint = none))
      ∧ (∀ r rest, s.fmt.outBuffer = r :: rest → r.row = 0 → r.attempt = 1 → s.fmt.boundaryDone = false →
          s.cml.dirtyWritten = true → s.spm.next ≠ s.mot.speed → slots ≠ [] →
          t.mot.speed = s.spm.next ∧ t.mot.speedChanges = min (s.mot.speedChanges + 1) 4294967295
            ∧ t.mot.lock = .unlocked ∧ t.mot.lockCount = 0 ∧ t.mot.limitTimer = some (s.timebase + 2000)
            ∧ t.fmt.outBuffer = s.fmt.outBuffer ∧ t.fmt.slots = slots ∧ t.fmt.window = s.fmt.window ∧ t.bsm = s.bsm))
  ∧ ∀ (p : Pos) (sp : Nat) (s : State), Idle s →
    (s.mot.pos = none → exec .rowTimeBoundary s = .next s)
    ∧ (s.mot.pos = some p → s.mot.state = .travel ∨ s.mot.state = .repositioning ∨ s.mot.state = .stopping →
        let j := if p.dir = wrapDirection p.wrap then min (p.index + 1) (wrapLength s - 1) else p.index - 1
        exec .rowTimeBoundary s = .next { s with mot.pos := some { p with index := j } })
    ∧ (s.mot.pos = some p → s.mot.state = .starting → s.mot.splice = some sp → p.index + 1 < (placeOf s sp).2 →
        exec .rowTimeBoundary s = .next { s with mot.pos := some { p with index := p.index + 1 } })
    ∧ (s.mot.pos = some p → s.mot.state = .starting → s.mot.splice = some sp → s.mot.startKind = some .read →
        (placeOf s sp).2 ≤ p.index + 1 →
        exec .rowTimeBoundary s =
          .next { s with mot.pos := some { p with index := (placeOf s sp).2 }, mot.state := .streamingRead,
                         mot.splice := none, mot.startKind := none, rdc.rowTime := none })
    ∧ (s.mot.pos = some p → s.mot.state = .starting → s.mot.splice = some sp → s.mot.startKind = some .write →
        (placeOf s sp).2 ≤ p.index + 1 →
        ∃ t, exec .rowTimeBoundary s = .next t ∧ RowTimeOffered false { p with index := (placeOf s sp).2 } s t
          ∧ t.mot.splice = none ∧ t.mot.startKind = none ∧ t.mot.lock = s.mot.lock ∧ t.bsm = s.bsm)
    ∧ (s.mot.pos = some p → s.mot.state = .streamingRead → p.index + 1 < wrapLength s →
        (∀ r, s.cml.rebuild = some r → r.endScan = true ∨ r.passed < 2000) →
        exec .rowTimeBoundary s =
          .next { s with mot.pos := some { p with index := p.index + 1 }, rdc.rowTime := none })
    ∧ (s.mot.pos = some p → s.mot.state = .streamingRead → p.index + 1 = wrapLength s → p.wrap + 1 < (geometry s).wraps →
        s.cml.rebuild = none →
        ∃ t, exec .rowTimeBoundary s = .next t ∧ t.mot.state = .turning ∧ t.mot.turnFrom = .read
          ∧ t.mot.lock = .unlocked ∧ t.mot.lockCount = 0 ∧ t.mot.limitTimer = none ∧ t.mot.pos = some p ∧ t.mem = s.mem)
    ∧ (s.mot.pos = some p → s.mot.state = .streamingRead → p.index + 1 = wrapLength s → p.wrap + 1 = (geometry s).wraps →
        s.cml.rebuild = none → s.mot.locate = none →
        ∃ t, exec .rowTimeBoundary s = .next t ∧ t.mot.state = .stopping ∧ t.mot.splice = some (physicalEnd s)
          ∧ t.mot.startKind = some .read ∧ t.mot.afterRest = .runUp ∧ t.mot.lock = .unlocked ∧ t.mot.limitTimer = none
          ∧ t.mot.pos = some p ∧ t.mem = s.mem ∧ t.exu = s.exu ∧ t.bsm = s.bsm)
    ∧ (s.mot.pos = some p → s.mot.state = .streamingWrite → s.mot.runOn = .none → p.index + 1 < wrapLength s →
        ∃ t, exec .rowTimeBoundary s = .next t ∧ RowTimeOffered s.mot.ewReported { p with index := p.index + 1 } s t)
    ∧ (s.mot.pos = some p → s.mot.state = .streamingWrite → s.mot.runOn = .none → p.index + 1 = wrapLength s →
        s.mot.held = none →
        let work := s.fmt.outBuffer = [] ∧ (s.fmt.cursor.isSome = true ∨ ∃ e ∈ s.fmt.rewrites, e.sent = false)
        let blank := if s.mot.lock = .locked ∧ work then min (s.fmt.blankSlots + s.fmt.slots.length) 4294967295
          else s.fmt.blankSlots
        (s.fmt.window ≠ [] →
          exec .rowTimeBoundary s =
            .next { s with
              mot.runOn := if p.wrap + 1 < (geometry s).wraps then .wrapEnd else .physicalEnd,
              writeHeads := [], fmt.slots := [], fmt.blankSlots := blank })
        ∧ (s.fmt.window = [] → p.wrap + 1 < (geometry s).wraps →
            ∃ t, exec .rowTimeBoundary s = .next t ∧ t.mot.state = .turning ∧ t.mot.turnFrom = .write
              ∧ t.mot.lock = .unlocked ∧ t.mot.lockCount = 0 ∧ t.mot.limitTimer = none ∧ t.mot.pos = some p
              ∧ t.fmt.slots = [] ∧ t.fmt.blankSlots = blank ∧ t.mem = s.mem ∧ t.bsm = s.bsm)
        ∧ (s.fmt.window = [] → (geometry s).wraps ≤ p.wrap + 1 → emissionWork s.fmt = false →
            ∃ t, exec .rowTimeBoundary s = .next t ∧ t.mot.state = .stopping ∧ t.mot.splice = some (physicalEnd s)
              ∧ t.mot.startKind = some .write ∧ t.mot.afterRest = .runUp ∧ t.mot.runOn = .none
              ∧ t.mot.lock = .unlocked ∧ t.mot.pos = some p ∧ t.fmt.phase = .stopped ∧ t.mem = s.mem ∧ t.exu = s.exu))
    ∧ (s.mot.pos = some p → s.mot.state = .cleaning → p.dir = wrapDirection p.wrap → p.index + 1 ≤ wrapLength s - 1 →
        (1 < s.mot.cleanLeft → p.index + 1 < wrapLength s →
          exec .rowTimeBoundary s =
            .next { s with mot.pos := some { p with index := p.index + 1 }, mot.cleanLeft := s.mot.cleanLeft - 1 })
        ∧ (s.mot.cleanLeft = 1 →
            exec .rowTimeBoundary s =
              .next { s with mot.pos := some { p with index := p.index + 1 }, mot.cleanLeft := 0, mot.state := .stopping,
                             mot.afterRest := .go .bot, mot.afterRewind := .passDone, mot.held := none }))
    ∧ (s.mot.pos = some p → s.mot.state = .cleaning → p.dir = wrapDirection p.wrap → 1 ≤ wrapLength s →
        p.index + 1 = wrapLength s →
        exec .rowTimeBoundary s =
          .next { s with mot.cleanLeft := 0, mot.state := .stopping, mot.afterRest := .go .bot,
                         mot.afterRewind := .passDone, mot.held := none })

/-- A verify result is taken against the oldest window entry, which leaves the window: nothing without one, nothing more for a
dropped entry. A row found with at most the threshold of errors at LOCKED passes; any other result fails it. A passed row is
marked in its pass map and its entry leaves the rewrite list; the last one of a PENDING bundle makes its frame VERIFIED, which
stays while a lower bundle is held, and else is released, a VERIFIED frame of the next bundle with it: each release adds one to
verified-through, extends the directory and is a bundle verified for HCM; with no write-mode frame left the store is IDLE.
A failed row of attempt 1 or 2 joins the rewrite list as the newest, WAITING, one attempt higher. One of attempt 3, or of
attempt 1 with 32 entries listed, makes a bundle repeat: the frames begun from its bundle on are SEALED again with the next
copy number and what FMT holds of them is dropped; or, with copy 2 among them, a permanent write fault: the frames from its
bundle on are FREE, the counters and the tape map are set back, and the conditions and the deferred error tell of it.
At LOCKED the channel is told REWRITE, or EXHAUSTED at attempt 3; below, the failure is unscored.
Model's choices: logs 12 (a result with an empty window changes nothing), 28. -/
def Obligations.VerifyResultTaken : Prop :=
  ∀ (e : WindowEntry) (rest : List WindowEntry) (x : VerifyOutcome) (s : State), Calm s → s.ord.record = none →
    (s.fmt.window = [] → exec (.verifyResult x) s = .next s)
    ∧ (ResultOwed e rest s →
        let b := e.bundle
        let maps := s.fmt.passMaps.map (fun m =>
          if m.bundle = b ∧ e.row ∉ m.passed then { m with passed := m.passed ++ [e.row] } else m)
        let others := s.fmt.rewrites.filter (fun y => !(y.bundle = b && y.copy = e.copy && y.row = e.row))
        let passed := { s with fmt.window := rest, fmt.passMaps := maps, fmt.rewrites := others }
        (e.dropped = true → exec (.verifyResult x) s = .next { s with fmt.window := rest })
        ∧ (e.dropped = false → ¬ResultFails x s →
            ((∀ f ∈ s.bsm.frames, ¬(f.state = .pending ∧ f.bundle = some b))
              ∨ (∀ m ∈ maps, ¬(m.bundle = b ∧ m.passed.length = 72)) →
              exec (.verifyResult x) s = .next passed)
            ∧ ∀ (i : Nat) (f : Frame), s.bsm.frames[i]? = some f → f.state = .pending → f.bundle = some b →
                (∀ (j : Nat) (g : Frame), s.bsm.frames[j]? = some g → g.bundle = some b → j = i) →
                (∃ m ∈ maps, m.bundle = b ∧ m.passed.length = 72) →
                (b ≠ s.bsm.verifiedThrough →
                  (∀ g ∈ s.bsm.frames, ¬(g.state = .verified ∧ g.bundle = some s.bsm.verifiedThrough)) →
                  exec (.verifyResult x) s =
                    .next { passed with bsm.frames := s.bsm.frames.set i { f with state := .verified } })
                ∧ (b = s.bsm.verifiedThrough → s.bsm.mode = .write → s.cmp.blocked = false → s.bsm.claims = [] →
                    ((∀ g ∈ s.bsm.frames, ¬(g.state = .verified ∧ g.bundle = some (b + 1))) →
                      ∃ t, exec (.verifyResult x) s = .next t ∧ t.bsm.frames = s.bsm.frames.set i freeFrame
                        ∧ t.bsm.verifiedThrough = b + 1 ∧ t.bsm.sealedThrough = s.bsm.sealedThrough
                        ∧ t.bsm.mode = (if ∃ g ∈ t.bsm.frames, g.state.writeMode = true then .write else .idle)
                        ∧ t.hcm = (bundleVerified s).hcm ∧ t.fmt.passMaps = maps.filter (fun m => m.bundle ≠ b)
                        ∧ (∀ h p, f.header = some h → placementOf s b = some p → t.cml = (cmlRelease h f.index p s).cml))
                    ∧ ∀ (j : Nat) (g : Frame), s.bsm.frames[j]? = some g → g.state = .verified → g.bundle = some (b + 1) →
                        (∀ (k : Nat) (q : Frame), s.bsm.frames[k]? = some q → q.bundle = some (b + 1) → k = j) →
                        (∀ q ∈ s.bsm.frames, ¬(q.state = .verified ∧ q.bundle = some (b + 2))) →
                        ∃ t, exec (.verifyResult x) s = .next t
                          ∧ t.bsm.frames = (s.bsm.frames.set i freeFrame).set j freeFrame
                          ∧ t.bsm.verifiedThrough = b + 2 ∧ t.hcm = (bundleVerified (bundleVerified s)).hcm))
        ∧ (e.dropped = false → ResultFails x s → e.attempt = 2 ∨ (e.attempt = 1 ∧ s.fmt.rewrites.length < 32) →
            ∃ t, exec (.verifyResult x) s = .next t ∧ t.fmt.window = rest
              ∧ t.fmt.rewrites = others ++ [⟨b, e.copy, e.row, e.attempt + 1, e.channel, false⟩]
              ∧ t.bsm = s.bsm ∧ t.mot = s.mot ∧ t.cmp = s.cmp ∧ FailureTold e 16 s t)
        ∧ (e.dropped = false → ResultFails x s → e.attempt = 3 ∨ (e.attempt = 1 ∧ 32 ≤ s.fmt.rewrites.length) →
            let weight := if e.attempt = 3 then 256 else 16
            ((∃ f ∈ s.bsm.frames, Begun b f ∧ f.bundle = some b) →
              (∀ f ∈ s.bsm.frames, Begun b f → f.copy ≠ some 2) →
              ∃ t, exec (.verifyResult x) s = .next t ∧ DroppedFrom b rest s t ∧ FailureTold e weight s t
                ∧ t.bsm.frames.length = s.bsm.frames.length
                ∧ (∀ (i : Nat) (f : Frame), s.bsm.frames[i]? = some f →
                    (Begun b f → t.bsm.frames[i]? = some { f with state := .sealed, copy := some (f.copy.getD 0 + 1) })
                    ∧ (¬Begun b f → t.bsm.frames[i]? = some f))
                ∧ t.bsm.writtenThrough = b ∧ t.bsm.sealedThrough = s.bsm.sealedThrough
                ∧ t.bsm.verifiedThrough = s.bsm.verifiedThrough ∧ t.fmt.repeats = min (s.fmt.repeats + 1) 4294967295
                ∧ (∀ r, s.fmt.reading = some r → r.bundle < b → t.fmt.reading = some r ∧ t.fmt.cursor = nextSealed t)
                ∧ t.cml = s.cml ∧ t.ord = s.ord ∧ t.cmp = s.cmp ∧ t.mot = s.mot)
            ∧ ∀ (g : Frame) (h : BundleHeader) (m : TapeMap), g ∈ s.bsm.frames → g.state.writeMode = true →
                b ≤ g.bundle.getD 0 → g.header = some h → s.cml.map = some m →
                (∀ f ∈ s.bsm.frames, f.state.writeMode = true → b ≤ f.bundle.getD 0 →
                  f = g ∨ g.bundle.getD 0 < f.bundle.getD 0) →
                (∀ f ∈ s.bsm.frames, f.state ≠ .opened) → (∃ f ∈ s.bsm.frames, Begun b f ∧ f.copy = some 2) →
                s.rdc.phase = .none → s.ord.append = none → s.bsm.claims = [] →
                let lost := s.bsm.frames.filter (fun f => f.state.writeMode && decide (b ≤ f.bundle.getD 0))
                let told := if s.mot.lock = .locked then wearEvent e.channel weight s else s
                ∃ t, exec (.verifyResult x) s = .next t ∧ DroppedFrom b rest s t ∧ FailureTold e weight s t
                  ∧ t.bsm.frames = s.bsm.frames.map (fun f =>
                      if f.state.writeMode = true ∧ b ≤ f.bundle.getD 0 then freeFrame else f)
                  ∧ t.bsm.sealedThrough = b ∧ t.bsm.writtenThrough = b
                  ∧ t.bsm.verifiedThrough = s.bsm.verifiedThrough
                  ∧ t.cml.map = some { m with eodObject := h.firstObject, eodBundle := b }
                  ∧ t.ord.position = min s.ord.position h.firstObject
                  ∧ t.ord.deferred = s.ord.deferred.or (some (b, .rowFailure)) ∧ t.ord.discardSeen = true
                  ∧ t.fmt.writeFaults = min (s.fmt.writeFaults + 1) 4294967295
                  ∧ t.exu = (raise .dataDiscarded lost.length 0 0 (raise .deferredFault b 1 0 told)).exu
                  ∧ t.mem = (raise .dataDiscarded lost.length 0 0 (raise .deferredFault b 1 0 told)).mem))

/-- What the heads report counts only in STREAMING_READ at SETTLED or above; below it, or with nothing that reads, nothing
happens but that the frontier of a session moves to the row time (R63). The first report of a row time with a good row sets the
blank run to 0, one without adds 1 up to 2,000; an unreadable row is counted and told to HCM against its channel. In a session
with nothing in hand, row 0 of the next bundle claims the lowest FREE frame, which becomes FILLING, and the row joins the
in-buffer. The last burst of a row's writing takes it out of the in-buffer: a data row lies in its frame, the row is folded into
the working values, marked present, and the latest arrival position raised (R64).
In the header scan of a rebuild a good row 0 of a bundle above those found is the wrap's header, and the next wrap is scanned;
a report without one counts the row time (R139). In its end scan each good row is tallied for its bundle (R140).
Model's choices: logs 12, 17, 42, 50. -/
def Obligations.ReadHeadsReport : Prop :=
  (∀ (c : Fin 16) (heads : List (Fin 16 × HeadOutcome)) (p : Pos) (s : State),
    (headsWf heads = false → exec (.readHeadOutcome heads) s = .refused .illFormed)
    ∧ (headsWf heads = true → s.mot.state ≠ .streamingRead → exec (.readHeadOutcome heads) s = .next s)
    ∧ (headsWf heads = true → s.mot.lock = .unlocked → Idle s → exec (.readHeadOutcome heads) s = .next s)
    ∧ (headsWf heads = true → s.mot.lock = .unlocked → Calm s → portAtRest s → sessionEmpty s →
        s.mot.state = .streamingRead → s.mot.pos = some p → s.mot.locate = none → s.cml.rebuild = none →
        s.ord.find = none → s.rdc.rowTime = none →
        exec (.readHeadOutcome heads) s =
          .next { s with rdc.rowTime := some (serpentine s p.wrap p.index,
                           s.rdc.frontier.all (fun f => decide (f < serpentine s p.wrap p.index)))
                         rdc.frontier := some (max (s.rdc.frontier.getD 0) (serpentine s p.wrap p.index)) })
    ∧ (Idle s → s.mot.pos = some p → s.mot.state = .streamingRead → s.mot.lock ≠ .unlocked → s.mot.locate = none →
        s.cml.rebuild = none → s.rdc.rowTime = none →
        (headsWf heads = true → (∀ h ∈ heads, headFails h.2 = false) →
          ∃ t, exec (.readHeadOutcome heads) s = .next t
            ∧ t.rdc.rowsReceived = min (s.rdc.rowsReceived + (goodRows s heads).length) 4294967295
            ∧ t.rdc.blankRun = (if goodRows s heads = [] then min (s.rdc.blankRun + 1) 2000 else 0)
            ∧ t.rdc.unreadable = s.rdc.unreadable ∧ { t with rdc := s.rdc } = s)
        ∧ (∃ t, exec (.readHeadOutcome [(c, .unreadable)]) s = .next t
            ∧ t.rdc.unreadable = min (s.rdc.unreadable + 1) 4294967295 ∧ t.hcm = (wearEvent c.val 8 s).hcm
            ∧ t.rdc.blankRun = min (s.rdc.blankRun + 1) 2000 ∧ t.rdc.rowsReceived = s.rdc.rowsReceived
            ∧ t.mot = s.mot ∧ t.bsm = s.bsm))
    ∧ (∀ (n : BitVec 8) (row : TapeRow) (i f : Nat), Calm s → portAtRest s → sessionEmpty s → s.rdc.inBuffer = [] →
        s.mot.pos = some p → s.mot.state = .streamingRead → s.mot.lock ≠ .unlocked → s.mot.locate = none →
        s.cml.rebuild = none → s.ord.find = none → s.rdc.rowTime = none → s.rdc.next = some row.ident.bundle →
        s.rdc.onlyBundle = none → s.rdc.frontier = some f → f ≤ serpentine s p.wrap p.index → s.spm.next = s.mot.speed →
        s.ord.append = none → s.ord.record = none → s.bsm.mode ≠ .write →
        (∀ g ∈ s.bsm.frames, g.bundle ≠ some row.ident.bundle) → findFrame s (fun g => g.state = .free) = some i →
        row.wf = true → row.ident.row = 0 → n.toNat ≤ 8 → sameCartridge s row = true →
        ∃ t, exec (.readHeadOutcome [(c, .found n row)]) s = .next t
          ∧ t.bsm.frames = s.bsm.frames.set i ⟨.filling, some row.ident.bundle, some row.ident.copy, none, []⟩
          ∧ t.bsm.mode = .read
          ∧ t.rdc.inBuffer = [⟨row.ident.bundle, 0, serpentine s p.wrap p.index, row⟩]
          ∧ t.rdc.assemblies = [⟨row.ident.bundle, row.ident.copy, [], serpentine s p.wrap p.index,
              serpentine s p.wrap p.index, 0, .gathering, false, [row.ident.copy], 0⟩]
          ∧ t.marb.transfers = [⟨.rowIn, .rowStore, true, s.bsm.base + i * 1114112, 16384, row.data⟩]
          ∧ t.mem = s.mem ∧ t.mot = s.mot))
  ∧ (∀ (r : InRow) (waiting : List InRow) (i : Nat) (f : Frame) (a : Assembly) (w : Bool) (addr n : Nat)
        (data : List Byte) (s : State), s.rdc.inBuffer = r :: waiting → 1 ≤ n →
      findFrame s (fun x => x.state = .filling && x.bundle = some r.bundle) = some i → s.bsm.frames[i]? = some f →
      s.rdc.assemblies.find? (fun x => x.bundle = r.bundle) = some a → r.row = r.tape.ident.row →
      s.marb.transfers = [⟨.rowIn, .rowStore, w, addr, n, data⟩] → s.marb.burst = some ⟨.rowIn, n⟩ → s.exu.work = [] →
      (w = true → data.length = n) →
      let moved := if w then memWriteN s.mem addr data else s.mem
      let work := s.bsm.base + 1114112 * i + 1081344
      let u := { s with
        marb.burst := none, marb.transfers := [], rdc.inBuffer := waiting,
        mem := memWriteN moved work
          (foldRow (if a.present = [] then [] else memReadN moved work 32768) r.row r.tape.data),
        bsm.frames := s.bsm.frames.set i (if r.row = 0 then { f with header := r.tape.header }
          else if r.row = 1 then { f with index := r.tape.index.getD [] } else f),
        rdc.assemblies := s.rdc.assemblies.map (fun x =>
          if x.bundle = r.bundle then
            { x with present := if r.row ∈ x.present then x.present else x.present ++ [r.row],
                     latest := max x.latest r.place }
          else x) }
      Steady u → exec .burstDone s = .next u)
  ∧ ∀ (c : Fin 16) (n : BitVec 8) (row : TapeRow) (r : Rebuild) (p : Pos) (s : State), Rebuilding r p s →
      s.rdc.rowTime = none → row.wf = true → n.toNat ≤ 8 → sameCartridge s row = true →
      (∀ h, r.endScan = false → row.ident.row = 0 → row.header = some h → (∀ x ∈ r.found, x.1 < row.ident.bundle) →
        r.wrap + 1 < (geometry s).wraps →
        ∃ t, exec (.readHeadOutcome [(c, .found n row)]) s = .next t ∧ RestartsAt (serpentine s (r.wrap + 1) 0) s t
          ∧ t.cml.rebuild = some { r with found := r.found ++ [(row.ident.bundle, h.firstObject)], wrap := r.wrap + 1,
                                          place := serpentine s p.wrap p.index, passed := 0 })
      ∧ (r.endScan = false → row.ident.row ≠ 0 ∨ row.header = none ∨ (∃ x ∈ r.found, row.ident.bundle ≤ x.1) →
          ∃ t, exec (.readHeadOutcome [(c, .found n row)]) s = .next t
            ∧ t.cml.rebuild = some { r with passed := r.passed + 1 } ∧ t.mot = s.mot ∧ t.rdc.blankRun = 0)
      ∧ (r.endScan = true → (∀ x ∈ r.tallies, x.bundle ≠ row.ident.bundle) →
          ∃ t, exec (.readHeadOutcome [(c, .found n row)]) s = .next t ∧ t.mot = s.mot ∧ t.rdc.blankRun = 0
            ∧ t.cml.rebuild = some { r with
                tallies := r.tallies ++
                  [⟨row.ident.bundle, [row.ident.row], row.index.bind (fun ix => ix.getLast?.map (fun e => e.object)),
                    serpentine s p.wrap p.index⟩] })
      ∧ (∀ before x after, r.endScan = true → r.tallies = before ++ x :: after →
          (∀ y ∈ before, y.bundle ≠ row.ident.bundle) → x.bundle = row.ident.bundle →
          ∃ t, exec (.readHeadOutcome [(c, .found n row)]) s = .next t ∧ t.mot = s.mot
            ∧ t.cml.rebuild = some { r with
                tallies := before ++
                  { x with rows := if row.ident.row ∈ x.rows then x.rows else x.rows ++ [row.ident.row],
                           lastObject := x.lastObject.or (row.index.bind (fun ix => ix.getLast?.map (fun e => e.object))),
                           latest := max x.latest (serpentine s p.wrap p.index) } :: after })

/-- The blank run's limit: below 2,000 row times, or outside STREAMING_READ, nothing; at 2,000 a locate in progress fails, and
the tape stops at the heads with the locate record absent. In a rebuild the header scan ends when 2,000 row times have passed
on its wrap without a header: with no header found the cartridge is blank and the rebuild done; else the end scan begins at the
last header found (R139). The end scan ends at a blank run of 2,000, and its highest complete bundle decides the EOD values: the
next bundle, the object after its last, and one past the latest row time of any bundle up to it; with none complete they are
the last wrap's first bundle and object and index 0 of that wrap, which loses its optional part (R140). A rebuild done sets
the map and the directory, raises DIRECTORY_STALE, and the LOAD completes OK, REBUILT (R141).
Model's choices: logs 12, 31 (the row times used of the last wrap), 38, 52, 67. -/
def Obligations.BlankRunLimitFailsLocate : Prop :=
  (∀ (p : Pos) (s : State), Idle s →
    (s.mot.state ≠ .streamingRead → exec .blankRunLimit s = .next s)
    ∧ (s.mot.state = .streamingRead → s.cml.rebuild = none → s.rdc.blankRun < 2000 → exec .blankRunLimit s = .next s)
    ∧ (s.mot.state = .streamingRead → s.cml.rebuild = none → 2000 ≤ s.rdc.blankRun → s.mot.locate.isSome = true →
        s.mot.pos = some p →
        ∃ t, exec .blankRunLimit s = .next t ∧ t.mot.locate = none ∧ t.mot.state = .stopping
          ∧ t.mot.splice = some (serpentine s p.wrap p.index) ∧ t.mot.startKind = some .read
          ∧ t.mot.lock = .unlocked ∧ t.mot.lockCount = 0 ∧ t.mem = s.mem ∧ t.exu = s.exu ∧ t.bsm = s.bsm))
  ∧ ∀ (r : Rebuild) (p : Pos) (o : OrderRec) (s : State), Rebuilding r p s →
      (r.endScan = false → r.passed < 2000 → exec .blankRunLimit s = .next s)
      ∧ (r.endScan = true → s.rdc.blankRun < 2000 → exec .blankRunLimit s = .next s)
      ∧ (r.endScan = false → 2000 ≤ r.passed → r.found ≠ [] →
          ∃ t, exec .blankRunLimit s = .next t ∧ RestartsAt r.place s t
            ∧ t.cml = { s.cml with rebuild := some { r with endScan := true } })
      ∧ (s.ord.record = some o → kindOfCode o.kind = some .load → s.exu.active.isSome = true → noneWaits s →
          (r.endScan = false → 2000 ≤ r.passed → r.found = [] →
            ∃ q u, exec .blankRunLimit s = .next (finishActive q u) ∧ RebuildDone 0 0 0 (fun _ => none) s q u)
          ∧ ∀ before last, r.endScan = true → s.rdc.blankRun = 2000 → r.found = before ++ [last] →
              (∀ x object, x ∈ r.tallies → tallyComplete x = true → x.lastObject = some object → last.1 ≤ x.bundle →
                (∀ y ∈ r.tallies, tallyComplete y = true → y = x ∨ y.bundle < x.bundle) →
                let place := ((r.tallies.filter (fun y => y.bundle ≤ x.bundle)).map (fun y => y.latest)).foldl max 0 + 1
                ∃ q u, exec .blankRunLimit s = .next (finishActive q u)
                  ∧ RebuildDone (x.bundle + 1) (object + 1) place
                      (rebuiltPart s r.found (x.bundle + 1) (object + 1) place) s q u)
              ∧ ((∀ x ∈ r.tallies, tallyComplete x = false) →
                  ∃ q u, exec .blankRunLimit s = .next (finishActive q u)
                    ∧ RebuildDone last.1 last.2 (serpentine s before.length 0)
                        (fun i => if i < before.length then
                            rebuiltPart s r.found last.1 last.2 (serpentine s before.length 0) i else none) s q u))

/-- A decoded entry of a READ: the raw bytes of a DATA entry of the position's object, as far as the extent has room, go to the
extent through DCP_OUT; a MARK entry at the position ends the READ with DONE_SHORT, MARK_MET and the position after the mark.
While no entry is ready nothing changes. The last burst of a delivery puts the bytes into the extent. Where the entry does not
end its record, the stored bytes of the next entry are read; where it does, and the extent is the READ's last, the READ
completes OK: its value A counts the record, the position is the object after it, and the extent's result gives the record's
length, OVERLENGTH where that is more than the extent holds (R76, R77).
Model's choices: log 12. -/
def Obligations.DecodedEntryDelivered : Prop :=
  ∀ (r : OrderRec) (i : Nat) (e : IndexEntry) (raw : List Byte) (s : State), Calm s →
    (s.dcp.phase ≠ .ready → portAtRest s → exec .decodeEntry s = .next s)
    ∧ (s.ord.record = some r → kindOfCode r.kind = some .read → s.ord.stage = .reading → s.ord.find = none →
        s.ord.append = none → s.dcp.phase = .ready → s.dcp.frame = some i → portAtRest s →
        ((frameAt s i).bind (fun f => f.index[s.dcp.entry]?)) = some e →
        (e.kind = .data → e.object = s.ord.position → s.dcp.record = none →
          decodeStored e s.dcp.history s.dcp.produced s.dcp.stored = some raw → 1 ≤ raw.length →
          1 ≤ (descriptor r s.dcp.extent).length →
          exec .decodeEntry s =
            .next (portServes ⟨.dcpOut, .deliver, true, (descriptor r s.dcp.extent).start,
                min (descriptor r s.dcp.extent).length raw.length, raw.take (descriptor r s.dcp.extent).length⟩
              { s with dcp.phase := .delivering, dcp.history := recentBytes (s.dcp.history ++ raw),
                       dcp.produced := s.dcp.produced + raw.length,
                       dcp.record := some ⟨e.object, raw.length, min (descriptor r s.dcp.extent).length raw.length⟩ }))
        ∧ (e.kind = .mark → e.object = s.ord.position → s.dcp.waiting = false → noneWaits s →
            s.exu.active.isSome = true →
            (∀ f, frameAt s i = some f → s.dcp.entry + 1 < f.index.length) →
            exec .decodeEntry s =
              .next (finishActive ⟨.doneShort, .markMet, resultFlags s false s.ord.discardSeen false, s.ord.delivered,
                  e.object + 1, s.ord.firstObject.getD (e.object + 1), 0, s.ord.extents⟩
                { s with ord.position := e.object + 1, dcp.entry := s.dcp.entry + 1, dcp.stored := [], dcp.phase := .idle,
                         dcp.record := none })))
    ∧ ∀ (f : Frame) (next : IndexEntry) (h : RecordInHand) (addr n : Nat) (data : List Byte),
        s.ord.record = some r → kindOfCode r.kind = some .read → s.ord.stage = .reading → s.ord.find = none →
        s.ord.append = none → s.dcp.phase = .delivering → s.dcp.frame = some i → s.bsm.frames[i]? = some f →
        f.index[s.dcp.entry]? = some e → f.index[s.dcp.entry + 1]? = some next → s.dcp.record = some h → 1 ≤ n →
        data.length = n → s.marb.transfers = [⟨.dcpOut, .deliver, true, addr, n, data⟩] →
        s.marb.burst = some ⟨.dcpOut, n⟩ → s.exu.work = [] →
        let passed := { s with mem := memWriteN s.mem addr data, marb.burst := none, marb.transfers := [],
                               dcp.entry := s.dcp.entry + 1, dcp.stored := [] }
        (e.last = false → next.kind = .data → next.first = false → 1 ≤ next.storedLen → s.dcp.extent < r.count →
          exec .burstDone s =
            .next (portServes
              ⟨.dcpIn, .entryIn, false,
                s.bsm.base + i * 1114112 + 32768
                  + ((f.index.take (s.dcp.entry + 1)).map (fun x => x.storedLen)).sum, next.storedLen, []⟩
              { passed with dcp.phase := .fetching }))
        ∧ (e.last = true → s.dcp.extent + 1 = r.count → s.dcp.waiting = false → noneWaits s →
            s.exu.active.isSome = true →
            let results := s.ord.extents ++ [⟨h.length, decide ((descriptor r s.dcp.extent).length < h.length)⟩]
            exec .burstDone s =
              .next (finishActive ⟨.ok, .none, resultFlags s false s.ord.discardSeen false, s.ord.delivered + 1,
                  h.object + 1, s.ord.firstObject.getD h.object, 0, results⟩
                { passed with
                  dcp.phase := .idle, dcp.record := none, dcp.extent := s.dcp.extent + 1, ord.extents := results,
                  ord.delivered := s.ord.delivered + 1, ord.firstObject := s.ord.firstObject.or (some h.object),
                  ord.position := h.object + 1 }))
/-! ### The tape and the cartridge -/

/-- Servo frames are counted in STARTING and the streaming states alone. In tolerance the count rises by one up to 64, the level
is SETTLED from 32 and LOCKED at 64, where the limit timer stops. Out of tolerance LOCKED falls to SETTLED with count 32, a
lock loss counted and, while streaming, a stopped limit timer started; any other level falls to UNLOCKED with count 0.
Model's choices: log 12. -/
def Obligations.ServoFramesMoveLock : Prop :=
  ∀ s : State, Idle s →
    (s.mot.state ≠ .starting → s.mot.state ≠ .streamingWrite → s.mot.state ≠ .streamingRead →
      ∀ good, exec (.servoFrame good) s = .next s)
    ∧ (s.mot.state = .starting ∨ s.mot.state = .streamingWrite ∨ s.mot.state = .streamingRead →
        LockSound s.mot.lock s.mot.lockCount →
        (∃ t, exec (.servoFrame true) s = .next t ∧ t.mot.lockCount = min (s.mot.lockCount + 1) 64
          ∧ t.mot.lock = (if 64 ≤ s.mot.lockCount + 1 then .locked else if 32 ≤ s.mot.lockCount + 1 then .settled
              else .unlocked)
          ∧ t.mot.limitTimer = (if 64 ≤ s.mot.lockCount + 1 then none else s.mot.limitTimer)
          ∧ t.mot.lockLosses = s.mot.lockLosses ∧ t.mot.state = s.mot.state ∧ { t with mot := s.mot } = s)
        ∧ (s.mot.lock = .locked →
            ∃ t, exec (.servoFrame false) s = .next t ∧ t.mot.lock = .settled ∧ t.mot.lockCount = 32
              ∧ t.mot.lockLosses = min (s.mot.lockLosses + 1) 4294967295
              ∧ t.mot.limitTimer = (if s.mot.state ≠ .starting ∧ s.mot.limitTimer = none then some (s.timebase + 2000)
                  else s.mot.limitTimer)
              ∧ { t with mot := s.mot } = s)
        ∧ (s.mot.lock ≠ .locked →
            exec (.servoFrame false) s = .next { s with mot.lock := .unlocked, mot.lockCount := 0 }))

/-- The lock limit timer's expiry when its time has come, and a tension fault while the tape is under tension or being
brought to it, make an emergency stop: FAULT_HELD with the leader ON_REEL, no tension, no position, no splice point, no lock
and no timer; MOTION_FAULT is raised with its detail, and FMT is HELD if write work stands. With the timer stopped or before
its time, or with no tension to watch, nothing.
Model's choices: logs 12, 13. -/
def Obligations.EmergencyStop : Prop :=
  ∀ s : State, Idle s →
    (s.mot.limitTimer = none → exec .lockLimitTimerExpiry s = .next s)
    ∧ (∀ x, s.mot.limitTimer = some x → 2147483648 ≤ (s.timebase - x).toNat → exec .lockLimitTimerExpiry s = .next s)
    ∧ (s.mot.tension = .off → ¬(s.mot.state = .threading ∧ s.mot.threadPhase = .tensioning) →
        exec .tensionFault s = .next s)
    ∧ (∀ x, s.mot.limitTimer = some x → (s.timebase - x).toNat < 2147483648 →
        ∃ t, exec .lockLimitTimerExpiry s = .next t ∧ EmergencyStopped 5 s.mot.speed s t)
    ∧ (s.mot.tension ≠ .off ∨ (s.mot.state = .threading ∧ s.mot.threadPhase = .tensioning) →
        ∃ t, exec .tensionFault s = .next t ∧ EmergencyStopped 4 s.mot.state.code s t)

/-- A cartridge seated in EMPTY: SEATED with the leader HOME and the tab sensed, CARTRIDGE raised with SEATED. A cartridge gone
from SEATED: EMPTY with the tab clear, CML dropping its copy, CARTRIDGE raised with REMOVED, or with EJECTED when it was being
driven out, and then the position 0. In every other state nothing.
Model's choices: logs 12, 47. -/
def Obligations.CartridgeSeatedAndGone : Prop :=
  ∀ (tab : Bool) (s : State), Idle s →
    (s.mot.state = .empty →
      exec (.cartridgeSeated tab) s =
        .next (raise .cartridge 0 1 0
          { s with mot.state := .seated, mot.leader := .home, mot.tab := tab, mot.ejecting := false }))
    ∧ (s.mot.state ≠ .empty → exec (.cartridgeSeated tab) s = .next s)
    ∧ (s.mot.state ≠ .seated → exec .cartridgeRemoved s = .next s)
    ∧ (s.mot.state = .seated →
        ∃ t, exec .cartridgeRemoved s = .next t ∧ t.mot.state = .empty ∧ t.mot.leader = .none ∧ t.mot.tab = false
          ∧ t.cml.state = .none ∧ t.cml.copy = none ∧ t.cml.map = none ∧ t.cml.stale = none
          ∧ t.ord.position = (if s.mot.ejecting then 0 else s.ord.position)
          ∧ t.exu = (raise .cartridge 0 (if s.mot.ejecting then 3 else 2) 0 s).exu
          ∧ t.mem = (raise .cartridge 0 (if s.mot.ejecting then 3 else 2) 0 s).mem
          ∧ t.bsm = s.bsm ∧ t.hcm = s.hcm)

/-- Threading, event by event: the capture, its timer's three attempts, the leader's attachment, the path timer's unthread, and
working tension, which leaves the tape THREADED_IDLE at BOT with TAPE_READY raised. With a LOAD in hand it also completes the
LOAD OK, the tape map set from the copy and the bundle counters at its EOD bundle, or as it stood in LOADED (R131); with the
directory stale it begins the rebuild, the directory cleared and the header scan STARTING at BOT, the geometry of an unreadable
memory taken from the tape (R130, R139). An event outside its phase, a timer's expiry before its time, and working tension that
nothing waits for change nothing.
Model's choices: logs 12, 13, 23 (the motion state in MOTION_FAULT's detail), 74. -/
def Obligations.ThreadingEvents : Prop :=
  (∀ (g : Geometry) (r : OrderRec) (s : State), Calm s → portAtRest s → noneWaits s → s.fmt.phase = .stopped →
    s.exu.active.isSome = true → s.ord.record = some r → kindOfCode r.kind = some .load → s.ord.stage = .loadThreading →
    s.ord.loadAborted = false → s.mot.state = .threading → s.mot.threadPhase = .tensioning →
    let type := match (s.cml.copy.bind (fun c => c.type)) with
      | some .data => 0 | some .appendOnly => 1 | some .cleaning => 2 | none => 3
    let flags := 4 * s.ord.discardSeen.toNat
    let ready := raise .tapeReady (geometry s).wraps s.mot.tab.toNat 0 s
    (∀ c, s.cml.state = .held → s.cml.readable = true → s.cml.stale = none → s.cml.copy = some c →
      ∃ u, exec (.workingTension g) s =
          .next (finishActive ⟨.ok, .none, flags, type, 0, c.eod.eodObject, c.eod.eodBundle, []⟩ u)
        ∧ portAtRest u ∧ u.cml.state = .loaded ∧ u.cml.rebuilt = false ∧ u.cml.copy = s.cml.copy
        ∧ u.cml.map = some ⟨c.eod.eodObject, c.eod.eodBundle, c.eod.endWrap, c.eod.endIndex⟩
        ∧ u.bsm = { s.bsm with sealedThrough := c.eod.eodBundle, writtenThrough := c.eod.eodBundle,
                               verifiedThrough := c.eod.eodBundle }
        ∧ u.ord.position = 0 ∧ u.mot.state = .threadedIdle ∧ u.mot.pos = some ⟨0, 0, .forward⟩
        ∧ u.exu = ready.exu ∧ u.mem = ready.mem)
    ∧ (∀ m, s.cml.state = .loaded → s.cml.map = some m →
        ∃ u, exec (.workingTension g) s = .next (finishActive ⟨.ok, .none, flags, type, 0, m.eodObject, m.eodBundle, []⟩ u)
          ∧ portAtRest u ∧ u.cml = s.cml ∧ u.bsm.sealedThrough = m.eodBundle ∧ u.ord.position = 0 ∧ u.mot.state = .threadedIdle
          ∧ u.exu = ready.exu ∧ u.mem = ready.mem)
    ∧ (s.cml.state = .held → s.cml.stale.isSome = true →
        (s.cml.readable = true ∧ s.cml.copy.isSome = true ∧ 0 < physicalEnd s) ∨ s.cml.readable = false →
        ∃ t, exec (.workingTension g) s = .next t ∧ t.cml.state = .rebuilding
          ∧ t.cml.rebuild = some ⟨0, [], false, 0, 0, []⟩ ∧ t.cml.stale = s.cml.stale
          ∧ (s.cml.readable = true → (geometry t) = geometry s)
          ∧ (s.cml.readable = false →
              geometry t = ⟨clamp 8 64 g.wraps, clamp 1000 100000 g.length, min 100000 g.margin⟩ ∧ identityOf t = none)
          ∧ directory t = (List.range (geometry t).wraps).map (fun i => ⟨i, none⟩)
          ∧ t.mot.state = .starting ∧ t.mot.splice = some 0 ∧ t.mot.startKind = some .read
          ∧ t.mot.pos = some ⟨0, 0, .forward⟩ ∧ t.mot.lock = .unlocked ∧ t.mot.limitTimer = some (s.timebase + 2000)
          ∧ t.ord.stage = .loadMap ∧ t.ord.record = some r ∧ t.rdc.blankRun = 0 ∧ t.exu.cond.getLsbD 3 = true))
  ∧ ∀ (g : Geometry) (x : Time) (s : State), Idle s →
    (s.mot.state = .threading ∧ s.mot.threadPhase = .capture →
      exec .leaderCaptured s =
        .next { s with mot.threadPhase := .path, mot.leader := .inPath, mot.threadTimer := some (s.timebase + 8000) })
    ∧ (s.mot.state = .threading ∧ s.mot.threadPhase = .capture → s.mot.attempt < 3 →
        s.mot.threadTimer = some x → (s.timebase - x).toNat < 2147483648 →
        exec .captureTimerExpiry s =
          .next { s with mot.attempt := s.mot.attempt + 1, mot.threadRetries := min (s.mot.threadRetries + 1) 4294967295,
                         mot.threadTimer := some (s.timebase + 3000) })
    ∧ (s.mot.state = .threading ∧ s.mot.threadPhase = .capture → s.mot.attempt = 3 →
        s.mot.threadTimer = some x → (s.timebase - x).toNat < 2147483648 →
        exec .captureTimerExpiry s =
          .next (raise .motionFault 0 1 2
            { s with mot.state := .seated, mot.leader := .home, mot.threadTimer := none,
                     mot.motionFaults := min (s.mot.motionFaults + 1) 4294967295 }))
    ∧ (s.mot.state = .threading ∧ s.mot.threadPhase = .path →
        exec .leaderAttached s =
          .next { s with mot.threadPhase := .tensioning, mot.leader := .onReel, mot.threadTimer := none })
    ∧ (s.mot.state = .threading ∧ s.mot.threadPhase = .path → s.mot.threadTimer = some x →
        (s.timebase - x).toNat < 2147483648 →
        ∃ t, exec .pathTimerExpiry s = .next t ∧ t.mot.state = .unthreading ∧ t.mot.leader = .inPath
          ∧ t.mot.unthreadWhy = .pathFault ∧ t.mot.threadTimer = some (s.timebase + 8000) ∧ t.mot.tension = .off
          ∧ { t with mot := s.mot } = s)
    ∧ (s.mot.state = .threading ∧ s.mot.threadPhase = .tensioning →
        ∃ t, exec (.workingTension g) s = .next t ∧ t.mot.state = .threadedIdle ∧ t.mot.tension = .tensioned
          ∧ t.mot.pos = some ⟨0, 0, .forward⟩
          ∧ t.mot.dwellTimer = (if s.mot.dwellTime = 0 then none
              else some (s.timebase + BitVec.ofNat 32 (s.mot.dwellTime * 1000)))
          ∧ t.exu.cond.getLsbD 3 = true ∧ t.bsm = s.bsm ∧ t.hcm = s.hcm ∧ t.ord.record = none)
    ∧ (s.mot.state ≠ .threading ∨ s.mot.threadPhase ≠ .capture →
        exec .leaderCaptured s = .next s ∧ exec .captureTimerExpiry s = .next s)
    ∧ (s.mot.state ≠ .threading ∨ s.mot.threadPhase ≠ .path →
        exec .leaderAttached s = .next s ∧ exec .pathTimerExpiry s = .next s)
    ∧ (s.mot.threadTimer = none ∨ (s.mot.threadTimer = some x ∧ 2147483648 ≤ (s.timebase - x).toNat) →
        exec .captureTimerExpiry s = .next s ∧ exec .pathTimerExpiry s = .next s)
    ∧ (s.mot.state ≠ .threading ∨ s.mot.threadPhase ≠ .tensioning → s.mot.retension = false → s.mot.recovering = false →
        exec (.workingTension g) s = .next s)

/-- The leader home from UNTHREADING: SEATED with the leader HOME, no tension and no position, and MOTION_FAULT with PATH when a
path fault was being dealt with. The unthread timer's expiry instead, when its time has come: FAULT_HELD with the leader IN_PATH
and MOTION_FAULT with UNTHREAD; before its time, and in any other state, nothing.
Model's choices: logs 12, 13, 23. -/
def Obligations.UnthreadingEvents : Prop :=
  ∀ s : State, Idle s →
    (s.mot.state ≠ .unthreading → exec .leaderHome s = .next s ∧ exec .unthreadTimerExpiry s = .next s)
    ∧ (s.mot.state = .unthreading →
        (∃ t, exec .leaderHome s = .next t ∧ t.mot.state = .seated ∧ t.mot.leader = .home ∧ t.mot.pos = none
          ∧ t.mot.tension = .off ∧ t.mot.threadTimer = none ∧ t.ord.record = none
          ∧ (s.mot.unthreadWhy = .pathFault → t.exu = (raise .motionFault 0 2 14 s).exu
              ∧ t.mot.motionFaults = min (s.mot.motionFaults + 1) 4294967295)
          ∧ (s.mot.unthreadWhy ≠ .pathFault → t.exu = s.exu ∧ t.mem = s.mem ∧ t.mot.motionFaults = s.mot.motionFaults))
        ∧ (∀ x, s.mot.threadTimer = some x → 2147483648 ≤ (s.timebase - x).toNat →
            exec .unthreadTimerExpiry s = .next s)
        ∧ (∀ x, s.mot.threadTimer = some x → (s.timebase - x).toNat < 2147483648 → exec .unthreadTimerExpiry s =
            .next (raise .motionFault 0 3 14
              { s with mot.state := .faultHeld, mot.leader := .inPath, mot.pos := none, mot.threadTimer := none,
                       mot.tension := .off, mot.motionFaults := min (s.mot.motionFaults + 1) 4294967295 })))

/-- The dwell timer's expiry, when its time has come, relaxes still tape, keeping its position and splice point. Tape at
rest after a stop goes back against the wrap's direction when the run-up point lies behind on the same wrap, and travels to
it otherwise. At the run-up point MOT is POSITIONED, the dwell timer started and the backhitch counted.
Model's choices: logs 12, 13. -/
def Obligations.StopAndBackhitch : Prop :=
  ∀ (p : Pos) (sp : Nat) (s : State), Idle s →
    (∀ x, s.mot.dwellTimer = some x → (s.timebase - x).toNat < 2147483648 →
        s.mot.state = .threadedIdle ∨ s.mot.state = .positioned →
      exec .dwellTimerExpiry s =
        .next { s with mot.state := .relaxed, mot.tension := .relaxed, mot.dwellTimer := none })
    ∧ (s.mot.dwellTimer = none → exec .dwellTimerExpiry s = .next s)
    ∧ (∀ x, s.mot.dwellTimer = some x → 2147483648 ≤ (s.timebase - x).toNat → exec .dwellTimerExpiry s = .next s)
    ∧ (s.mot.state ≠ .stopping → exec .tapeAtRest s = .next s)
    ∧ (s.mot.state = .stopping → s.mot.afterRest = .runUp → s.mot.pos = some p → s.mot.splice = some sp →
        p.wrap = (runUpPoint s sp).1 → (runUpPoint s sp).2 < p.index →
        exec .tapeAtRest s =
          .next { s with mot.state := .repositioning, mot.dwellTimer := none,
                         mot.pos := some { p with dir := (wrapDirection p.wrap).opposite } })
    ∧ (s.mot.state = .stopping → s.mot.afterRest = .runUp → s.mot.pos = some p → s.mot.splice = some sp →
        ¬(p.wrap = (runUpPoint s sp).1 ∧ (runUpPoint s sp).2 < p.index) →
        ∃ t, exec .tapeAtRest s = .next t ∧ t.mot.state = .travel ∧ t.mot.dest = .runUp true ∧ t.mot.splice = some sp
          ∧ { t with mot := s.mot } = s)
    ∧ (s.mot.state ≠ .repositioning → exec .runUpPointReached s = .next s)
    ∧ (s.mot.state = .repositioning → s.mot.splice = some sp → s.mot.held = none → s.mot.locate = none →
        exec .runUpPointReached s =
          .next { s with mot.state := .positioned, mot.backhitches := min (s.mot.backhitches + 1) 4294967295,
                         mot.pos := some ⟨(runUpPoint s sp).1, (runUpPoint s sp).2, wrapDirection (runUpPoint s sp).1⟩,
                         mot.dwellTimer := if s.mot.dwellTime = 0 then none
                           else some (s.timebase + BitVec.ofNat 32 (s.mot.dwellTime * 1000)) })

/-- A travel to a named place, or a rewind, arrives: the heads stand there in THREADED_IDLE with the wrap's direction, no splice
point is held, the travel is counted and the dwell timer started. A recovery rewind ends at the BOT sensor. Out of their
states neither event changes anything.
Model's choices: logs 12, 20. -/
def Obligations.TravelArrives : Prop :=
  ∀ (x : Nat) (s : State), Idle s → s.mot.held = none →
    (s.mot.state ≠ .travel → exec .travelArrival s = .next s ∧ exec .botSensor s = .next s)
    ∧ (s.mot.state = .travel → s.mot.dest = .named x →
        ∃ t, exec .travelArrival s = .next t ∧ t.mot.state = .threadedIdle
          ∧ t.mot.pos = some (if physicalEnd s ≤ x then
                ⟨(geometry s).wraps - 1, wrapLength s - 1, wrapDirection ((geometry s).wraps - 1)⟩
              else ⟨x / wrapLength s, x % wrapLength s, wrapDirection (x / wrapLength s)⟩)
          ∧ t.mot.splice = none ∧ t.mot.travels = min (s.mot.travels + 1) 4294967295
          ∧ t.mot.dwellTimer = (if s.mot.dwellTime = 0 then none
              else some (s.timebase + BitVec.ofNat 32 (s.mot.dwellTime * 1000)))
          ∧ { t with mot := s.mot } = s)
    ∧ (s.mot.state = .travel → s.mot.dest = .bot → s.mot.afterRewind = .nothing →
        ∃ t, exec .travelArrival s = .next t ∧ t.mot.state = .threadedIdle ∧ t.mot.pos = some ⟨0, 0, .forward⟩
          ∧ t.mot.splice = none ∧ t.mot.travels = min (s.mot.travels + 1) 4294967295 ∧ { t with mot := s.mot } = s)
    ∧ (s.mot.state = .travel → s.mot.dest = .recovery →
        ∃ t, exec .botSensor s = .next t ∧ t.mot.state = .threadedIdle ∧ t.mot.pos = some ⟨0, 0, .forward⟩
          ∧ t.mot.splice = none ∧ t.mot.travels = s.mot.travels ∧ t.mem = s.mem ∧ t.exu = s.exu ∧ t.bsm = s.bsm)
    ∧ (s.mot.state = .travel → s.mot.dest ≠ .recovery → exec .botSensor s = .next s)

/-- A turn ends with the heads at index 0 of the next wrap, in its direction; the turn is counted, the limit timer started, and
the streaming state turned from is entered again, no request being held.
Model's choices: log 12. -/
def Obligations.TurnEndsOnNextWrap : Prop :=
  ∀ (p : Pos) (s : State), Idle s →
    (s.mot.state ≠ .turning → exec .turnDone s = .next s)
    ∧ (s.mot.state = .turning → s.mot.held = none → s.mot.pos = some p →
        ∃ t, exec .turnDone s = .next t
          ∧ t.mot.pos = some ⟨p.wrap + 1, 0, if (p.wrap + 1) % 2 = 0 then .forward else .reverse⟩
          ∧ t.mot.wrapTurns = min (s.mot.wrapTurns + 1) 4294967295 ∧ t.mot.limitTimer = some (s.timebase + 2000)
          ∧ t.mot.state = (match s.mot.turnFrom with | .write => .streamingWrite | .read => .streamingRead)
          ∧ t.mot.speed = s.mot.speed ∧ t.mot.lock = s.mot.lock ∧ t.bsm = s.bsm ∧ t.cml = s.cml)

/-- Cartridge memory answers. For the LOAD in hand of a seated cartridge, contents that agree, pass the first class and are not
of a cleaning cartridge become the copy, its load count raised by one, with the stale mark DIRTY where the dirty flag is set,
INCONSISTENT where it is clear and the second class fails, and else none; threading begins. An attempt with a check word that
disagrees, an answer of the wrong kind or no answer within its time is made again, up to the third; the failure of the third, or
contents that fail the first class, with no order for it, leaves the memory unreadable, the access counted as failed and
CM_FAULT raised. Model's choices: logs 12, 26, 32, 38 (DIRTY before INCONSISTENT, and contents that fail the first class a
failed access), 86 (detail C of CM_FAULT names the cartridge state as it stands before CML enters HELD). -/
def Obligations.CartridgeMemoryAnswers : Prop :=
  ∀ (r : OrderRec) (c : CmContents) (a : CmAccess) (s : State), Calm s → portAtRest s → s.rdc.phase = .none →
    (s.cml.access = none → ∀ x, exec (.cmAnswer x) s = .next s ∧ exec .cmAttemptTimeout s = .next s)
    ∧ (s.cml.access = some ⟨.loadRead, a.attempt, a.fields, false⟩ → s.ord.record = some r → kindOfCode r.kind = some .load →
        s.ord.stage = .loadMemory → s.ord.loadAborted = false → s.mot.state = .seated → FirstClass c →
        c.type ≠ some .cleaning →
        ∃ stale, (c.dirty = true → stale = some .dirty)
          ∧ (c.dirty = false → SecondClass c → stale = none)
          ∧ (c.dirty = false → ¬SecondClass c → stale = some .inconsistent)
          ∧ exec (.cmAnswer (.contents c true)) s =
              .next { s with
                cml.access := none, cml.state := .held, cml.readable := true, cml.stale := stale,
                cml.copy := some
                  { identity := some c.identity, type := c.type, geometry := c.geometry,
                    loadCount := min (c.loadCount + 1) 4294967295, dirty := c.dirty, eod := c.eod,
                    directory := c.directory, passesUsed := c.passesUsed, passLimit := c.passLimit,
                    cleaningLength := c.cleaningLength },
                cml.rebuilt := false, cml.dirtyWritten := c.dirty, cml.map := none,
                ord.stage := .loadThreading, mot.state := .threading, mot.threadPhase := .capture,
                mot.attempt := 1, mot.threadTimer := some (s.timebase + 3000), mot.ejecting := false })
    ∧ (s.cml.access = some a → a.orphan = false → a.attempt < 3 →
        exec .cmAttemptTimeout s =
            .next { s with cml.access := some ⟨a.kind, a.attempt + 1, a.fields, a.orphan⟩,
                           cml.retried := min (s.cml.retried + 1) 4294967295 }
        ∧ (a.kind = .loadRead → exec (.cmAnswer (.contents c false)) s = exec .cmAttemptTimeout s
            ∧ exec (.cmAnswer .stored) s = exec .cmAttemptTimeout s)
        ∧ (a.kind ≠ .loadRead → exec (.cmAnswer (.contents c true)) s = exec .cmAttemptTimeout s))
    ∧ (s.cml.access = some a → a.orphan = false → a.kind = .loadRead → s.ord.record = none → s.mot.state = .seated →
        ∀ x, (x = .cmAttemptTimeout ∧ a.attempt = 3) ∨ (x = .cmAnswer (.contents c true) ∧ ¬FirstClass c) →
          ∃ t, exec x s = .next t ∧ t.cml.access = none
            ∧ t.cml.failed = min (s.cml.failed + 1) 4294967295 ∧ t.cml.state = .held ∧ t.cml.copy = none
            ∧ t.cml.readable = false ∧ t.cml.stale = some .unreadable
            ∧ t.exu = (raise .cmFault 0 1 s.cml.state.code s).exu ∧ t.mem = (raise .cmFault 0 1 s.cml.state.code s).mem)
    ∧ (s.cml.access = some a → a.kind = .unloadWrite → a.orphan = false → s.ord.record = none →
        ∃ t, exec (.cmAnswer .stored) s = .next t ∧ t.cml.access = none
          ∧ t.cml.copy = s.cml.copy.map (fun x => { x with dirty := false }) ∧ t.mem = s.mem)

/-- A motion second is handed to HCM, which adds one to its motion seconds, saturating at 4,294,967,295, and makes the
evaluation; the scores are not changed. Motion seconds count in every moving state; a cleaning and a hard reset set them to 0,
and a restore takes them from the block.
Model's choices: log 14 (a second counts in a moving state whatever the accumulator holds). -/
def Obligations.MotionSecondCounts : Prop :=
  ∀ (b : HeadHistory) (x : Sensors) (s : State), Idle s →
    (s.mot.state.moving = true →
      ∃ t, exec .motionSecond s = .next t
        ∧ t.hcm = (evaluate { s with hcm.seconds := min (s.hcm.seconds + 1) 4294967295 }).hcm
        ∧ t.hcm.seconds = min (s.hcm.seconds + 1) 4294967295
        ∧ t.hcm.channels.map (fun c => c.score) = s.hcm.channels.map (fun c => c.score)
        ∧ t.bsm = s.bsm)
    ∧ (∀ m : MotionState, m.moving = true ↔
        m ∈ [.starting, .streamingWrite, .streamingRead, .stopping, .repositioning, .turning, .travel, .cleaning])
    ∧ (applyCleaning s).hcm.seconds = 0 ∧ (restoreHistory b s).hcm.seconds = b.seconds
    ∧ (hardResetState x s).hcm.seconds = 0

/-! ### Speed matching, wear, compression -/

/-- Each sample moves the smoothed rate toward it by an eighth of the difference, truncated toward zero. A difference of at most
7 moves it by nothing, one of 8 or more by at least 1, never past the sample. The rate stays within 0 to 1,024,000: a seeding
sets it to an effective rate of at most 262,144, and a step-down only lowers it. -/
def Obligations.RateIsSmoothed : Prop :=
  (∀ (sample waiting : Nat) (s : State),
    (useSample sample waiting s).spm.rate = ((s.spm.rate : Int) + Int.tdiv ((sample : Int) - s.spm.rate) 8).toNat
    ∧ 0 ≤ (s.spm.rate : Int) + Int.tdiv ((sample : Int) - s.spm.rate) 8
    ∧ (s.spm.rate ≤ sample + 7 → sample ≤ s.spm.rate + 7 → (useSample sample waiting s).spm.rate = s.spm.rate)
    ∧ (s.spm.rate + 8 ≤ sample →
        s.spm.rate + 1 ≤ (useSample sample waiting s).spm.rate ∧ (useSample sample waiting s).spm.rate ≤ sample)
    ∧ (sample + 8 ≤ s.spm.rate →
        (useSample sample waiting s).spm.rate + 1 ≤ s.spm.rate ∧ sample ≤ (useSample sample waiting s).spm.rate)
    ∧ (s.spm.rate ≤ 1024000 → sample ≤ 1024000 → (useSample sample waiting s).spm.rate ≤ 1024000)
    ∧ (stepDown s).spm.rate ≤ s.spm.rate)
  ∧ (∀ (k : SessionKind) (s : State), Sound s →
      (seedSession k s).spm.rate = effectiveRate s s.mot.speed ∧ (seedSession k s).spm.rate ≤ 262144)
  ∧ (∀ p t : Nat, p ≤ 1048576 → 1 ≤ t → sampleOf p t ≤ 1024000)

/-- The demand is the smoothed rate, a quarter more in a WRITE session and a quarter less in a READ session from three quarters
of the frames waiting on, the other way at an eighth of them or fewer (R119).
The effective rate of a speed is its table entry times the ACTIVE channels by 16, as they stand at each choice, seeding
and step-down, and does not fall from one speed to the next. SPM chooses the lowest speed whose effective rate reaches the
demand, 5 if none does, and sets the next speed against MOT's current speed: a rise at once, a fall only at the second
choice in a row below the current speed, and then to the higher of the two. -/
def Obligations.SpeedIsChosen : Prop :=
  ∀ (k d : Nat) (s : State), Sound s →
    (∀ sample waiting,
      let r := smooth s.spm.rate sample
      let x := demand s.spm.session r waiting s.bsm.frames.length
      useSample sample waiting s =
        applyChoice (chooseSpeed s x) { s with spm.rate := r, spm.lastSample := some sample, spm.lastDemand := some x })
    ∧ (∀ r waiting,
        let upper := s.bsm.frames.length * 3 ≤ waiting * 4
        let lower := waiting * 8 ≤ s.bsm.frames.length
        demand .write r waiting s.bsm.frames.length = (if upper then r + r / 4 else if lower then r - r / 4 else r)
          ∧ demand .read r waiting s.bsm.frames.length = (if upper then r - r / 4 else if lower then r + r / 4 else r))
    ∧ (∀ j, effectiveRate s j = s.spm.table.getD j 0 * s.hcm.n / 16)
    ∧ s.hcm.n = activeCount s.hcm.channels ∧ 12 ≤ s.hcm.n ∧ s.hcm.n ≤ 16
    ∧ (∀ i j, i ≤ j → j ≤ 5 → effectiveRate s i ≤ effectiveRate s j)
    ∧ (∀ kind j, effectiveRate { s with spm.session := kind } j = effectiveRate s j)
    ∧ (∀ kind, (seedSession kind s).spm.rate = effectiveRate s s.mot.speed)
    ∧ (stepDown s).spm.rate = min s.spm.rate (effectiveRate s (s.mot.speed - 1))
    ∧ (evaluate s).spm = s.spm ∧ (applyCleaning s).spm = s.spm
    ∧ (s.spm.table = [40960, 51200, 61440, 76800, 92160, 112640] →
        (List.range 6).map (effectiveRate s) =
          (if s.hcm.n = 16 then [40960, 51200, 61440, 76800, 92160, 112640]
           else if s.hcm.n = 15 then [38400, 48000, 57600, 72000, 86400, 105600]
           else if s.hcm.n = 14 then [35840, 44800, 53760, 67200, 80640, 98560]
           else if s.hcm.n = 13 then [33280, 41600, 49920, 62400, 74880, 91520]
           else [30720, 38400, 46080, 57600, 69120, 84480]))
    ∧ chooseSpeed s d ≤ 5
    ∧ (∀ j, j < chooseSpeed s d → effectiveRate s j < d)
    ∧ ((∃ j, j ≤ 5 ∧ d ≤ effectiveRate s j) → d ≤ effectiveRate s (chooseSpeed s d))
    ∧ ((∀ j, j ≤ 5 → effectiveRate s j < d) → chooseSpeed s d = 5)
    ∧ (d = 0 → chooseSpeed s d = 0)
    ∧ (s.mot.speed < k →
        applyChoice k s = { s with spm.lastChoice := some k, spm.next := k, spm.vote := none,
                                   spm.rises := min (s.spm.rises + 1) 4294967295 })
    ∧ (k = s.mot.speed →
        applyChoice k s = { s with spm.lastChoice := some k, spm.next := s.mot.speed, spm.vote := none })
    ∧ (k < s.mot.speed → s.spm.vote = none →
        applyChoice k s = { s with spm.lastChoice := some k, spm.next := s.mot.speed, spm.vote := some k })
    ∧ (∀ v, k < s.mot.speed → s.spm.vote = some v →
        applyChoice k s = { s with spm.lastChoice := some k, spm.next := max k v, spm.vote := none,
                                   spm.falls := min (s.spm.falls + 1) 4294967295 })
    ∧ (k ≤ 5 → (applyChoice k s).spm.next ≤ 5)
    ∧ (∀ v, (applyChoice k s).spm.vote = some v → v < (applyChoice k s).mot.speed)

/-- A wear event adds its weight to the score of an ACTIVE channel, up to 65,535, and leaves that of a RETIRED one and of every
other; a release eases every ACTIVE score by a sixty-fourth and counts the bundle. A cleaning quarters every score, makes every
channel ACTIVE unless the head is worn, clears the fence, the call, the motion seconds and the bundles, and is counted (R154).
The evaluation that follows each retires, of the ACTIVE channels at or above the retire threshold, those first in descending
score, equal scores in ascending number, while more than 12 are ACTIVE; one left over fences the head. The head index is the
floor of the sum of the ACTIVE scores by their number. The clean call rises to REQUIRED when it reaches the require threshold
or the head is fenced, to ADVISED when it reaches the advise threshold or the motion seconds the hours limit, and never falls;
a rise to REQUIRED within 500 bundles of a cleaning marks the head worn. Where at most one channel reaches the threshold, the
conditions are CHANNEL_RETIRED or FENCED, then CLEAN_CALL with its cause, then HEAD_WORN (R150 to R153).
Model's choices: log 78 (the cause where the fence is set and the index at or above require). -/
def Obligations.ScoresWearAndEase : Prop :=
  ∀ (c w : Nat) (s : State), HeadCareSound s.hcm →
    (∀ j : Nat, j < 16 → ((wearEvent c w s).hcm.channels.map (fun x => x.score)).getD j 0 =
      (if j = c ∧ (s.hcm.channels[j]?).any (fun x => x.active) = true then
        min ((s.hcm.channels.map (fun x => x.score)).getD j 0 + w) 65535
      else (s.hcm.channels.map (fun x => x.score)).getD j 0))
    ∧ (∀ j : Nat, j < 16 → ((bundleVerified s).hcm.channels.map (fun x => x.score)).getD j 0 =
        (if (s.hcm.channels[j]?).any (fun x => x.active) = true then
          (s.hcm.channels.map (fun x => x.score)).getD j 0 - (s.hcm.channels.map (fun x => x.score)).getD j 0 / 64
        else (s.hcm.channels.map (fun x => x.score)).getD j 0))
    ∧ (bundleVerified s).hcm.bundles = min (s.hcm.bundles + 1) 4294967295
    ∧ (∀ j : Nat, j < 16 → ((applyCleaning s).hcm.channels.map (fun x => x.score)).getD j 0 =
        (s.hcm.channels.map (fun x => x.score)).getD j 0 / 4)
    ∧ applyCleaning s = evaluate { s with hcm := { s.hcm with
        channels := s.hcm.channels.map (fun x => ⟨x.score / 4, x.active || !s.hcm.worn⟩)
        n := if s.hcm.worn then s.hcm.n else 16, fence := false, call := .none, seconds := 0, bundles := 0
        cleanings := min (s.hcm.cleanings + 1) 4294967295 } }
    ∧ 12 ≤ (evaluate s).hcm.n ∧ (evaluate s).hcm.n = activeCount (evaluate s).hcm.channels
    ∧ (evaluate s).hcm.h = activeSum (evaluate s).hcm.channels / (evaluate s).hcm.n
    ∧ let ch := fun j : Nat => s.hcm.channels.getD j ⟨0, false⟩
      let reaches := fun j => (ch j).active && decide (s.hcm.retire ≤ (ch j).score)
      let ahead := fun i => ((List.range 16).filter (fun j => reaches j
        && (decide ((ch i).score < (ch j).score) || (decide ((ch i).score = (ch j).score) && decide (j < i))))).length
      let count := ((List.range 16).filter reaches).length
      let e := evaluate s
      let wanted : CleanCall :=
        if s.hcm.require ≤ e.hcm.h ∨ e.hcm.fence = true then .required
        else if s.hcm.advise ≤ e.hcm.h ∨ s.hcm.hours ≤ s.hcm.seconds then .advised else .none
      let rises := s.hcm.call.code < wanted.code
      let cause := if s.hcm.require ≤ e.hcm.h then 1 else if e.hcm.fence = true then 3
        else if s.hcm.advise ≤ e.hcm.h then 1 else 2
      let wears := rises ∧ wanted = .required ∧ s.hcm.bundles < 500 ∧ s.hcm.worn = false
      e.hcm.channels = (List.range 16).map (fun i =>
          ⟨(ch i).score, (ch i).active && !(reaches i && decide (ahead i < s.hcm.n - 12))⟩)
        ∧ e.hcm.n = max 12 (s.hcm.n - count)
        ∧ e.hcm.retirements = (if e.hcm.n = s.hcm.n then s.hcm.retirements
            else min (s.hcm.retirements + (s.hcm.n - e.hcm.n)) 4294967295)
        ∧ e.hcm.fence = (s.hcm.fence || decide (s.hcm.n - 12 < count))
        ∧ e.hcm.fences = (if s.hcm.fence = false ∧ s.hcm.n - 12 < count then min (s.hcm.fences + 1) 4294967295
            else s.hcm.fences)
        ∧ e.hcm.call = (if rises then wanted else s.hcm.call)
        ∧ e.hcm.rises = (if rises then min (s.hcm.rises + 1) 4294967295 else s.hcm.rises)
        ∧ e.hcm.worn = (s.hcm.worn || decide wears)
        ∧ ∀ i, (∀ j, j < 16 → reaches j = true → j = i) →
            let told := if reaches i = false then s
              else if 12 < s.hcm.n then raise .channelRetired (ch i).score i (s.hcm.n - 1) s
              else if s.hcm.fence = true then s else raise .fenced (ch i).score i 0 s
            let called := if rises then raise .cleanCall 0 wanted.code cause told else told
            let worn := if wears then raise .headWorn s.hcm.bundles 0 0 called else called
            e.exu = worn.exu ∧ e.mem = worn.mem

/-- What the compressor makes of a chunk, the decoder turns back into the chunk: decoding the candidate's stored bytes against
the history it was computed with gives its raw bytes, whatever the table held and whichever form was chosen. -/
def Obligations.CompressionRoundTrip : Prop :=
  ∀ (m : MatchInput) (table : List (Nat × Nat)) (plain : Bool) (e : IndexEntry),
    m.chunk.length ≤ 32768 → m.history.length = min m.rawCount 8192 →
    e.form = (m.candidate table plain).form → e.rawLen = m.chunk.length →
    decodeStored e m.history m.rawCount (m.candidate table plain).stored = some m.chunk
      ∧ (m.candidate table plain).stored.length ≤ m.chunk.length
end

