-- ==== Sys2Proof/Laws/State.lean ====
section
/-! SUPPORT. What the plain updates of State leave as it was, field by field; what a condition raised and an order
completed leave as it was. -/

namespace Sys2Proof.Machine

/-! ### emit -/

@[simp] theorem emit_mem (x : Signal) (s : State) : (emit x s).mem = s.mem := rfl
@[simp] theorem emit_timebase (x : Signal) (s : State) : (emit x s).timebase = s.timebase := rfl
@[simp] theorem emit_portRead (x : Signal) (s : State) : (emit x s).portRead = s.portRead := rfl
@[simp] theorem emit_writeHeads (x : Signal) (s : State) : (emit x s).writeHeads = s.writeHeads := rfl
@[simp] theorem emit_exu (x : Signal) (s : State) : (emit x s).exu = s.exu := rfl
@[simp] theorem emit_ord (x : Signal) (s : State) : (emit x s).ord = s.ord := rfl
@[simp] theorem emit_cmp (x : Signal) (s : State) : (emit x s).cmp = s.cmp := rfl
@[simp] theorem emit_bsm (x : Signal) (s : State) : (emit x s).bsm = s.bsm := rfl
@[simp] theorem emit_marb (x : Signal) (s : State) : (emit x s).marb = s.marb := rfl
@[simp] theorem emit_fmt (x : Signal) (s : State) : (emit x s).fmt = s.fmt := rfl
@[simp] theorem emit_rdc (x : Signal) (s : State) : (emit x s).rdc = s.rdc := rfl
@[simp] theorem emit_dcp (x : Signal) (s : State) : (emit x s).dcp = s.dcp := rfl
@[simp] theorem emit_mot (x : Signal) (s : State) : (emit x s).mot = s.mot := rfl
@[simp] theorem emit_spm (x : Signal) (s : State) : (emit x s).spm = s.spm := rfl
@[simp] theorem emit_cml (x : Signal) (s : State) : (emit x s).cml = s.cml := rfl
@[simp] theorem emit_hcm (x : Signal) (s : State) : (emit x s).hcm = s.hcm := rfl
@[simp] theorem emit_loop (x : Signal) (s : State) : (emit x s).loop = s.loop := rfl
@[simp] theorem emit_pending (x : Signal) (s : State) : (emit x s).pending = s.pending := rfl

/-! ### setStage -/

@[simp] theorem setStage_mem (st : Stage) (s : State) : (setStage st s).mem = s.mem := rfl
@[simp] theorem setStage_timebase (st : Stage) (s : State) : (setStage st s).timebase = s.timebase := rfl
@[simp] theorem setStage_portRead (st : Stage) (s : State) : (setStage st s).portRead = s.portRead := rfl
@[simp] theorem setStage_writeHeads (st : Stage) (s : State) : (setStage st s).writeHeads = s.writeHeads := rfl
@[simp] theorem setStage_exu (st : Stage) (s : State) : (setStage st s).exu = s.exu := rfl
@[simp] theorem setStage_cmp (st : Stage) (s : State) : (setStage st s).cmp = s.cmp := rfl
@[simp] theorem setStage_bsm (st : Stage) (s : State) : (setStage st s).bsm = s.bsm := rfl
@[simp] theorem setStage_marb (st : Stage) (s : State) : (setStage st s).marb = s.marb := rfl
@[simp] theorem setStage_fmt (st : Stage) (s : State) : (setStage st s).fmt = s.fmt := rfl
@[simp] theorem setStage_rdc (st : Stage) (s : State) : (setStage st s).rdc = s.rdc := rfl
@[simp] theorem setStage_dcp (st : Stage) (s : State) : (setStage st s).dcp = s.dcp := rfl
@[simp] theorem setStage_mot (st : Stage) (s : State) : (setStage st s).mot = s.mot := rfl
@[simp] theorem setStage_spm (st : Stage) (s : State) : (setStage st s).spm = s.spm := rfl
@[simp] theorem setStage_cml (st : Stage) (s : State) : (setStage st s).cml = s.cml := rfl
@[simp] theorem setStage_hcm (st : Stage) (s : State) : (setStage st s).hcm = s.hcm := rfl
@[simp] theorem setStage_loop (st : Stage) (s : State) : (setStage st s).loop = s.loop := rfl
@[simp] theorem setStage_sig (st : Stage) (s : State) : (setStage st s).sig = s.sig := rfl
@[simp] theorem setStage_pending (st : Stage) (s : State) : (setStage st s).pending = s.pending := rfl

/-! ### updateFrame -/

@[simp] theorem updateFrame_mem (i : Nat) (f : Frame → Frame) (s : State) : (updateFrame i f s).mem = s.mem := rfl
@[simp] theorem updateFrame_timebase (i : Nat) (f : Frame → Frame) (s : State) : (updateFrame i f s).timebase = s.timebase := rfl
@[simp] theorem updateFrame_portRead (i : Nat) (f : Frame → Frame) (s : State) : (updateFrame i f s).portRead = s.portRead := rfl
@[simp] theorem updateFrame_writeHeads (i : Nat) (f : Frame → Frame) (s : State) : (updateFrame i f s).writeHeads = s.writeHeads := rfl
@[simp] theorem updateFrame_exu (i : Nat) (f : Frame → Frame) (s : State) : (updateFrame i f s).exu = s.exu := rfl
@[simp] theorem updateFrame_ord (i : Nat) (f : Frame → Frame) (s : State) : (updateFrame i f s).ord = s.ord := rfl
@[simp] theorem updateFrame_cmp (i : Nat) (f : Frame → Frame) (s : State) : (updateFrame i f s).cmp = s.cmp := rfl
@[simp] theorem updateFrame_marb (i : Nat) (f : Frame → Frame) (s : State) : (updateFrame i f s).marb = s.marb := rfl
@[simp] theorem updateFrame_fmt (i : Nat) (f : Frame → Frame) (s : State) : (updateFrame i f s).fmt = s.fmt := rfl
@[simp] theorem updateFrame_rdc (i : Nat) (f : Frame → Frame) (s : State) : (updateFrame i f s).rdc = s.rdc := rfl
@[simp] theorem updateFrame_dcp (i : Nat) (f : Frame → Frame) (s : State) : (updateFrame i f s).dcp = s.dcp := rfl
@[simp] theorem updateFrame_mot (i : Nat) (f : Frame → Frame) (s : State) : (updateFrame i f s).mot = s.mot := rfl
@[simp] theorem updateFrame_spm (i : Nat) (f : Frame → Frame) (s : State) : (updateFrame i f s).spm = s.spm := rfl
@[simp] theorem updateFrame_cml (i : Nat) (f : Frame → Frame) (s : State) : (updateFrame i f s).cml = s.cml := rfl
@[simp] theorem updateFrame_hcm (i : Nat) (f : Frame → Frame) (s : State) : (updateFrame i f s).hcm = s.hcm := rfl
@[simp] theorem updateFrame_loop (i : Nat) (f : Frame → Frame) (s : State) : (updateFrame i f s).loop = s.loop := rfl
@[simp] theorem updateFrame_sig (i : Nat) (f : Frame → Frame) (s : State) : (updateFrame i f s).sig = s.sig := rfl
@[simp] theorem updateFrame_pending (i : Nat) (f : Frame → Frame) (s : State) : (updateFrame i f s).pending = s.pending := rfl

/-! ### setFrameState -/

@[simp] theorem setFrameState_mem (i : Nat) (st : FrameState) (s : State) : (setFrameState i st s).mem = s.mem := rfl
@[simp] theorem setFrameState_timebase (i : Nat) (st : FrameState) (s : State) :
    (setFrameState i st s).timebase = s.timebase := rfl
@[simp] theorem setFrameState_portRead (i : Nat) (st : FrameState) (s : State) :
    (setFrameState i st s).portRead = s.portRead := rfl
@[simp] theorem setFrameState_writeHeads (i : Nat) (st : FrameState) (s : State) :
    (setFrameState i st s).writeHeads = s.writeHeads := rfl
@[simp] theorem setFrameState_exu (i : Nat) (st : FrameState) (s : State) : (setFrameState i st s).exu = s.exu := rfl
@[simp] theorem setFrameState_ord (i : Nat) (st : FrameState) (s : State) : (setFrameState i st s).ord = s.ord := rfl
@[simp] theorem setFrameState_cmp (i : Nat) (st : FrameState) (s : State) : (setFrameState i st s).cmp = s.cmp := rfl
@[simp] theorem setFrameState_marb (i : Nat) (st : FrameState) (s : State) : (setFrameState i st s).marb = s.marb := rfl
@[simp] theorem setFrameState_fmt (i : Nat) (st : FrameState) (s : State) : (setFrameState i st s).fmt = s.fmt := rfl
@[simp] theorem setFrameState_rdc (i : Nat) (st : FrameState) (s : State) : (setFrameState i st s).rdc = s.rdc := rfl
@[simp] theorem setFrameState_dcp (i : Nat) (st : FrameState) (s : State) : (setFrameState i st s).dcp = s.dcp := rfl
@[simp] theorem setFrameState_mot (i : Nat) (st : FrameState) (s : State) : (setFrameState i st s).mot = s.mot := rfl
@[simp] theorem setFrameState_spm (i : Nat) (st : FrameState) (s : State) : (setFrameState i st s).spm = s.spm := rfl
@[simp] theorem setFrameState_cml (i : Nat) (st : FrameState) (s : State) : (setFrameState i st s).cml = s.cml := rfl
@[simp] theorem setFrameState_hcm (i : Nat) (st : FrameState) (s : State) : (setFrameState i st s).hcm = s.hcm := rfl
@[simp] theorem setFrameState_loop (i : Nat) (st : FrameState) (s : State) : (setFrameState i st s).loop = s.loop := rfl
@[simp] theorem setFrameState_sig (i : Nat) (st : FrameState) (s : State) : (setFrameState i st s).sig = s.sig := rfl
@[simp] theorem setFrameState_pending (i : Nat) (st : FrameState) (s : State) :
    (setFrameState i st s).pending = s.pending := rfl

/-! ### freeFrameAt -/

@[simp] theorem freeFrameAt_mem (i : Nat) (s : State) : (freeFrameAt i s).mem = s.mem := rfl
@[simp] theorem freeFrameAt_timebase (i : Nat) (s : State) : (freeFrameAt i s).timebase = s.timebase := rfl
@[simp] theorem freeFrameAt_portRead (i : Nat) (s : State) : (freeFrameAt i s).portRead = s.portRead := rfl
@[simp] theorem freeFrameAt_writeHeads (i : Nat) (s : State) : (freeFrameAt i s).writeHeads = s.writeHeads := rfl
@[simp] theorem freeFrameAt_exu (i : Nat) (s : State) : (freeFrameAt i s).exu = s.exu := rfl
@[simp] theorem freeFrameAt_ord (i : Nat) (s : State) : (freeFrameAt i s).ord = s.ord := rfl
@[simp] theorem freeFrameAt_cmp (i : Nat) (s : State) : (freeFrameAt i s).cmp = s.cmp := rfl
@[simp] theorem freeFrameAt_marb (i : Nat) (s : State) : (freeFrameAt i s).marb = s.marb := rfl
@[simp] theorem freeFrameAt_fmt (i : Nat) (s : State) : (freeFrameAt i s).fmt = s.fmt := rfl
@[simp] theorem freeFrameAt_rdc (i : Nat) (s : State) : (freeFrameAt i s).rdc = s.rdc := rfl
@[simp] theorem freeFrameAt_dcp (i : Nat) (s : State) : (freeFrameAt i s).dcp = s.dcp := rfl
@[simp] theorem freeFrameAt_mot (i : Nat) (s : State) : (freeFrameAt i s).mot = s.mot := rfl
@[simp] theorem freeFrameAt_spm (i : Nat) (s : State) : (freeFrameAt i s).spm = s.spm := rfl
@[simp] theorem freeFrameAt_cml (i : Nat) (s : State) : (freeFrameAt i s).cml = s.cml := rfl
@[simp] theorem freeFrameAt_hcm (i : Nat) (s : State) : (freeFrameAt i s).hcm = s.hcm := rfl
@[simp] theorem freeFrameAt_loop (i : Nat) (s : State) : (freeFrameAt i s).loop = s.loop := rfl
@[simp] theorem freeFrameAt_sig (i : Nat) (s : State) : (freeFrameAt i s).sig = s.sig := rfl
@[simp] theorem freeFrameAt_pending (i : Nat) (s : State) : (freeFrameAt i s).pending = s.pending := rfl

/-! ### updateAssembly -/

@[simp] theorem updateAssembly_mem (b : Nat) (f : Assembly → Assembly) (s : State) :
    (updateAssembly b f s).mem = s.mem := rfl
@[simp] theorem updateAssembly_timebase (b : Nat) (f : Assembly → Assembly) (s : State) :
    (updateAssembly b f s).timebase = s.timebase := rfl
@[simp] theorem updateAssembly_portRead (b : Nat) (f : Assembly → Assembly) (s : State) :
    (updateAssembly b f s).portRead = s.portRead := rfl
@[simp] theorem updateAssembly_writeHeads (b : Nat) (f : Assembly → Assembly) (s : State) :
    (updateAssembly b f s).writeHeads = s.writeHeads := rfl
@[simp] theorem updateAssembly_exu (b : Nat) (f : Assembly → Assembly) (s : State) :
    (updateAssembly b f s).exu = s.exu := rfl
@[simp] theorem updateAssembly_ord (b : Nat) (f : Assembly → Assembly) (s : State) :
    (updateAssembly b f s).ord = s.ord := rfl
@[simp] theorem updateAssembly_cmp (b : Nat) (f : Assembly → Assembly) (s : State) :
    (updateAssembly b f s).cmp = s.cmp := rfl
@[simp] theorem updateAssembly_bsm (b : Nat) (f : Assembly → Assembly) (s : State) :
    (updateAssembly b f s).bsm = s.bsm := rfl
@[simp] theorem updateAssembly_marb (b : Nat) (f : Assembly → Assembly) (s : State) :
    (updateAssembly b f s).marb = s.marb := rfl
@[simp] theorem updateAssembly_fmt (b : Nat) (f : Assembly → Assembly) (s : State) :
    (updateAssembly b f s).fmt = s.fmt := rfl
@[simp] theorem updateAssembly_dcp (b : Nat) (f : Assembly → Assembly) (s : State) :
    (updateAssembly b f s).dcp = s.dcp := rfl
@[simp] theorem updateAssembly_mot (b : Nat) (f : Assembly → Assembly) (s : State) :
    (updateAssembly b f s).mot = s.mot := rfl
@[simp] theorem updateAssembly_spm (b : Nat) (f : Assembly → Assembly) (s : State) :
    (updateAssembly b f s).spm = s.spm := rfl
@[simp] theorem updateAssembly_cml (b : Nat) (f : Assembly → Assembly) (s : State) :
    (updateAssembly b f s).cml = s.cml := rfl
@[simp] theorem updateAssembly_hcm (b : Nat) (f : Assembly → Assembly) (s : State) :
    (updateAssembly b f s).hcm = s.hcm := rfl
@[simp] theorem updateAssembly_loop (b : Nat) (f : Assembly → Assembly) (s : State) :
    (updateAssembly b f s).loop = s.loop := rfl
@[simp] theorem updateAssembly_sig (b : Nat) (f : Assembly → Assembly) (s : State) :
    (updateAssembly b f s).sig = s.sig := rfl
@[simp] theorem updateAssembly_pending (b : Nat) (f : Assembly → Assembly) (s : State) :
    (updateAssembly b f s).pending = s.pending := rfl

/-! ### setEod -/

@[simp] theorem setEod_mem (a b : Nat) (s : State) : (setEod a b s).mem = s.mem := rfl
@[simp] theorem setEod_timebase (a b : Nat) (s : State) : (setEod a b s).timebase = s.timebase := rfl
@[simp] theorem setEod_portRead (a b : Nat) (s : State) : (setEod a b s).portRead = s.portRead := rfl
@[simp] theorem setEod_writeHeads (a b : Nat) (s : State) : (setEod a b s).writeHeads = s.writeHeads := rfl
@[simp] theorem setEod_exu (a b : Nat) (s : State) : (setEod a b s).exu = s.exu := rfl
@[simp] theorem setEod_ord (a b : Nat) (s : State) : (setEod a b s).ord = s.ord := rfl
@[simp] theorem setEod_cmp (a b : Nat) (s : State) : (setEod a b s).cmp = s.cmp := rfl
@[simp] theorem setEod_bsm (a b : Nat) (s : State) : (setEod a b s).bsm = s.bsm := rfl
@[simp] theorem setEod_marb (a b : Nat) (s : State) : (setEod a b s).marb = s.marb := rfl
@[simp] theorem setEod_fmt (a b : Nat) (s : State) : (setEod a b s).fmt = s.fmt := rfl
@[simp] theorem setEod_rdc (a b : Nat) (s : State) : (setEod a b s).rdc = s.rdc := rfl
@[simp] theorem setEod_dcp (a b : Nat) (s : State) : (setEod a b s).dcp = s.dcp := rfl
@[simp] theorem setEod_mot (a b : Nat) (s : State) : (setEod a b s).mot = s.mot := rfl
@[simp] theorem setEod_spm (a b : Nat) (s : State) : (setEod a b s).spm = s.spm := rfl
@[simp] theorem setEod_hcm (a b : Nat) (s : State) : (setEod a b s).hcm = s.hcm := rfl
@[simp] theorem setEod_loop (a b : Nat) (s : State) : (setEod a b s).loop = s.loop := rfl
@[simp] theorem setEod_sig (a b : Nat) (s : State) : (setEod a b s).sig = s.sig := rfl
@[simp] theorem setEod_pending (a b : Nat) (s : State) : (setEod a b s).pending = s.pending := rfl

/-! ### updateCopy -/

@[simp] theorem updateCopy_mem (f : CartCopy → CartCopy) (s : State) : (updateCopy f s).mem = s.mem := rfl
@[simp] theorem updateCopy_timebase (f : CartCopy → CartCopy) (s : State) : (updateCopy f s).timebase = s.timebase := rfl
@[simp] theorem updateCopy_portRead (f : CartCopy → CartCopy) (s : State) : (updateCopy f s).portRead = s.portRead := rfl
@[simp] theorem updateCopy_writeHeads (f : CartCopy → CartCopy) (s : State) : (updateCopy f s).writeHeads = s.writeHeads := rfl
@[simp] theorem updateCopy_exu (f : CartCopy → CartCopy) (s : State) : (updateCopy f s).exu = s.exu := rfl
@[simp] theorem updateCopy_ord (f : CartCopy → CartCopy) (s : State) : (updateCopy f s).ord = s.ord := rfl
@[simp] theorem updateCopy_cmp (f : CartCopy → CartCopy) (s : State) : (updateCopy f s).cmp = s.cmp := rfl
@[simp] theorem updateCopy_bsm (f : CartCopy → CartCopy) (s : State) : (updateCopy f s).bsm = s.bsm := rfl
@[simp] theorem updateCopy_marb (f : CartCopy → CartCopy) (s : State) : (updateCopy f s).marb = s.marb := rfl
@[simp] theorem updateCopy_fmt (f : CartCopy → CartCopy) (s : State) : (updateCopy f s).fmt = s.fmt := rfl
@[simp] theorem updateCopy_rdc (f : CartCopy → CartCopy) (s : State) : (updateCopy f s).rdc = s.rdc := rfl
@[simp] theorem updateCopy_dcp (f : CartCopy → CartCopy) (s : State) : (updateCopy f s).dcp = s.dcp := rfl
@[simp] theorem updateCopy_mot (f : CartCopy → CartCopy) (s : State) : (updateCopy f s).mot = s.mot := rfl
@[simp] theorem updateCopy_spm (f : CartCopy → CartCopy) (s : State) : (updateCopy f s).spm = s.spm := rfl
@[simp] theorem updateCopy_hcm (f : CartCopy → CartCopy) (s : State) : (updateCopy f s).hcm = s.hcm := rfl
@[simp] theorem updateCopy_loop (f : CartCopy → CartCopy) (s : State) : (updateCopy f s).loop = s.loop := rfl
@[simp] theorem updateCopy_sig (f : CartCopy → CartCopy) (s : State) : (updateCopy f s).sig = s.sig := rfl
@[simp] theorem updateCopy_pending (f : CartCopy → CartCopy) (s : State) : (updateCopy f s).pending = s.pending := rfl

/-! ### setLock -/

@[simp] theorem setLock_mem (l : LockLevel) (n : Nat) (s : State) : (setLock l n s).mem = s.mem := rfl
@[simp] theorem setLock_timebase (l : LockLevel) (n : Nat) (s : State) : (setLock l n s).timebase = s.timebase := rfl
@[simp] theorem setLock_portRead (l : LockLevel) (n : Nat) (s : State) : (setLock l n s).portRead = s.portRead := rfl
@[simp] theorem setLock_writeHeads (l : LockLevel) (n : Nat) (s : State) : (setLock l n s).writeHeads = s.writeHeads := rfl
@[simp] theorem setLock_exu (l : LockLevel) (n : Nat) (s : State) : (setLock l n s).exu = s.exu := rfl
@[simp] theorem setLock_ord (l : LockLevel) (n : Nat) (s : State) : (setLock l n s).ord = s.ord := rfl
@[simp] theorem setLock_cmp (l : LockLevel) (n : Nat) (s : State) : (setLock l n s).cmp = s.cmp := rfl
@[simp] theorem setLock_bsm (l : LockLevel) (n : Nat) (s : State) : (setLock l n s).bsm = s.bsm := rfl
@[simp] theorem setLock_marb (l : LockLevel) (n : Nat) (s : State) : (setLock l n s).marb = s.marb := rfl
@[simp] theorem setLock_fmt (l : LockLevel) (n : Nat) (s : State) : (setLock l n s).fmt = s.fmt := rfl
@[simp] theorem setLock_rdc (l : LockLevel) (n : Nat) (s : State) : (setLock l n s).rdc = s.rdc := rfl
@[simp] theorem setLock_dcp (l : LockLevel) (n : Nat) (s : State) : (setLock l n s).dcp = s.dcp := rfl
@[simp] theorem setLock_spm (l : LockLevel) (n : Nat) (s : State) : (setLock l n s).spm = s.spm := rfl
@[simp] theorem setLock_cml (l : LockLevel) (n : Nat) (s : State) : (setLock l n s).cml = s.cml := rfl
@[simp] theorem setLock_hcm (l : LockLevel) (n : Nat) (s : State) : (setLock l n s).hcm = s.hcm := rfl
@[simp] theorem setLock_loop (l : LockLevel) (n : Nat) (s : State) : (setLock l n s).loop = s.loop := rfl
@[simp] theorem setLock_sig (l : LockLevel) (n : Nat) (s : State) : (setLock l n s).sig = s.sig := rfl
@[simp] theorem setLock_pending (l : LockLevel) (n : Nat) (s : State) : (setLock l n s).pending = s.pending := rfl

/-! ### startLimit -/

@[simp] theorem startLimit_mem (s : State) : (startLimit s).mem = s.mem := rfl
@[simp] theorem startLimit_timebase (s : State) : (startLimit s).timebase = s.timebase := rfl
@[simp] theorem startLimit_portRead (s : State) : (startLimit s).portRead = s.portRead := rfl
@[simp] theorem startLimit_writeHeads (s : State) : (startLimit s).writeHeads = s.writeHeads := rfl
@[simp] theorem startLimit_exu (s : State) : (startLimit s).exu = s.exu := rfl
@[simp] theorem startLimit_ord (s : State) : (startLimit s).ord = s.ord := rfl
@[simp] theorem startLimit_cmp (s : State) : (startLimit s).cmp = s.cmp := rfl
@[simp] theorem startLimit_bsm (s : State) : (startLimit s).bsm = s.bsm := rfl
@[simp] theorem startLimit_marb (s : State) : (startLimit s).marb = s.marb := rfl
@[simp] theorem startLimit_fmt (s : State) : (startLimit s).fmt = s.fmt := rfl
@[simp] theorem startLimit_rdc (s : State) : (startLimit s).rdc = s.rdc := rfl
@[simp] theorem startLimit_dcp (s : State) : (startLimit s).dcp = s.dcp := rfl
@[simp] theorem startLimit_spm (s : State) : (startLimit s).spm = s.spm := rfl
@[simp] theorem startLimit_cml (s : State) : (startLimit s).cml = s.cml := rfl
@[simp] theorem startLimit_hcm (s : State) : (startLimit s).hcm = s.hcm := rfl
@[simp] theorem startLimit_loop (s : State) : (startLimit s).loop = s.loop := rfl
@[simp] theorem startLimit_sig (s : State) : (startLimit s).sig = s.sig := rfl
@[simp] theorem startLimit_pending (s : State) : (startLimit s).pending = s.pending := rfl

/-! ### startDwell -/

@[simp] theorem startDwell_mem (s : State) : (startDwell s).mem = s.mem := rfl
@[simp] theorem startDwell_timebase (s : State) : (startDwell s).timebase = s.timebase := rfl
@[simp] theorem startDwell_portRead (s : State) : (startDwell s).portRead = s.portRead := rfl
@[simp] theorem startDwell_writeHeads (s : State) : (startDwell s).writeHeads = s.writeHeads := rfl
@[simp] theorem startDwell_exu (s : State) : (startDwell s).exu = s.exu := rfl
@[simp] theorem startDwell_ord (s : State) : (startDwell s).ord = s.ord := rfl
@[simp] theorem startDwell_cmp (s : State) : (startDwell s).cmp = s.cmp := rfl
@[simp] theorem startDwell_bsm (s : State) : (startDwell s).bsm = s.bsm := rfl
@[simp] theorem startDwell_marb (s : State) : (startDwell s).marb = s.marb := rfl
@[simp] theorem startDwell_fmt (s : State) : (startDwell s).fmt = s.fmt := rfl
@[simp] theorem startDwell_rdc (s : State) : (startDwell s).rdc = s.rdc := rfl
@[simp] theorem startDwell_dcp (s : State) : (startDwell s).dcp = s.dcp := rfl
@[simp] theorem startDwell_spm (s : State) : (startDwell s).spm = s.spm := rfl
@[simp] theorem startDwell_cml (s : State) : (startDwell s).cml = s.cml := rfl
@[simp] theorem startDwell_hcm (s : State) : (startDwell s).hcm = s.hcm := rfl
@[simp] theorem startDwell_loop (s : State) : (startDwell s).loop = s.loop := rfl
@[simp] theorem startDwell_sig (s : State) : (startDwell s).sig = s.sig := rfl
@[simp] theorem startDwell_pending (s : State) : (startDwell s).pending = s.pending := rfl

/-! ### endSession -/

@[simp] theorem endSession_mem (s : State) : (endSession s).mem = s.mem := rfl
@[simp] theorem endSession_timebase (s : State) : (endSession s).timebase = s.timebase := rfl
@[simp] theorem endSession_portRead (s : State) : (endSession s).portRead = s.portRead := rfl
@[simp] theorem endSession_writeHeads (s : State) : (endSession s).writeHeads = s.writeHeads := rfl
@[simp] theorem endSession_exu (s : State) : (endSession s).exu = s.exu := rfl
@[simp] theorem endSession_ord (s : State) : (endSession s).ord = s.ord := rfl
@[simp] theorem endSession_cmp (s : State) : (endSession s).cmp = s.cmp := rfl
@[simp] theorem endSession_bsm (s : State) : (endSession s).bsm = s.bsm := rfl
@[simp] theorem endSession_marb (s : State) : (endSession s).marb = s.marb := rfl
@[simp] theorem endSession_fmt (s : State) : (endSession s).fmt = s.fmt := rfl
@[simp] theorem endSession_rdc (s : State) : (endSession s).rdc = s.rdc := rfl
@[simp] theorem endSession_dcp (s : State) : (endSession s).dcp = s.dcp := rfl
@[simp] theorem endSession_mot (s : State) : (endSession s).mot = s.mot := rfl
@[simp] theorem endSession_cml (s : State) : (endSession s).cml = s.cml := rfl
@[simp] theorem endSession_hcm (s : State) : (endSession s).hcm = s.hcm := rfl
@[simp] theorem endSession_loop (s : State) : (endSession s).loop = s.loop := rfl
@[simp] theorem endSession_sig (s : State) : (endSession s).sig = s.sig := rfl
@[simp] theorem endSession_pending (s : State) : (endSession s).pending = s.pending := rfl

/-! ### addTransfer -/

@[simp] theorem addTransfer_mem (t : Transfer) (s : State) : (addTransfer t s).mem = s.mem := rfl
@[simp] theorem addTransfer_timebase (t : Transfer) (s : State) : (addTransfer t s).timebase = s.timebase := rfl
@[simp] theorem addTransfer_portRead (t : Transfer) (s : State) : (addTransfer t s).portRead = s.portRead := rfl
@[simp] theorem addTransfer_writeHeads (t : Transfer) (s : State) : (addTransfer t s).writeHeads = s.writeHeads := rfl
@[simp] theorem addTransfer_exu (t : Transfer) (s : State) : (addTransfer t s).exu = s.exu := rfl
@[simp] theorem addTransfer_ord (t : Transfer) (s : State) : (addTransfer t s).ord = s.ord := rfl
@[simp] theorem addTransfer_cmp (t : Transfer) (s : State) : (addTransfer t s).cmp = s.cmp := rfl
@[simp] theorem addTransfer_bsm (t : Transfer) (s : State) : (addTransfer t s).bsm = s.bsm := rfl
@[simp] theorem addTransfer_fmt (t : Transfer) (s : State) : (addTransfer t s).fmt = s.fmt := rfl
@[simp] theorem addTransfer_rdc (t : Transfer) (s : State) : (addTransfer t s).rdc = s.rdc := rfl
@[simp] theorem addTransfer_dcp (t : Transfer) (s : State) : (addTransfer t s).dcp = s.dcp := rfl
@[simp] theorem addTransfer_mot (t : Transfer) (s : State) : (addTransfer t s).mot = s.mot := rfl
@[simp] theorem addTransfer_spm (t : Transfer) (s : State) : (addTransfer t s).spm = s.spm := rfl
@[simp] theorem addTransfer_cml (t : Transfer) (s : State) : (addTransfer t s).cml = s.cml := rfl
@[simp] theorem addTransfer_hcm (t : Transfer) (s : State) : (addTransfer t s).hcm = s.hcm := rfl
@[simp] theorem addTransfer_loop (t : Transfer) (s : State) : (addTransfer t s).loop = s.loop := rfl
@[simp] theorem addTransfer_sig (t : Transfer) (s : State) : (addTransfer t s).sig = s.sig := rfl
@[simp] theorem addTransfer_pending (t : Transfer) (s : State) : (addTransfer t s).pending = s.pending := rfl

/-! ### portServes -/

@[simp] theorem portServes_mem (t : Transfer) (s : State) : (portServes t s).mem = s.mem := rfl
@[simp] theorem portServes_timebase (t : Transfer) (s : State) : (portServes t s).timebase = s.timebase := rfl
@[simp] theorem portServes_portRead (t : Transfer) (s : State) : (portServes t s).portRead = s.portRead := rfl
@[simp] theorem portServes_writeHeads (t : Transfer) (s : State) : (portServes t s).writeHeads = s.writeHeads := rfl
@[simp] theorem portServes_exu (t : Transfer) (s : State) : (portServes t s).exu = s.exu := rfl
@[simp] theorem portServes_ord (t : Transfer) (s : State) : (portServes t s).ord = s.ord := rfl
@[simp] theorem portServes_cmp (t : Transfer) (s : State) : (portServes t s).cmp = s.cmp := rfl
@[simp] theorem portServes_bsm (t : Transfer) (s : State) : (portServes t s).bsm = s.bsm := rfl
@[simp] theorem portServes_fmt (t : Transfer) (s : State) : (portServes t s).fmt = s.fmt := rfl
@[simp] theorem portServes_rdc (t : Transfer) (s : State) : (portServes t s).rdc = s.rdc := rfl
@[simp] theorem portServes_dcp (t : Transfer) (s : State) : (portServes t s).dcp = s.dcp := rfl
@[simp] theorem portServes_mot (t : Transfer) (s : State) : (portServes t s).mot = s.mot := rfl
@[simp] theorem portServes_spm (t : Transfer) (s : State) : (portServes t s).spm = s.spm := rfl
@[simp] theorem portServes_cml (t : Transfer) (s : State) : (portServes t s).cml = s.cml := rfl
@[simp] theorem portServes_hcm (t : Transfer) (s : State) : (portServes t s).hcm = s.hcm := rfl
@[simp] theorem portServes_loop (t : Transfer) (s : State) : (portServes t s).loop = s.loop := rfl
@[simp] theorem portServes_sig (t : Transfer) (s : State) : (portServes t s).sig = s.sig := rfl
@[simp] theorem portServes_pending (t : Transfer) (s : State) : (portServes t s).pending = s.pending := rfl

/-! ### dropOrder -/

@[simp] theorem dropOrder_mem (s : State) : (dropOrder s).mem = s.mem := rfl
@[simp] theorem dropOrder_timebase (s : State) : (dropOrder s).timebase = s.timebase := rfl
@[simp] theorem dropOrder_portRead (s : State) : (dropOrder s).portRead = s.portRead := rfl
@[simp] theorem dropOrder_writeHeads (s : State) : (dropOrder s).writeHeads = s.writeHeads := rfl
@[simp] theorem dropOrder_exu (s : State) : (dropOrder s).exu = s.exu := rfl
@[simp] theorem dropOrder_cmp (s : State) : (dropOrder s).cmp = s.cmp := rfl
@[simp] theorem dropOrder_bsm (s : State) : (dropOrder s).bsm = s.bsm := rfl
@[simp] theorem dropOrder_marb (s : State) : (dropOrder s).marb = s.marb := rfl
@[simp] theorem dropOrder_fmt (s : State) : (dropOrder s).fmt = s.fmt := rfl
@[simp] theorem dropOrder_rdc (s : State) : (dropOrder s).rdc = s.rdc := rfl
@[simp] theorem dropOrder_dcp (s : State) : (dropOrder s).dcp = s.dcp := rfl
@[simp] theorem dropOrder_mot (s : State) : (dropOrder s).mot = s.mot := rfl
@[simp] theorem dropOrder_spm (s : State) : (dropOrder s).spm = s.spm := rfl
@[simp] theorem dropOrder_cml (s : State) : (dropOrder s).cml = s.cml := rfl
@[simp] theorem dropOrder_hcm (s : State) : (dropOrder s).hcm = s.hcm := rfl
@[simp] theorem dropOrder_loop (s : State) : (dropOrder s).loop = s.loop := rfl
@[simp] theorem dropOrder_sig (s : State) : (dropOrder s).sig = s.sig := rfl
@[simp] theorem dropOrder_pending (s : State) : (dropOrder s).pending = s.pending := rfl

/-! ### clearProgress -/

@[simp] theorem clearProgress_mem (s : State) : (clearProgress s).mem = s.mem := rfl
@[simp] theorem clearProgress_timebase (s : State) : (clearProgress s).timebase = s.timebase := rfl
@[simp] theorem clearProgress_portRead (s : State) : (clearProgress s).portRead = s.portRead := rfl
@[simp] theorem clearProgress_writeHeads (s : State) : (clearProgress s).writeHeads = s.writeHeads := rfl
@[simp] theorem clearProgress_exu (s : State) : (clearProgress s).exu = s.exu := rfl
@[simp] theorem clearProgress_cmp (s : State) : (clearProgress s).cmp = s.cmp := rfl
@[simp] theorem clearProgress_bsm (s : State) : (clearProgress s).bsm = s.bsm := rfl
@[simp] theorem clearProgress_marb (s : State) : (clearProgress s).marb = s.marb := rfl
@[simp] theorem clearProgress_fmt (s : State) : (clearProgress s).fmt = s.fmt := rfl
@[simp] theorem clearProgress_rdc (s : State) : (clearProgress s).rdc = s.rdc := rfl
@[simp] theorem clearProgress_dcp (s : State) : (clearProgress s).dcp = s.dcp := rfl
@[simp] theorem clearProgress_mot (s : State) : (clearProgress s).mot = s.mot := rfl
@[simp] theorem clearProgress_spm (s : State) : (clearProgress s).spm = s.spm := rfl
@[simp] theorem clearProgress_cml (s : State) : (clearProgress s).cml = s.cml := rfl
@[simp] theorem clearProgress_hcm (s : State) : (clearProgress s).hcm = s.hcm := rfl
@[simp] theorem clearProgress_loop (s : State) : (clearProgress s).loop = s.loop := rfl
@[simp] theorem clearProgress_sig (s : State) : (clearProgress s).sig = s.sig := rfl
@[simp] theorem clearProgress_pending (s : State) : (clearProgress s).pending = s.pending := rfl

/-! ### Conditions raised, and the accesses to the exchange area (R160, R173, R174): what they leave as it was -/

theorem noteRaise_frame (c : Condition) (a b d : Nat) (s : State) : ∃ e, noteRaise c a b d s = { s with exu := e } := by
  have h1 : ∀ x (t : State), ∃ e, keepLatest c x t = { t with exu := e } := fun x t => by
    unfold keepLatest; split_ifs <;> exact ⟨_, rfl⟩
  have h2 : ∀ x (t : State), ∃ e, raiseUnbound c x t = { t with exu := e } := fun x t => by
    unfold raiseUnbound setCond; cases c <;> exact ⟨_, rfl⟩
  obtain ⟨e, he⟩ := h1 ⟨a, b, d, s.timebase⟩ s
  unfold noteRaise
  dsimp only
  rw [he]
  split_ifs
  · exact h2 _ _
  · exact ⟨_, rfl⟩

theorem countCompletion_frame (t : Ticket) (s : State) : ∃ e, countCompletion t s = { s with exu := e } := by
  unfold countCompletion
  dsimp only
  split_ifs
  · exact noteRaise_frame _ _ _ _ _
  · exact ⟨_, rfl⟩

theorem handOver_frame (r : OrderResult) (s : State) : ∃ e o, handOver r s = { s with exu := e, ord := o } := by
  unfold handOver queueWork dropOrder
  split
  · split_ifs <;> exact ⟨_, _, rfl⟩
  · exact ⟨_, _, rfl⟩

theorem rejectBadKind_frame (s : State) : ∃ e o, rejectBadKind s = { s with exu := e, ord := o } := by
  unfold rejectBadKind
  split
  · split_ifs
    · exact ⟨_, _, rfl⟩
    · exact handOver_frame _ _
  · exact ⟨_, _, rfl⟩

theorem readSlot_frame (why : ScanFor) (t : Ticket) (i : Nat) (found : List Nat) (s : State) :
    ∃ e, readSlot why t i found s = { s with exu := e } := by
  unfold readSlot
  dsimp only
  generalize (if slotState s i = 1 && slotTicket s i = t then found ++ [i] else found) = ys
  split_ifs
  · exact ⟨_, rfl⟩
  · cases why
    · unfold scanned lookScanned goOn stall
      dsimp only
      split_ifs
      · exact ⟨_, rfl⟩
      · exact ⟨_, rfl⟩
      · split
        · exact ⟨_, rfl⟩
        · exact noteRaise_frame _ _ _ _ _
    · unfold scanned abortScanned goOn abortUnmatched passOver
      dsimp only
      split_ifs
      · exact noteRaise_frame _ _ _ _ _
      · exact ⟨_, rfl⟩
      · exact ⟨_, rfl⟩

/-- An access done changes memory, EXU and ORD alone. -/
theorem perform_frame (w : ExuWork) (s : State) : ∃ m e o, perform w s = { s with mem := m, exu := e, ord := o } := by
  cases w with
  | cell c d n => exact ⟨_, _, _, rfl⟩
  | held c d => simp only [perform, writeCell]; unfold dropHeld; cases c <;> exact ⟨_, _, _, rfl⟩
  | outcome base o => simp only [perform, writeOutcome]; cases o <;> exact ⟨_, _, _, rfl⟩
  | result slot r => exact ⟨_, _, _, rfl⟩
  | done slot t active =>
    obtain ⟨e, he⟩ := countCompletion_frame t (endActive active (writeSlotState slot 3 s))
    simp only [perform, he]
    unfold lookAfter endActive writeSlotState queueWork
    cases active <;> exact ⟨_, _, _, rfl⟩
  | scan why t i found => obtain ⟨e, he⟩ := readSlot_frame why t i found s; exact ⟨_, e, _, he⟩
  | copy slot t others => exact ⟨_, _, _, rfl⟩
  | taken slot t r others =>
    simp only [perform]
    split_ifs
    · obtain ⟨e, o, he⟩ := rejectBadKind_frame (takeOrder slot t r s)
      rw [he]; exact ⟨_, _, _, rfl⟩
    · exact ⟨_, _, _, rfl⟩

theorem serveOne_frame (s : State) : ∃ m e o g1 g2, serveOne s =
    { s with mem := m, exu := e, ord := o, marb.lastGeneral := g1, marb.lastGroup := g2 } := by
  unfold serveOne
  split
  · rename_i w ws _
    obtain ⟨m, e, o, h⟩ := perform_frame w (recordExuGrant { s with exu.work := ws })
    exact ⟨m, e, o, _, _, h⟩
  · exact ⟨_, _, _, _, _, rfl⟩

/-- The accesses done change memory, EXU and ORD, and of the arbiter the last grants, alone. -/
theorem serve_frame (k : Nat) (s : State) : ∃ m e o g1 g2, serve k s =
    { s with mem := m, exu := e, ord := o, marb.lastGeneral := g1, marb.lastGroup := g2 } := by
  induction k generalizing s with
  | zero => exact ⟨_, _, _, _, _, rfl⟩
  | succ k ih =>
    unfold serve
    split_ifs
    · obtain ⟨m, e, o, g1, g2, h⟩ := serveOne_frame s
      obtain ⟨m', e', o', g1', g2', h'⟩ := ih (serveOne s)
      exact ⟨m', e', o', g1', g2', by rw [h', h]⟩
    · exact ⟨_, _, _, _, _, rfl⟩

theorem serveFree_frame (s : State) : ∃ m e o g1 g2, serveFree s =
    { s with mem := m, exu := e, ord := o, marb.lastGeneral := g1, marb.lastGroup := g2 } := by
  unfold serveFree
  split_ifs
  · exact serve_frame _ _
  · exact ⟨_, _, _, _, _, rfl⟩

/-- R173: a condition counted among the raises, its latest detail kept. -/
def counted (c : Condition) (d : Detail) (s : State) : State :=
  { keepLatest c d s with exu.raises := modifyAt bump16 (keepLatest c d s).exu.raises c.bit }

theorem noteRaise_bound_eq {c : Condition} {a b d : Nat} {s : State} (h : s.exu.bind ≠ .unbound) :
    noteRaise c a b d s = queueWork [.cell c ⟨a, b, d, s.timebase⟩ (raiseCount (counted c ⟨a, b, d, s.timebase⟩ s) c)]
      (counted c ⟨a, b, d, s.timebase⟩ s) := by
  have hk : ∀ x, (keepLatest c x s).exu.bind = s.exu.bind := fun x => by unfold keepLatest; split_ifs <;> rfl
  unfold noteRaise
  dsimp only
  rw [if_neg (by rw [hk]; exact h)]
  rfl

/-- While UNBOUND nothing is written. -/
theorem noteRaise_unbound_work {c : Condition} {a b d : Nat} {s : State} (h : s.exu.bind = .unbound) :
    (noteRaise c a b d s).exu.work = s.exu.work := by
  unfold noteRaise keepLatest raiseUnbound setCond
  cases c <;> simp [h]

/-- What a raise is: noted, where the port is in use or EXU has accesses that wait, and while UNBOUND; else its cell written at once,
by a grant to EXU, and its bit set. -/
theorem raise_cases (c : Condition) (a b d : Nat) (s : State) :
    raise c a b d s = noteRaise c a b d s
      ∨ (s.exu.bind ≠ .unbound ∧ portFree s = true ∧ s.exu.work = []
        ∧ raise c a b d s = setCond c (writeCell c ⟨a, b, d, s.timebase⟩
            (raiseCount (counted c ⟨a, b, d, s.timebase⟩ s) c) (recordExuGrant (counted c ⟨a, b, d, s.timebase⟩ s)))) := by
  unfold raise
  split_ifs with h
  · simp only [Bool.and_eq_true, Bool.not_eq_true'] at h
    have hw : s.exu.work = [] := by simpa [exuWaits] using h.2
    by_cases hb : s.exu.bind = .unbound
    · left
      unfold serveOne
      rw [noteRaise_unbound_work hb, hw]
    · right
      refine ⟨hb, h.1, hw, ?_⟩
      have hc : (counted c ⟨a, b, d, s.timebase⟩ s).exu.work = [] := by
        unfold counted keepLatest; split_ifs <;> exact hw
      rw [noteRaise_bound_eq hb]
      unfold serveOne queueWork
      rw [hc]
      simp only [List.nil_append, perform]
      rw [← hc]
  · exact .inl rfl

theorem raise_frame (c : Condition) (a b d : Nat) (s : State) : ∃ m e g1 g2, raise c a b d s =
    { s with mem := m, exu := e, marb.lastGeneral := g1, marb.lastGroup := g2 } := by
  obtain ⟨e, he⟩ := noteRaise_frame c a b d s
  rcases raise_cases c a b d s with h | ⟨_, _, _, h⟩
  · exact ⟨_, e, _, _, h.trans he⟩
  · rw [h]; unfold counted keepLatest setCond writeCell recordExuGrant; split_ifs <;> exact ⟨_, _, _, _, rfl⟩

theorem finishActive_frame (r : OrderResult) (s : State) : ∃ m e o g1 g2, finishActive r s =
    { s with mem := m, exu := e, ord := o, marb.lastGeneral := g1, marb.lastGroup := g2 } := by
  obtain ⟨e, o, h⟩ := handOver_frame r s
  obtain ⟨m', e', o', g1, g2, h'⟩ := serveFree_frame (handOver r s)
  exact ⟨m', e', o', g1, g2, by unfold finishActive; rw [h', h]⟩



@[simp] theorem raise_ord (c : Condition) (a b d : Nat) (s : State) : (raise c a b d s).ord = s.ord := by
  obtain ⟨_, _, _, _, h⟩ := raise_frame c a b d s; rw [h]

@[simp] theorem raise_timebase (c : Condition) (a b d : Nat) (s : State) : (raise c a b d s).timebase = s.timebase := by
  obtain ⟨_, _, _, _, h⟩ := raise_frame c a b d s; rw [h]

@[simp] theorem raise_portRead (c : Condition) (a b d : Nat) (s : State) : (raise c a b d s).portRead = s.portRead := by
  obtain ⟨_, _, _, _, h⟩ := raise_frame c a b d s; rw [h]

@[simp] theorem raise_writeHeads (c : Condition) (a b d : Nat) (s : State) : (raise c a b d s).writeHeads = s.writeHeads := by
  obtain ⟨_, _, _, _, h⟩ := raise_frame c a b d s; rw [h]

@[simp] theorem raise_cmp (c : Condition) (a b d : Nat) (s : State) : (raise c a b d s).cmp = s.cmp := by
  obtain ⟨_, _, _, _, h⟩ := raise_frame c a b d s; rw [h]

@[simp] theorem raise_bsm (c : Condition) (a b d : Nat) (s : State) : (raise c a b d s).bsm = s.bsm := by
  obtain ⟨_, _, _, _, h⟩ := raise_frame c a b d s; rw [h]

@[simp] theorem raise_fmt (c : Condition) (a b d : Nat) (s : State) : (raise c a b d s).fmt = s.fmt := by
  obtain ⟨_, _, _, _, h⟩ := raise_frame c a b d s; rw [h]

@[simp] theorem raise_rdc (c : Condition) (a b d : Nat) (s : State) : (raise c a b d s).rdc = s.rdc := by
  obtain ⟨_, _, _, _, h⟩ := raise_frame c a b d s; rw [h]

@[simp] theorem raise_dcp (c : Condition) (a b d : Nat) (s : State) : (raise c a b d s).dcp = s.dcp := by
  obtain ⟨_, _, _, _, h⟩ := raise_frame c a b d s; rw [h]

@[simp] theorem raise_mot (c : Condition) (a b d : Nat) (s : State) : (raise c a b d s).mot = s.mot := by
  obtain ⟨_, _, _, _, h⟩ := raise_frame c a b d s; rw [h]

@[simp] theorem raise_spm (c : Condition) (a b d : Nat) (s : State) : (raise c a b d s).spm = s.spm := by
  obtain ⟨_, _, _, _, h⟩ := raise_frame c a b d s; rw [h]

@[simp] theorem raise_cml (c : Condition) (a b d : Nat) (s : State) : (raise c a b d s).cml = s.cml := by
  obtain ⟨_, _, _, _, h⟩ := raise_frame c a b d s; rw [h]

@[simp] theorem raise_hcm (c : Condition) (a b d : Nat) (s : State) : (raise c a b d s).hcm = s.hcm := by
  obtain ⟨_, _, _, _, h⟩ := raise_frame c a b d s; rw [h]

@[simp] theorem raise_loop (c : Condition) (a b d : Nat) (s : State) : (raise c a b d s).loop = s.loop := by
  obtain ⟨_, _, _, _, h⟩ := raise_frame c a b d s; rw [h]

@[simp] theorem raise_sig (c : Condition) (a b d : Nat) (s : State) : (raise c a b d s).sig = s.sig := by
  obtain ⟨_, _, _, _, h⟩ := raise_frame c a b d s; rw [h]

@[simp] theorem raise_pending (c : Condition) (a b d : Nat) (s : State) : (raise c a b d s).pending = s.pending := by
  obtain ⟨_, _, _, _, h⟩ := raise_frame c a b d s; rw [h]

@[simp] theorem raise_marb_burst (c : Condition) (a b d : Nat) (s : State) : (raise c a b d s).marb.burst = s.marb.burst := by
  obtain ⟨_, _, _, _, h⟩ := raise_frame c a b d s; rw [h]

@[simp] theorem raise_marb_transfers (c : Condition) (a b d : Nat) (s : State) : (raise c a b d s).marb.transfers = s.marb.transfers := by
  obtain ⟨_, _, _, _, h⟩ := raise_frame c a b d s; rw [h]

@[simp] theorem raise_marb_lastTape (c : Condition) (a b d : Nat) (s : State) : (raise c a b d s).marb.lastTape = s.marb.lastTape := by
  obtain ⟨_, _, _, _, h⟩ := raise_frame c a b d s; rw [h]

@[simp] theorem raise_marb_lastUrgent (c : Condition) (a b d : Nat) (s : State) : (raise c a b d s).marb.lastUrgent = s.marb.lastUrgent := by
  obtain ⟨_, _, _, _, h⟩ := raise_frame c a b d s; rw [h]

/-! What a raise leaves of the exchange unit. -/

theorem raise_exu (c : Condition) (a b d : Nat) (s : State) : ∃ cd hc ht hd lc lt rs ws, (raise c a b d s).exu =
    { s.exu with cond := cd, heldCartridge := hc, heldTapeReady := ht, heldDiscarded := hd, lastCartridge := lc,
                 lastTapeReady := lt, raises := rs, work := ws } := by
  rcases raise_cases c a b d s with h | ⟨_, _, _, h⟩
  · rw [h]
    unfold noteRaise keepLatest raiseUnbound raiseBound setCond queueWork
    cases c <;> simp only [reduceCtorEq, if_true, if_false] <;> split_ifs <;> exact ⟨_, _, _, _, _, _, _, _, rfl⟩
  · rw [h]
    unfold counted keepLatest setCond writeCell recordExuGrant
    split_ifs <;> exact ⟨_, _, _, _, _, _, _, _, rfl⟩

@[simp] theorem raise_exu_bind (c : Condition) (a b d : Nat) (s : State) : (raise c a b d s).exu.bind = s.exu.bind := by
  obtain ⟨_, _, _, _, _, _, _, _, h⟩ := raise_exu c a b d s; rw [h]

@[simp] theorem raise_exu_binding (c : Condition) (a b d : Nat) (s : State) : (raise c a b d s).exu.binding = s.exu.binding := by
  obtain ⟨_, _, _, _, _, _, _, _, h⟩ := raise_exu c a b d s; rw [h]

@[simp] theorem raise_exu_base (c : Condition) (a b d : Nat) (s : State) : (raise c a b d s).exu.base = s.exu.base := by
  obtain ⟨_, _, _, _, _, _, _, _, h⟩ := raise_exu c a b d s; rw [h]

@[simp] theorem raise_exu_outcome (c : Condition) (a b d : Nat) (s : State) : (raise c a b d s).exu.outcome = s.exu.outcome := by
  obtain ⟨_, _, _, _, _, _, _, _, h⟩ := raise_exu c a b d s; rw [h]

@[simp] theorem raise_exu_postMark (c : Condition) (a b d : Nat) (s : State) : (raise c a b d s).exu.postMark = s.exu.postMark := by
  obtain ⟨_, _, _, _, _, _, _, _, h⟩ := raise_exu c a b d s; rw [h]

@[simp] theorem raise_exu_takenMark (c : Condition) (a b d : Nat) (s : State) : (raise c a b d s).exu.takenMark = s.exu.takenMark := by
  obtain ⟨_, _, _, _, _, _, _, _, h⟩ := raise_exu c a b d s; rw [h]

@[simp] theorem raise_exu_passedOver (c : Condition) (a b d : Nat) (s : State) : (raise c a b d s).exu.passedOver = s.exu.passedOver := by
  obtain ⟨_, _, _, _, _, _, _, _, h⟩ := raise_exu c a b d s; rw [h]

@[simp] theorem raise_exu_active (c : Condition) (a b d : Nat) (s : State) : (raise c a b d s).exu.active = s.exu.active := by
  obtain ⟨_, _, _, _, _, _, _, _, h⟩ := raise_exu c a b d s; rw [h]

@[simp] theorem raise_exu_count (c : Condition) (a b d : Nat) (s : State) : (raise c a b d s).exu.count = s.exu.count := by
  obtain ⟨_, _, _, _, _, _, _, _, h⟩ := raise_exu c a b d s; rw [h]

@[simp] theorem raise_exu_quietTimer (c : Condition) (a b d : Nat) (s : State) : (raise c a b d s).exu.quietTimer = s.exu.quietTimer := by
  obtain ⟨_, _, _, _, _, _, _, _, h⟩ := raise_exu c a b d s; rw [h]

@[simp] theorem raise_exu_lastTicket (c : Condition) (a b d : Nat) (s : State) : (raise c a b d s).exu.lastTicket = s.exu.lastTicket := by
  obtain ⟨_, _, _, _, _, _, _, _, h⟩ := raise_exu c a b d s; rw [h]

@[simp] theorem raise_exu_alertSet (c : Condition) (a b d : Nat) (s : State) : (raise c a b d s).exu.alertSet = s.exu.alertSet := by
  obtain ⟨_, _, _, _, _, _, _, _, h⟩ := raise_exu c a b d s; rw [h]

@[simp] theorem raise_exu_trigger (c : Condition) (a b d : Nat) (s : State) : (raise c a b d s).exu.trigger = s.exu.trigger := by
  obtain ⟨_, _, _, _, _, _, _, _, h⟩ := raise_exu c a b d s; rw [h]

@[simp] theorem raise_exu_quietTime (c : Condition) (a b d : Nat) (s : State) : (raise c a b d s).exu.quietTime = s.exu.quietTime := by
  obtain ⟨_, _, _, _, _, _, _, _, h⟩ := raise_exu c a b d s; rw [h]

@[simp] theorem raise_exu_lastAbort (c : Condition) (a b d : Nat) (s : State) : (raise c a b d s).exu.lastAbort = s.exu.lastAbort := by
  obtain ⟨_, _, _, _, _, _, _, _, h⟩ := raise_exu c a b d s; rw [h]

@[simp] theorem raise_exu_abortOutcome (c : Condition) (a b d : Nat) (s : State) : (raise c a b d s).exu.abortOutcome = s.exu.abortOutcome := by
  obtain ⟨_, _, _, _, _, _, _, _, h⟩ := raise_exu c a b d s; rw [h]

/-! ### Completions (R169, R172) -/

@[simp] theorem finishActive_timebase (r : OrderResult) (s : State) : (finishActive r s).timebase = s.timebase := by
  obtain ⟨_, _, _, _, _, h⟩ := finishActive_frame r s; rw [h]

@[simp] theorem finishActive_portRead (r : OrderResult) (s : State) : (finishActive r s).portRead = s.portRead := by
  obtain ⟨_, _, _, _, _, h⟩ := finishActive_frame r s; rw [h]

@[simp] theorem finishActive_writeHeads (r : OrderResult) (s : State) : (finishActive r s).writeHeads = s.writeHeads := by
  obtain ⟨_, _, _, _, _, h⟩ := finishActive_frame r s; rw [h]

@[simp] theorem finishActive_cmp (r : OrderResult) (s : State) : (finishActive r s).cmp = s.cmp := by
  obtain ⟨_, _, _, _, _, h⟩ := finishActive_frame r s; rw [h]

@[simp] theorem finishActive_bsm (r : OrderResult) (s : State) : (finishActive r s).bsm = s.bsm := by
  obtain ⟨_, _, _, _, _, h⟩ := finishActive_frame r s; rw [h]

@[simp] theorem finishActive_fmt (r : OrderResult) (s : State) : (finishActive r s).fmt = s.fmt := by
  obtain ⟨_, _, _, _, _, h⟩ := finishActive_frame r s; rw [h]

@[simp] theorem finishActive_rdc (r : OrderResult) (s : State) : (finishActive r s).rdc = s.rdc := by
  obtain ⟨_, _, _, _, _, h⟩ := finishActive_frame r s; rw [h]

@[simp] theorem finishActive_dcp (r : OrderResult) (s : State) : (finishActive r s).dcp = s.dcp := by
  obtain ⟨_, _, _, _, _, h⟩ := finishActive_frame r s; rw [h]

@[simp] theorem finishActive_mot (r : OrderResult) (s : State) : (finishActive r s).mot = s.mot := by
  obtain ⟨_, _, _, _, _, h⟩ := finishActive_frame r s; rw [h]

@[simp] theorem finishActive_spm (r : OrderResult) (s : State) : (finishActive r s).spm = s.spm := by
  obtain ⟨_, _, _, _, _, h⟩ := finishActive_frame r s; rw [h]

@[simp] theorem finishActive_cml (r : OrderResult) (s : State) : (finishActive r s).cml = s.cml := by
  obtain ⟨_, _, _, _, _, h⟩ := finishActive_frame r s; rw [h]

@[simp] theorem finishActive_hcm (r : OrderResult) (s : State) : (finishActive r s).hcm = s.hcm := by
  obtain ⟨_, _, _, _, _, h⟩ := finishActive_frame r s; rw [h]

@[simp] theorem finishActive_loop (r : OrderResult) (s : State) : (finishActive r s).loop = s.loop := by
  obtain ⟨_, _, _, _, _, h⟩ := finishActive_frame r s; rw [h]

@[simp] theorem finishActive_sig (r : OrderResult) (s : State) : (finishActive r s).sig = s.sig := by
  obtain ⟨_, _, _, _, _, h⟩ := finishActive_frame r s; rw [h]

@[simp] theorem finishActive_pending (r : OrderResult) (s : State) : (finishActive r s).pending = s.pending := by
  obtain ⟨_, _, _, _, _, h⟩ := finishActive_frame r s; rw [h]

@[simp] theorem finishActive_marb_burst (r : OrderResult) (s : State) : (finishActive r s).marb.burst = s.marb.burst := by
  obtain ⟨_, _, _, _, _, h⟩ := finishActive_frame r s; rw [h]

@[simp] theorem finishActive_marb_transfers (r : OrderResult) (s : State) : (finishActive r s).marb.transfers = s.marb.transfers := by
  obtain ⟨_, _, _, _, _, h⟩ := finishActive_frame r s; rw [h]

@[simp] theorem finishActive_marb_lastTape (r : OrderResult) (s : State) : (finishActive r s).marb.lastTape = s.marb.lastTape := by
  obtain ⟨_, _, _, _, _, h⟩ := finishActive_frame r s; rw [h]

@[simp] theorem finishActive_marb_lastUrgent (r : OrderResult) (s : State) : (finishActive r s).marb.lastUrgent = s.marb.lastUrgent := by
  obtain ⟨_, _, _, _, _, h⟩ := finishActive_frame r s; rw [h]


@[simp] theorem serve_timebase (k : Nat) (s : State) : (serve k s).timebase = s.timebase := by
  obtain ⟨_, _, _, _, _, h⟩ := serve_frame k s; rw [h]

@[simp] theorem serve_portRead (k : Nat) (s : State) : (serve k s).portRead = s.portRead := by
  obtain ⟨_, _, _, _, _, h⟩ := serve_frame k s; rw [h]

@[simp] theorem serve_writeHeads (k : Nat) (s : State) : (serve k s).writeHeads = s.writeHeads := by
  obtain ⟨_, _, _, _, _, h⟩ := serve_frame k s; rw [h]

@[simp] theorem serve_cmp (k : Nat) (s : State) : (serve k s).cmp = s.cmp := by
  obtain ⟨_, _, _, _, _, h⟩ := serve_frame k s; rw [h]

@[simp] theorem serve_bsm (k : Nat) (s : State) : (serve k s).bsm = s.bsm := by
  obtain ⟨_, _, _, _, _, h⟩ := serve_frame k s; rw [h]

@[simp] theorem serve_fmt (k : Nat) (s : State) : (serve k s).fmt = s.fmt := by
  obtain ⟨_, _, _, _, _, h⟩ := serve_frame k s; rw [h]

@[simp] theorem serve_rdc (k : Nat) (s : State) : (serve k s).rdc = s.rdc := by
  obtain ⟨_, _, _, _, _, h⟩ := serve_frame k s; rw [h]

@[simp] theorem serve_dcp (k : Nat) (s : State) : (serve k s).dcp = s.dcp := by
  obtain ⟨_, _, _, _, _, h⟩ := serve_frame k s; rw [h]

@[simp] theorem serve_mot (k : Nat) (s : State) : (serve k s).mot = s.mot := by
  obtain ⟨_, _, _, _, _, h⟩ := serve_frame k s; rw [h]

@[simp] theorem serve_spm (k : Nat) (s : State) : (serve k s).spm = s.spm := by
  obtain ⟨_, _, _, _, _, h⟩ := serve_frame k s; rw [h]

@[simp] theorem serve_cml (k : Nat) (s : State) : (serve k s).cml = s.cml := by
  obtain ⟨_, _, _, _, _, h⟩ := serve_frame k s; rw [h]

@[simp] theorem serve_hcm (k : Nat) (s : State) : (serve k s).hcm = s.hcm := by
  obtain ⟨_, _, _, _, _, h⟩ := serve_frame k s; rw [h]

@[simp] theorem serve_loop (k : Nat) (s : State) : (serve k s).loop = s.loop := by
  obtain ⟨_, _, _, _, _, h⟩ := serve_frame k s; rw [h]

@[simp] theorem serve_sig (k : Nat) (s : State) : (serve k s).sig = s.sig := by
  obtain ⟨_, _, _, _, _, h⟩ := serve_frame k s; rw [h]

@[simp] theorem serve_pending (k : Nat) (s : State) : (serve k s).pending = s.pending := by
  obtain ⟨_, _, _, _, _, h⟩ := serve_frame k s; rw [h]

@[simp] theorem serve_marb_burst (k : Nat) (s : State) : (serve k s).marb.burst = s.marb.burst := by
  obtain ⟨_, _, _, _, _, h⟩ := serve_frame k s; rw [h]

@[simp] theorem serve_marb_transfers (k : Nat) (s : State) : (serve k s).marb.transfers = s.marb.transfers := by
  obtain ⟨_, _, _, _, _, h⟩ := serve_frame k s; rw [h]

@[simp] theorem serve_marb_lastTape (k : Nat) (s : State) : (serve k s).marb.lastTape = s.marb.lastTape := by
  obtain ⟨_, _, _, _, _, h⟩ := serve_frame k s; rw [h]

@[simp] theorem serve_marb_lastUrgent (k : Nat) (s : State) : (serve k s).marb.lastUrgent = s.marb.lastUrgent := by
  obtain ⟨_, _, _, _, _, h⟩ := serve_frame k s; rw [h]

end Sys2Proof.Machine
end

