-- ==== Sys2Proof/Laws/Exchange.lean ====
section
/-! SUPPORT. The accesses of the exchange unit to the exchange area: at a free port each that waits is done and what comes of it
follows, at a port in use they wait; the port never stands free with a request raised; what a raise and a completion do. -/

namespace Sys2Proof.Machine

variable {s : State}

/-! ### The grants of EXU -/

theorem exuWaits_eq_false : exuWaits s = false ↔ s.exu.work = [] := by
  unfold exuWaits; cases s.exu.work <;> simp

theorem exuWaits_eq_true : exuWaits s = true ↔ s.exu.work ≠ [] := by
  rw [← not_iff_not]; simp [exuWaits_eq_false]

theorem general_rotated : ∀ last who : Requester, who.group = .general → who ∈ rotateAfter last generalRequesters := by
  intro last who h
  cases last <;> cases who <;> first | (cases h; done) | decide

theorem find_only {r : Requester} {p : Requester → Bool} (hp : ∀ x, p x = true → x = r) (hr : p r = true) :
    ∀ rs : List Requester, (r ∈ rs → rs.find? p = some r) ∧ (r ∉ rs → rs.find? p = none) := by
  intro rs
  constructor
  · intro hm
    cases hf : rs.find? p with
    | none => exact absurd hr (by simpa using List.find?_eq_none.1 hf r hm)
    | some x => rw [hp x (List.find?_some hf)]
  · intro hm
    refine List.find?_eq_none.2 fun x hx h => hm ?_
    rw [← hp x h]; exact hx

/-- At a port that no transfer asks for, an access of EXU that waits is the next granted. -/
theorem exuNext_free (hf : portFree s = true) (hw : s.exu.work ≠ []) : exuNext s = true := by
  simp only [portFree, Bool.and_eq_true, Option.isNone_iff_eq_none, List.isEmpty_iff] at hf
  have hr : ∀ r, requestRaised s r = decide (r = .exu) := fun r => by
    simp [requestRaised, hf.2, exuWaits_eq_true.2 hw]
  have ho : ∀ rs : List Requester,
      rs.find? (requestRaised s) = if Requester.exu ∈ rs then some Requester.exu else none := fun rs => by
    have := find_only (r := .exu) (p := requestRaised s) (fun x h => by simpa [hr] using h) (by simp [hr]) rs
    split
    · rename_i h; exact this.1 h
    · rename_i h; exact this.2 h
  have hg := general_rotated s.marb.lastGeneral .exu rfl
  have hx : rotationChoice s = some .exu := by
    unfold rotationChoice firstRaised
    simp only [ho, if_pos hg]
    split_ifs <;> simp
  unfold exuNext
  simp [hf.1, exuWaits_eq_true.2 hw, hx, urgentChoice, hr]

theorem exuNext_waits (h : exuNext s = true) : s.exu.work ≠ [] := by
  simp only [exuNext, Bool.and_eq_true] at h; exact exuWaits_eq_true.1 h.1.1.2

/-! ### What may follow from an access -/

theorem workBound_eq (s : State) :
    workBound s = (s.exu.work.map ExuWork.weight).sum + 100 * (s.exu.postMark - s.exu.takenMark).toNat := rfl

theorem weight_pos (w : ExuWork) : 1 ≤ w.weight := by
  cases w <;> simp only [ExuWork.weight] <;> first | omega | (split <;> omega)

theorem sum_finishWork (st : Status) (t : Ticket) : ∀ is : List Nat,
    ((finishWork st t is).map ExuWork.weight).sum = 3 * is.length
  | [] => rfl
  | i :: is => by
    have := sum_finishWork st t is
    simp only [finishWork, List.flatMap_cons, List.map_append, List.sum_append, List.map_cons, List.map_nil, List.sum_cons,
      List.sum_nil, ExuWork.weight, List.length_cons, Bool.false_eq_true, if_false] at this ⊢
    omega

theorem lookWork_weight (s : State) : ((lookWork s).map ExuWork.weight).sum ≤ 69 := by
  unfold lookWork; split <;> simp [ExuWork.weight]

theorem queueWork_bound (ws : List ExuWork) (s : State) :
    workBound (queueWork ws s) = workBound s + (ws.map ExuWork.weight).sum := by
  simp only [workBound, queueWork, List.map_append, List.sum_append]; omega

theorem goOn_bound (ws : List ExuWork) (s : State) : workBound (goOn ws s) = workBound s + (ws.map ExuWork.weight).sum := by
  simp only [workBound, goOn, List.map_append, List.sum_append]; omega

/-- The work and the marks of two states are the same. -/
theorem workBound_congr {t : State} (h : t.exu.work = s.exu.work) (hp : t.exu.postMark = s.exu.postMark)
    (ht : t.exu.takenMark = s.exu.takenMark) : workBound t = workBound s := by simp only [workBound, h, hp, ht]

theorem noteRaise_bound (c : Condition) (a b d : Nat) (s : State) : workBound (noteRaise c a b d s) ≤ workBound s + 1 := by
  have hk : ∀ x, workBound (keepLatest c x s) = workBound s := fun x => by
    unfold keepLatest; split_ifs <;> rfl
  have hu : ∀ x t, workBound (raiseUnbound c x t) = workBound t := fun x t => by
    unfold raiseUnbound; cases c <;> rfl
  have hb : ∀ x t, workBound (raiseBound c x t) = workBound t + 1 := fun x t => by
    unfold raiseBound; rw [queueWork_bound]; rfl
  unfold noteRaise
  dsimp only
  split_ifs
  · rw [hu, hk]; omega
  · rw [hb, hk]

theorem countCompletion_bound (t : Ticket) (s : State) : workBound (countCompletion t s) ≤ workBound s + 1 := by
  unfold countCompletion
  dsimp only
  split_ifs
  · exact noteRaise_bound _ _ _ _ _
  · exact Nat.le_succ _

theorem handOver_bound (r : OrderResult) (s : State) : workBound (handOver r s) ≤ workBound s + 73 := by
  unfold handOver
  split
  · split_ifs
    · omega
    · rw [queueWork_bound]; simp [ExuWork.weight, workBound, dropOrder]
  · omega

theorem rejectBadKind_bound (s : State) : workBound (rejectBadKind s) ≤ workBound s + 73 := by
  unfold rejectBadKind
  split
  · split_ifs
    · omega
    · exact handOver_bound _ _
  · omega

theorem lookStands_next {t : Ticket} (h : lookStands t s = true) :
    t = s.exu.takenMark + 1 ∧ s.exu.postMark ≠ s.exu.takenMark := by
  simp only [lookStands, lookWanted, Bool.and_eq_true, decide_eq_true_eq] at h; exact ⟨h.2, h.1.2⟩

/-- A taken mark moved on by one leaves one ticket fewer before the post mark. -/
theorem ticket_less {p t : Ticket} (h : p ≠ t) : (p - (t + 1)).toNat + 1 = (p - t).toNat := by bv_omega

theorem readSlot_bound (why : ScanFor) (t : Ticket) (i : Nat) (found : List Nat) (s : State) :
    workBound (readSlot why t i found s) + 1 ≤ (ExuWork.scan why t i found).weight + workBound s := by
  unfold readSlot
  generalize hg : (if slotState s i = 1 && slotTicket s i = t then found ++ [i] else found) = found'
  have hl : found'.length ≤ found.length + 1 := by rw [← hg]; split_ifs <;> simp
  dsimp only
  split_ifs with hi
  · rw [goOn_bound]; simp only [ExuWork.weight, List.map_cons, List.map_nil, List.sum_cons, List.sum_nil]; omega
  · simp only [ExuWork.weight]
    cases why with
    | abort =>
      simp only [scanned, abortScanned]
      split_ifs with he
      · have := noteRaise_bound .exchangeFault t.toNat 4 0 { s with exu.abortOutcome := 3 }
        have h2 : workBound { s with exu.abortOutcome := 3 } = workBound s := rfl
        unfold abortUnmatched; omega
      · rw [goOn_bound, sum_finishWork]
        have : workBound (passOver t { s with exu.abortOutcome := 2 }) = workBound s := by
          unfold passOver; split_ifs <;> rfl
        rw [this]; omega
    | look =>
      simp only [scanned, lookScanned]
      split_ifs with hw hp
      · omega
      · rw [goOn_bound, List.map_append, List.sum_append, sum_finishWork]
        obtain ⟨ht, hd⟩ := lookStands_next (by simpa using hw)
        have h1 := lookWork_weight { s with exu.passedOver := s.exu.passedOver.filter (fun x => x ≠ t), exu.takenMark := t }
        have h2 := ticket_less hd
        rw [← ht] at h2
        rw [workBound_eq, workBound_eq]
        dsimp only at h1 ⊢
        omega
      · split
        · rw [goOn_bound]
          simp only [ExuWork.weight, List.map_cons, List.map_nil, List.sum_cons, List.sum_nil]
          simp only [List.length_cons] at hl
          omega
        · have := noteRaise_bound .exchangeFault t.toNat 2 0 { s with exu.bind := .stalled }
          have h2 : workBound { s with exu.bind := .stalled } = workBound s := rfl
          unfold stall; omega

/-- What an access brings is less than what it was worth. -/
theorem perform_bound (w : ExuWork) (s : State) : workBound (perform w s) + 1 ≤ w.weight + workBound s := by
  cases w with
  | cell c d n =>
    have : workBound (setCond c (writeCell c d n s)) = workBound s := workBound_congr rfl rfl rfl
    simp only [perform, ExuWork.weight, this]; omega
  | held c d =>
    have : workBound (dropHeld c (writeCell c d 1 s)) = workBound s := by unfold dropHeld; cases c <;> exact workBound_congr rfl rfl rfl
    simp only [perform, ExuWork.weight, this]; omega
  | outcome base o =>
    have : workBound (writeOutcome base o s) = workBound s := by unfold writeOutcome; cases o <;> exact workBound_congr rfl rfl rfl
    simp only [perform, ExuWork.weight, this]; omega
  | result slot r =>
    have : workBound (writeResult slot r s) = workBound s := workBound_congr rfl rfl rfl
    simp only [perform, ExuWork.weight, this]; omega
  | done slot t active =>
    have h1 := countCompletion_bound t (endActive active (writeSlotState slot 3 s))
    have h2 : workBound (endActive active (writeSlotState slot 3 s)) = workBound s := by
      unfold endActive; cases active <;> exact workBound_congr rfl rfl rfl
    have h3 := lookWork_weight (countCompletion t (endActive active (writeSlotState slot 3 s)))
    simp only [perform, ExuWork.weight, lookAfter]
    cases active with
    | true => simp only [if_true, queueWork_bound] at *; omega
    | false => simp only [Bool.false_eq_true, if_false] at *; omega
  | scan why t i found => exact readSlot_bound why t i found s
  | copy slot t others => simp only [perform, goOn_bound, ExuWork.weight, List.map_cons, List.map_nil, List.sum_cons, List.sum_nil]; omega
  | taken slot t r others =>
    simp only [perform]
    split_ifs with h
    · obtain ⟨ht, hd⟩ := lookStands_next h
      have h1 := rejectBadKind_bound (takeOrder slot t r s)
      have h2 : workBound (takeOrder slot t r s) = (s.exu.work.map ExuWork.weight).sum + 100 * (s.exu.postMark - t).toNat := rfl
      have h3 := ticket_less hd
      rw [← ht] at h3
      rw [goOn_bound, sum_finishWork, workBound_eq s]
      simp only [ExuWork.weight]
      omega
    · simp only [ExuWork.weight]; omega

theorem serveOne_bound (h : s.exu.work ≠ []) : workBound (serveOne s) + 1 ≤ workBound s := by
  unfold serveOne
  split
  · rename_i w ws hw
    have := perform_bound w (recordExuGrant { s with exu.work := ws })
    have h2 : w.weight + workBound (recordExuGrant { s with exu.work := ws }) = workBound s := by
      simp only [workBound, recordExuGrant, hw, List.map_cons, List.sum_cons]; omega
    omega
  · rename_i hw; exact absurd hw h

/-! ### The accesses done -/

/-- The port does not go to EXU: nothing is done. -/
theorem serve_still (h : exuNext s = false) : ∀ k, serve k s = s
  | 0 => rfl
  | k + 1 => by unfold serve; rw [if_neg (by simp [h])]

/-- As many accesses as there may be end with the port not going to EXU. -/
theorem serve_ends : ∀ (k : Nat) (s : State), workBound s ≤ k → exuNext (serve k s) = false := by
  intro k
  induction k with
  | zero =>
    intro s hk
    rw [serve]
    by_contra h
    have := exuNext_waits (s := s) (by simpa using h)
    cases hw : s.exu.work with
    | nil => exact this hw
    | cons w ws =>
      have h1 := weight_pos w
      rw [workBound_eq, hw, List.map_cons, List.sum_cons] at hk
      omega
  | succ k ih =>
    intro s hk
    unfold serve
    split_ifs with h
    · exact ih _ (by have := serveOne_bound (exuNext_waits h); omega)
    · simpa using h

/-- More fuel than is needed changes nothing. -/
theorem serve_more : ∀ (k j : Nat) (s : State), exuNext (serve k s) = false → serve (k + j) s = serve k s := by
  intro k
  induction k with
  | zero => intro j s h; rw [serve] at h; rw [serve_still h, serve]
  | succ k ih =>
    intro j s h
    rw [show k + 1 + j = (k + j) + 1 by omega]
    unfold serve at h ⊢
    split_ifs with hn
    · rw [if_pos hn] at h; exact ih j _ h
    · rfl

theorem serve_enough {k : Nat} (h : workBound s ≤ k) : serve k s = serve (workBound s) s := by
  obtain ⟨j, rfl⟩ := Nat.exists_eq_add_of_le h
  exact serve_more _ _ _ (serve_ends _ _ le_rfl)

/-- The next access done, and then the others. -/
theorem serve_step (h : exuNext s = true) : serve (workBound s) s = serve (workBound (serveOne s)) (serveOne s) := by
  have hb := serveOne_bound (exuNext_waits h)
  obtain ⟨k, hk⟩ : ∃ k, workBound s = k + 1 := ⟨workBound s - 1, by omega⟩
  rw [hk, serve, if_pos h, serve_enough (by omega)]

/-! ### A free port, and a port in use -/

theorem portFree_rest (h : portAtRest s) : portFree s = true := by simp [portFree, h.1, h.2.1]

theorem portFree_busy (h : s.marb.burst.isSome = true) : portFree s = false := by
  unfold portFree; cases hb : s.marb.burst <;> simp_all

theorem exuNext_busy (h : s.marb.burst.isSome = true) : exuNext s = false := by
  unfold exuNext; cases hb : s.marb.burst <;> simp_all

/-- With no access that waits, nothing is done. -/
theorem serve_none (h : s.exu.work = []) (k : Nat) : serve k s = s :=
  serve_still (by by_contra hn; exact exuNext_waits (by simpa using hn) h) k

theorem serveFree_none (h : s.exu.work = []) : serveFree s = s := by
  unfold serveFree; rw [serve_none h]; split_ifs <;> rfl

/-- While another burst holds the port, the accesses wait. -/
theorem serveFree_busy (h : s.marb.burst.isSome = true) : serveFree s = s := by
  unfold serveFree; rw [if_neg (by rw [portFree_busy h]; decide)]

theorem serveOne_free (s : State) : portFree (serveOne s) = portFree s := by
  obtain ⟨m, e, o, g1, g2, h⟩ := serveOne_frame s
  rw [h]; rfl

/-- At a free port the oldest access is done, and then the others. -/
theorem serveFree_step (h : portFree s = true) {w : ExuWork} {ws : List ExuWork} (hw : s.exu.work = w :: ws) :
    serveFree s = serveFree (perform w (recordExuGrant { s with exu.work := ws })) := by
  have h1 : serveOne s = perform w (recordExuGrant { s with exu.work := ws }) := by unfold serveOne; rw [hw]
  have h2 := serve_step (exuNext_free h (by rw [hw]; simp))
  rw [← h1]
  unfold serveFree
  rw [if_pos h, if_pos (by rw [serveOne_free]; exact h), h2]

/-- At a free port every access is done. -/
theorem serveFree_ends (h : portFree s = true) : (serveFree s).exu.work = [] := by
  unfold serveFree
  rw [if_pos h]
  by_contra hw
  have hf : portFree (serve (workBound s) s) = true := by
    obtain ⟨m, e, o, g1, g2, he⟩ := serve_frame (workBound s) s
    rw [he]; exact h
  have := serve_ends (workBound s) s le_rfl
  rw [exuNext_free hf hw] at this
  cases this

/-! ### Conditions raised, and completions -/

/-- While another burst holds the port a raise is noted, and its cell waits. -/
theorem raise_busy (h : s.marb.burst.isSome = true) (c : Condition) (a b d : Nat) :
    raise c a b d s = noteRaise c a b d s := by
  unfold raise; rw [if_neg (by rw [portFree_busy h]; simp)]

theorem raise_unbound (h : s.exu.bind = .unbound) (c : Condition) (a b d : Nat) :
    raise c a b d s = noteRaise c a b d s := (raise_cases c a b d s).resolve_right fun hn => hn.1 h

/-- At a port at rest a condition raised while BOUND or STALLED has its cell written and its bit set at once (R173). -/
theorem raise_rest (h : portAtRest s) (hb : s.exu.bind ≠ .unbound) (c : Condition) (a b d : Nat) :
    raise c a b d s = setCond c (writeCell c ⟨a, b, d, s.timebase⟩
      (raiseCount (counted c ⟨a, b, d, s.timebase⟩ s) c) (recordExuGrant (counted c ⟨a, b, d, s.timebase⟩ s))) := by
  rcases raise_cases c a b d s with hr | ⟨_, _, _, hr⟩
  · have hc : (counted c ⟨a, b, d, s.timebase⟩ s).exu.work = [] := by
      unfold counted keepLatest; split_ifs <;> exact h.2.2
    have hn : raise c a b d s = serveOne (noteRaise c a b d s) := by
      unfold raise; rw [if_pos (by simp [portFree_rest h, exuWaits, h.2.2])]
    rw [hn, noteRaise_bound_eq hb]
    unfold serveOne queueWork
    rw [hc]
    simp only [List.nil_append, perform]
    rw [← hc]
  · exact hr

theorem portFree_marb {x y : State} (hb : x.marb.burst = y.marb.burst) (ht : x.marb.transfers = y.marb.transfers) :
    portFree x = portFree y := by unfold portFree; rw [hb, ht]

theorem portFree_queueWork (ws : List ExuWork) (x : State) : portFree (queueWork ws x) = portFree x := portFree_marb rfl rfl

theorem portFree_recordExuGrant (x : State) : portFree (recordExuGrant x) = portFree x := portFree_marb rfl rfl

theorem portFree_writeResult (slot : Nat) (r : OrderResult) (x : State) : portFree (writeResult slot r x) = portFree x :=
  portFree_marb rfl rfl

/-- A state with its work put back. -/
theorem work_again {x : State} (h : x.exu.work = []) : { x with exu.work := [] } = x := by
  have hx : { x with exu.work := x.exu.work } = x := rfl
  rw [h] at hx
  exact hx

theorem queueWork_again {x : State} (h : x.exu.work = []) (ws vs : List ExuWork) :
    { queueWork ws x with exu.work := vs } = queueWork vs x := by
  unfold queueWork; rw [h]; rfl

/-- At a free port two accesses, of which the first is a result, are done one after the other. -/
theorem serveFree_result {x : State} (hf : portFree x = true) (hw : x.exu.work = []) (slot : Nat) (r : OrderResult)
    (w : ExuWork) : serveFree (queueWork [.result slot r, w] x)
      = serveFree (perform w (writeResult slot r (recordExuGrant x))) := by
  rw [serveFree_step (s := queueWork [.result slot r, w] x) ((portFree_queueWork _ _).trans hf)
    (w := .result slot r) (ws := [w]) (by simp [queueWork, hw]),
    queueWork_again hw]
  have h2 : perform (.result slot r) (recordExuGrant (queueWork [w] x))
      = queueWork [w] (writeResult slot r (recordExuGrant x)) := by
    simp only [perform, writeResult, queueWork, recordExuGrant, exchangeBase]
  have h3 : (writeResult slot r (recordExuGrant x)).exu.work = [] := hw
  rw [h2, serveFree_step (s := queueWork [w] (writeResult slot r (recordExuGrant x)))
    (by rw [portFree_queueWork, portFree_writeResult, portFree_recordExuGrant, hf]) (w := w) (ws := [])
    (by simp [queueWork, h3]), queueWork_again h3]
  have h4 : queueWork [] (writeResult slot r (recordExuGrant x)) = writeResult slot r (recordExuGrant x) := by
    unfold queueWork; rw [h3]; exact work_again h3
  have h5 : recordExuGrant (writeResult slot r (recordExuGrant x)) = writeResult slot r (recordExuGrant x) := by
    simp only [recordExuGrant, writeResult]
  rw [h4, h5]

/-- At a port at rest the completion of the TAKEN order writes its result and DONE, makes the slot inactive and is counted; what
follows of it is then done (R169). -/
theorem finishActive_rest (h : portAtRest s) {slot : Nat} {t : Ticket} (ha : s.exu.active = some (slot, t))
    (r : OrderResult) : finishActive r s = serveFree (perform (.done slot t true)
      (writeResult slot r (recordExuGrant (dropOrder s)))) := by
  have hq : handOver r s = queueWork [.result slot r, .done slot t true] (dropOrder s) := by
    unfold handOver; rw [ha]; simp [h.2.2]
  unfold finishActive
  rw [hq]
  exact serveFree_result (x := dropOrder s) (portFree_rest (s := s) h) h.2.2 slot r _

/-! ### The slots read (R167, R170) -/

/-- A slot is POSTED with a ticket. -/
def postedWith (t : Ticket) (s : State) (i : Nat) : Bool := slotState s i = 1 && slotTicket s i = t

theorem postedSlots_eq (t : Ticket) (s : State) : postedSlots s t = (List.range 16).filter (postedWith t s) := rfl

/-- At a free port a scan of the slots reads them all, and finds those POSTED with the ticket. -/
theorem scan_free (why : ScanFor) (t : Ticket) : ∀ (n i : Nat) (found : List Nat) (ws : List ExuWork) (s : State), i + n = 15 →
    portFree s = true → s.exu.work = .scan why t i found :: ws →
      serveFree s = serveFree (scanned why t (found ++ ((List.range' i (n + 1)).filter (postedWith t s)))
        (recordExuGrant { s with exu.work := ws })) := by
  intro n
  induction n with
  | zero =>
    intro i found ws s hi hf hw
    obtain rfl : i = 15 := by omega
    rw [serveFree_step hf hw]
    simp only [perform, readSlot, if_neg (show ¬(15 < 15) by omega)]
    congr 2
    have : postedWith t s 15 = (decide (slotState (recordExuGrant { s with exu.work := ws }) 15 = 1)
        && decide (slotTicket (recordExuGrant { s with exu.work := ws }) 15 = t)) := rfl
    rw [← this]
    cases hp : postedWith t s 15 <;> simp [List.range', hp]
  | succ n ih =>
    intro i found ws s hi hf hw
    rw [serveFree_step hf hw]
    simp only [perform, readSlot, if_pos (show i < 15 by omega)]
    have hp : postedWith t s i = (decide (slotState (recordExuGrant { s with exu.work := ws }) i = 1)
        && decide (slotTicket (recordExuGrant { s with exu.work := ws }) i = t)) := rfl
    rw [← hp]
    rw [ih (i + 1) _ ws (goOn [.scan why t (i + 1) (if postedWith t s i = true then found ++ [i] else found)]
      (recordExuGrant { s with exu.work := ws })) (by omega) hf rfl]
    have hr : ∀ x, postedWith t (goOn [.scan why t (i + 1) (if postedWith t s i = true then found ++ [i] else found)]
      (recordExuGrant { s with exu.work := ws })) x = postedWith t s x := fun x => rfl
    have hs : List.range' i (n + 1 + 1) = i :: List.range' (i + 1) (n + 1) := by simp [List.range']
    rw [List.filter_congr (fun x _ => hr x), hs]
    congr 2
    cases hq : postedWith t s i <;> simp [hq]

/-- At a free port a scan finds the slots that stand POSTED with the ticket. -/
theorem scan_whole (why : ScanFor) (t : Ticket) (ws : List ExuWork) (hf : portFree s = true)
    (hw : s.exu.work = .scan why t 0 [] :: ws) :
    serveFree s = serveFree (scanned why t (postedSlots s t) (recordExuGrant { s with exu.work := ws })) := by
  rw [scan_free why t 15 0 [] ws s rfl hf hw, List.nil_append, postedSlots_eq, List.range_eq_range']

/-! ### No request waits at a free port (R38) -/

theorem portSettled_serveFree (h : s.marb.burst.isSome = true ∨ s.marb.transfers = []) : portSettled (serveFree s) := by
  by_cases hb : s.marb.burst.isSome = true
  · rw [serveFree_busy hb]; exact .inl hb
  · have ht := h.resolve_left hb
    have hn : s.marb.burst = none := by simpa using hb
    have hf : portFree s = true := by simp [portFree, ht, hn]
    have he := serveFree_ends hf
    obtain ⟨m, e, o, g1, g2, hs⟩ := serveFree_frame s
    refine .inr ⟨?_, ?_, he⟩
    · rw [hs]; exact ht
    · rw [hs]; exact hn

/-- What asks for the port is granted it, if anyone is. -/
theorem rotationChoice_raised {r : Requester} (h : rotationChoice s = some r) : requestRaised s r = true := by
  unfold rotationChoice firstRaised at h
  cases ht : (rotateAfter s.marb.lastTape tapeRequesters).find? (requestRaised s) with
  | none =>
    rw [ht] at h
    exact List.find?_some h
  | some x =>
    have hx := List.find?_some ht
    rw [ht] at h
    cases hg : (rotateAfter s.marb.lastGeneral generalRequesters).find? (requestRaised s) with
    | none => rw [hg] at h; obtain rfl := Option.some.inj h; exact hx
    | some y =>
      have hy := List.find?_some hg
      rw [hg] at h
      dsimp only at h
      split_ifs at h <;> · obtain rfl := Option.some.inj h; assumption

theorem tape_rotated : ∀ last who : Requester, who.group = .tape → who ∈ rotateAfter last tapeRequesters := by
  intro last who h
  cases last <;> cases who <;> first | (cases h; done) | decide

/-- Where no one is granted the port, no one asks for it. -/
theorem rotationChoice_none (h : rotationChoice s = none) (r : Requester) : requestRaised s r = false := by
  by_contra hr
  have hr : requestRaised s r = true := by simpa using hr
  have hf : ∀ rs : List Requester, r ∈ rs → rs.find? (requestRaised s) ≠ none := fun rs hm hn => by
    have := List.find?_eq_none.1 hn r hm
    exact this hr
  unfold rotationChoice firstRaised at h
  cases hg : r.group with
  | tape =>
    have := hf _ (tape_rotated s.marb.lastTape r hg)
    cases ht : (rotateAfter s.marb.lastTape tapeRequesters).find? (requestRaised s) with
    | none => exact this ht
    | some x =>
      rw [ht] at h
      cases hx : (rotateAfter s.marb.lastGeneral generalRequesters).find? (requestRaised s) with
      | none => rw [hx] at h; cases h
      | some y => rw [hx] at h; dsimp only at h; split_ifs at h
  | general =>
    have := hf _ (general_rotated s.marb.lastGeneral r hg)
    cases hx : (rotateAfter s.marb.lastGeneral generalRequesters).find? (requestRaised s) with
    | none => exact this hx
    | some y =>
      rw [hx] at h
      cases ht : (rotateAfter s.marb.lastTape tapeRequesters).find? (requestRaised s) with
      | none => rw [ht] at h; cases h
      | some x => rw [ht] at h; dsimp only at h; split_ifs at h

/-- What a requester other than EXU asks for, or EXU with no access that waits, is a transfer. -/
theorem transferOf_raised {r : Requester} (h : requestRaised s r = true) (he : r = .exu → s.exu.work = []) :
    (grantedBurst s r).isSome = true := by
  have ht : s.marb.transfers.any (fun t => t.who = r) = true := by
    unfold requestRaised at h
    by_contra hn
    rw [Bool.not_eq_true] at hn
    simp only [hn, Bool.false_or, Bool.and_eq_true, decide_eq_true_eq] at h
    rw [exuWaits_eq_false.2 (he h.1)] at h
    cases h.2
  unfold grantedBurst transferOf
  obtain ⟨t, htm, htr⟩ := List.any_eq_true.1 ht
  cases hf : s.marb.transfers.find? (fun t => t.who = r) with
  | none => exact absurd htr (List.find?_eq_none.1 hf t htm)
  | some _ => rfl

theorem urgentChoice_raised {r : Requester} (h : urgentChoice s = some r) : requestRaised s r = true ∧ r ≠ .exu := by
  unfold urgentChoice at h
  dsimp only at h
  split_ifs at h with h1 h2 h3 h4 <;> obtain rfl := Option.some.inj h <;>
    simp only [Bool.and_eq_true] at * <;> refine ⟨?_, by decide⟩
  · exact h1.2.2
  · exact h1.1.2
  · exact h3.2
  · exact h4.2

/-- After a grant a burst holds the port, or no one asks for it (R38). -/
theorem grant_settled (s : State) : portSettled (grant s) := by
  unfold grant
  dsimp only
  have hn := serve_ends (workBound s) s le_rfl
  generalize serve (workBound s) s = x at *
  by_cases hb : x.marb.burst.isSome = true
  · rw [if_pos hb]; exact .inl hb
  rw [if_neg hb]
  cases hu : urgentChoice x with
  | some r =>
    obtain ⟨h1, h2⟩ := urgentChoice_raised hu
    exact .inl (transferOf_raised h1 fun h => absurd h h2)
  | none =>
    dsimp only
    cases hr : rotationChoice x with
    | some r =>
      refine .inl (transferOf_raised (rotationChoice_raised hr) fun h => ?_)
      subst h
      have hb' : x.marb.burst.isNone = true := by simpa using hb
      unfold exuNext at hn
      rw [hb', hu, hr] at hn
      exact exuWaits_eq_false.1 (by simpa using hn)
    | none =>
      have hq := rotationChoice_none hr
      have ht : x.marb.transfers = [] := List.eq_nil_iff_forall_not_mem.2 fun t ht => by
        have := hq t.who
        simp only [requestRaised, Bool.or_eq_false_iff, List.any_eq_false] at this
        exact this.1 t ht (by simp)
      have hw : x.exu.work = [] := exuWaits_eq_false.1 (by
        have := hq .exu
        simp only [requestRaised, Bool.or_eq_false_iff] at this
        simpa using this.2)
      exact .inr ⟨ht, by simpa using hb, hw⟩

end Sys2Proof.Machine
end

