-- ==== Sys2Proof/Laws/Calm.lean ====
section
/-! SUPPORT. What follows an event in a calm state: no block goes on by itself, and the memory port is granted at most. -/

namespace Sys2Proof.Machine

theorem settle_none {s : State} (h : s.sig = []) : ∀ k, settle k s = s
  | 0 => rfl
  | k + 1 => by rw [settle, h]

theorem settle_one {s : State} {x : Signal} (h : s.sig = [x]) (k : Nat) :
    settle (k + 1) s = settle k (answerSignal x { s with sig := [] }) := by rw [settle, h]

theorem accessCheck_calm {s : State} (h : cmlAtRest s) : accessCheck s = s := by
  unfold accessCheck
  rcases h with h | ⟨h1, h2⟩
  · rw [if_pos h]
  · rw [h1, h2]; simp

theorem dcpCheck_calm {s : State} (h : dcpAtRest s) : dcpCheck s = s := by
  unfold dcpCheck
  rcases h with h | ⟨h1, h2⟩ | ⟨hb, hw, hf, hn, b, hx, hd, he, hi⟩
  · simp [h]
  · simp [h1, h2]
  · split
    · rfl
    · rw [hn, hf, hx]
      simp [needBundle, hd, hb, he, hi, beginWait, hw]

/-- With no bundle whose rows are all present, no decode test follows from that. -/
theorem runTests_none {s : State} (h : ∀ a ∈ s.rdc.assemblies, allPresent a = false) :
    ∀ k, runTests fullDue k s = s
  | 0 => rfl
  | k + 1 => by
    unfold runTests
    rw [List.find?_eq_none.2 (fun a ha => by simp [fullDue, h a ha])]

/-- With no bundle whose rows are all present, and none closing, no decode test is due. -/
theorem runTests_rests {s : State} (h : ∀ a ∈ s.rdc.assemblies, allPresent a = false ∧ a.closing = false) :
    ∀ k, runTests testDue k s = s
  | 0 => rfl
  | k + 1 => by
    unfold runTests
    rw [List.find?_eq_none.2 (fun a ha => by simp [testDue, fullDue, h a ha])]

/-- Where no assembly closes as the frontier stands, closing them changes nothing. -/
theorem closeAssemblies_rests {s : State} (h : ∀ a ∈ s.rdc.assemblies, closes (s.rdc.frontier.getD 0) a = false) :
    closeAssemblies s = s := by
  unfold closeAssemblies
  split
  · rfl
  · have : s.rdc.assemblies.map (fun a => if closes (s.rdc.frontier.getD 0) a then { a with closing := true } else a)
        = s.rdc.assemblies := by
      conv_rhs => rw [← List.map_id s.rdc.assemblies]
      exact List.map_congr_left fun a ha => by simp [h a ha]
    rw [this]

theorem rdcCheck_calm {s : State} (h : rdcAtRest s) : rdcCheck s = s := by
  unfold rdcCheck
  rcases h.1 with h | ⟨h, ha⟩ | ⟨hp, ha, hr, hn⟩
  · simp [h, SessionPhase.active]
  · rw [if_neg (by rcases h with h | h <;> simp [h]), runTests_none (fun a hm => (ha a hm).1)]
    split
    · rfl
    · split
      · rfl
      · rename_i hf
        have hc : ∀ a ∈ s.rdc.assemblies, a.closing = false ∧ closes (s.rdc.frontier.getD 0) a = false := fun a hm =>
          (ha a hm).2.resolve_left hf
        rw [closeAssemblies_rests (fun a hm => (hc a hm).2), runTests_rests (fun a hm => ⟨(ha a hm).1, (hc a hm).1⟩)]
  · have h1 : closeAssemblies s = s := by
      have : s.rdc = { s.rdc with assemblies := [] } := by rw [← ha]
      unfold closeAssemblies
      rw [ha, List.map_nil, ← this]
      split <;> rfl
    have h2 : runTests testDue (s.rdc.assemblies.length + 1) s = s := by simp [runTests, ha]
    have h3 : missedCheck s = s := by simp [missedCheck, higherPassed, ha]
    have h4 : endCheck s = s := by unfold endCheck; rw [if_neg (by simp; omega)]
    have h5 : overrunRestart s = s := by simp [overrunRestart, hp]
    have h6 : stalledRoom s = s := by simp [stalledRoom, stalled, hp]
    have h7 : rereadTurn s = s := by simp [rereadTurn, ha, lowestAssembly]
    split
    · dsimp only
      rw [h1, h2]
      simp only [searchCheck, hr]
      rw [if_neg (by simp [hp]), h3, h4, h5, h6, h7]
    · simp [ha, runTests, h1]

theorem storeRow_calm {s : State} (h : rdcAtRest s) : storeRow s = s := by
  unfold storeRow
  rcases h.2 with h | h
  · rw [h]; split <;> rfl
  · rw [if_pos h]

theorem fetchRow_calm {s : State} (h : fmtReadsNone s) : fetchRow s = s := by
  unfold fetchRow
  split
  · rename_i hc
    simp only [Bool.and_eq_true, decide_eq_true_eq] at hc
    rcases h with h | h | h | h | ⟨h1, h2⟩
    · exact absurd hc.1.1.1.1 h
    · exact absurd h hc.1.1.1.2
    · omega
    · rw [Option.isNone_iff_eq_none] at hc; rw [hc.1.2] at h; simp at h
    · have hf : s.fmt.rewrites.find? (fun e => !e.sent) = none := by
        rw [List.find?_eq_none]; intro e he; simp [h2 e he]
      rw [hf, h1]
  · rfl

theorem askAgain_calm {s : State} (h : fmtPlacesNone s) : askAgain s = s := by
  unfold askAgain
  rcases h with h | h | ⟨h1, h2, h3, h4⟩ | ⟨h1, h2, h3⟩
  · simp [h]
  · simp [h]
  · simp [h3]
  · simp [h1]

theorem fmtPlace_calm {s : State} (h : fmtPlacesNone s) : fmtPlace s = s := by
  unfold fmtPlace
  rcases h with h | h | ⟨h1, h2, _, h3⟩ | ⟨h1, h2, h3⟩
  · simp [h]
  · simp [h]
  · have hp : ∀ k, placeRows k s = s := by
      intro k
      cases k with
      | zero => rfl
      | succ k =>
        unfold placeRows
        split
        · rename_i hc ho
          rcases h3 with h3 | h3 | h3 | h3
          · rw [h3] at hc; cases hc
          · rw [h3] at ho; cases ho
          · simp [h3]
          · simp [h3]
        · rfl
    rw [hp]
    simp [h1, fmtCheck, h2]
  · have hw : s.fmt.window.isEmpty = false := by cases hw : s.fmt.window <;> simp_all
    have ho : s.fmt.outBuffer = [] := by
      unfold emissionWork at h2; simp only [Bool.or_eq_false_iff, Bool.not_eq_false'] at h2
      simpa using h2.1.2
    have hp : placeRows 16 s = s := by
      unfold placeRows
      split
      · rename_i hc hx; rw [ho] at hx; cases hx
      · rfl
    rw [hp]
    simp [h1, fmtCheck, h2, hw]

/-- In a calm state no block goes on by itself. -/
theorem proceed_calm {s : State} (h : Calm s) : proceed s = s := by
  unfold proceed
  rw [accessCheck_calm h.cml, dcpCheck_calm h.dcp, dcpCheck_calm h.dcp, rdcCheck_calm h.rdc, storeRow_calm h.rdc,
    fetchRow_calm h.fmt.2, askAgain_calm h.fmt.1, fmtPlace_calm h.fmt.1]

/-- A calm state is steady. -/
theorem Calm.steady {s : State} (h : Calm s) : Steady s := ⟨h.sig, proceed_calm h⟩

/-- What follows an event in a steady state is the grant of the port alone. -/
theorem finish_steady {s : State} (h : Steady s) : finish s = grant s := by
  unfold finish
  simp only [settle_none h.1, h.2]

/-- What follows an event in a calm state is the grant of the port alone. -/
theorem finish_calm {s : State} (h : Calm s) : finish s = grant s := finish_steady h.steady

theorem grant_busy {s : State} (h : s.marb.burst.isSome = true) : grant s = s := by
  unfold grant; rw [serve_still (exuNext_busy h)]; exact if_pos h

/-- With nothing raised, nothing is granted. -/
theorem grant_atRest {s : State} (h : portAtRest s) : grant s = s := by
  have hr : ∀ r, requestRaised s r = false := fun r => by
    unfold requestRaised; rw [h.1, exuWaits_eq_false.2 h.2.2, Bool.and_false]; rfl
  have hf : ∀ rs : List Requester, rs.find? (requestRaised s) = none := fun rs =>
    List.find?_eq_none.2 (fun r _ => by simp [hr])
  unfold grant urgentChoice rotationChoice firstRaised
  rw [serve_none h.2.2]
  simp only [hf]
  simp [hr]

/-- One transfer raised, of a requester of the general group, is granted its first burst. -/
theorem grant_single {s : State} {t : Transfer} (h : s.marb.transfers = [t]) (hb : s.marb.burst = none)
    (hw : s.exu.work = []) (hg : t.who.group = .general) : grant s = portServes t s := by
  have hr : ∀ r, requestRaised s r = decide (t.who = r) := fun r => by
    simp [requestRaised, h, exuWaits_eq_false.2 hw]
  have hu : urgentChoice s = none := by
    unfold urgentChoice
    rw [hr, hr]
    cases hw : t.who <;> simp_all [Requester.group]
  have hf : ∀ rs : List Requester, rs.find? (requestRaised s) = some t.who ∨ rs.find? (requestRaised s) = none := by
    intro rs
    cases hf : rs.find? (requestRaised s) with
    | none => exact .inr rfl
    | some r => have := List.find?_some hf; rw [hr] at this; exact .inl (by simp_all)
  have hs : (rotateAfter s.marb.lastGeneral generalRequesters).find? (requestRaised s) = some t.who := by
    rcases hf (rotateAfter s.marb.lastGeneral generalRequesters) with h1 | h1
    · exact h1
    · have := List.find?_eq_none.1 h1 t.who (general_rotated _ _ hg)
      simp [hr] at this
  have hx : rotationChoice s = some t.who := by
    unfold rotationChoice firstRaised
    rw [hs]
    rcases hf (rotateAfter s.marb.lastTape tapeRequesters) with h1 | h1
    · simp [h1]
    · simp [h1]
  unfold grant
  dsimp only
  rw [serve_none hw, hu, hx]
  simp [hb, grantTo, grantedBurst, transferOf, h, hg, portServes]

/-- In a quiet state nothing follows an event. -/
theorem finish_quiet {s : State} (h : Quiet s) : finish s = s := by
  rw [finish_calm h.toCalm, grant_atRest h.port]

/-! ### Idle states -/

theorem Idle.active {s : State} (h : Idle s) : s.rdc.phase.active = false := by rw [h.session]; rfl

theorem atStage_none {s : State} (h : s.ord.record = none) (k : Kind) (st : Stage) : atStage s k st = false := by
  simp [atStage, takenKind, h]

theorem Idle.calm {s : State} (h : Idle s) : Calm s where
  sig := h.sig
  fmt := ⟨.inl h.stopped, h.noFetch⟩
  rdc := ⟨.inl h.session, .inl h.noRow⟩
  dcp := .inr (.inl ⟨by simp [delivering, atStage_none h.record], by simp [readingBack, h.noAppend]⟩)
  cml := .inr ⟨atStage_none h.record _ _, atStage_none h.record _ _⟩

/-- In an idle state nothing follows an event. -/
theorem finish_idle {s : State} (h : Idle s) : finish s = s := by
  rw [finish_calm h.calm, grant_atRest h.port]

/-- A signal whose answer leaves the part idle is all that follows its event. -/
theorem finish_answered {s t : State} {x : Signal} (hs : s.sig = [x]) (ha : answerSignal x { s with sig := [] } = t)
    (h : Idle t) : finish s = t := by
  have h1 : settle signalFuel s = t := by rw [settle_one hs, ha, settle_none h.sig]
  unfold finish
  simp only [h1, settle_none h.sig, proceed_calm h.calm, grant_atRest h.port]

/-- The same, of a part left calm. -/
theorem finish_answered_calm {s t : State} {x : Signal} (hs : s.sig = [x])
    (ha : answerSignal x { s with sig := [] } = t) (h : Calm t) : finish s = grant t := by
  have h1 : settle signalFuel s = t := by rw [settle_one hs, ha, settle_none h.sig]
  unfold finish
  simp only [h1, settle_none h.sig, proceed_calm h]

end Sys2Proof.Machine
end

