-- ==== Sys2Proof/Laws/Memory.lean ====
section
/-! SUPPORT. Buffer memory: every write keeps the canonical form, a read gives what was written last, and a write leaves
every other address alone. -/

namespace Sys2Proof.Machine

theorem memWfFrom_mono {lo lo' : Nat} (h : lo' ≤ lo) : ∀ {m : Memory}, memWfFrom lo m = true → memWfFrom lo' m = true
  | [], _ => rfl
  | (k, b) :: rest, hm => by
    simp only [memWfFrom, Bool.and_eq_true, decide_eq_true_eq] at hm ⊢
    exact ⟨⟨by omega, hm.1.2⟩, hm.2⟩

theorem memWrite_wfFrom {lo a : Nat} {b : Byte} (h : lo ≤ a) :
    ∀ {m : Memory}, memWfFrom lo m = true → memWfFrom lo (memWrite m a b) = true
  | [], _ => by
    by_cases hb : b = memoryDefault <;> simp [memWrite, memWfFrom, hb, h]
  | (k, c) :: rest, hm => by
    simp only [memWfFrom, Bool.and_eq_true, decide_eq_true_eq] at hm
    simp only [memWrite]
    split_ifs with h1 h2 h3 h4
    · simp only [memWfFrom, Bool.and_eq_true, decide_eq_true_eq]; exact hm
    · simp only [memWfFrom, Bool.and_eq_true, decide_eq_true_eq]
      exact ⟨⟨h, h2⟩, ⟨by omega, hm.1.2⟩, hm.2⟩
    · exact memWfFrom_mono (by omega) hm.2
    · simp only [memWfFrom, Bool.and_eq_true, decide_eq_true_eq]; exact ⟨⟨hm.1.1, h4⟩, hm.2⟩
    · simp only [memWfFrom, Bool.and_eq_true, decide_eq_true_eq]
      exact ⟨hm.1, memWrite_wfFrom (by omega) hm.2⟩

/-- A write keeps the canonical form. -/
theorem memWrite_wf {m : Memory} (h : Memory.wf m = true) (a : Nat) (b : Byte) : Memory.wf (memWrite m a b) = true :=
  memWrite_wfFrom (Nat.zero_le a) h

/-- A write of several bytes keeps the canonical form. -/
theorem memWriteN_wf : ∀ {m : Memory} (_ : Memory.wf m = true) (a : Nat) (bs : List Byte),
    Memory.wf (memWriteN m a bs) = true
  | _, h, _, [] => h
  | _, h, a, b :: bs => memWriteN_wf (memWrite_wf h a b) (a + 1) bs

theorem memRead_below {lo a : Nat} : ∀ {m : Memory}, memWfFrom lo m = true → a < lo → memRead m a = memoryDefault
  | [], _, _ => rfl
  | (k, b) :: rest, hm, h => by
    simp only [memWfFrom, Bool.and_eq_true, decide_eq_true_eq] at hm
    have : k ≠ a := by omega
    simp only [memRead, this, if_false]
    exact memRead_below hm.2 (by omega)

theorem memRead_memWrite_wfFrom {lo a : Nat} {b : Byte} : ∀ {m : Memory}, memWfFrom lo m = true →
    ∀ x, memRead (memWrite m a b) x = if x = a then b else memRead m x
  | [], _, x => by
    by_cases hb : b = memoryDefault <;> by_cases hx : x = a <;> simp [memWrite, memRead, hb, hx, eq_comm]
    exact fun h => absurd h.symm hx
  | (k, c) :: rest, hm, x => by
    simp only [memWfFrom, Bool.and_eq_true, decide_eq_true_eq] at hm
    simp only [memWrite]
    by_cases h1 : a < k
    · by_cases hx : x = a
      · by_cases h2 : b = memoryDefault
        · simp only [h1, h2, hx, if_true, memRead]
          rw [if_neg (by omega)]; exact memRead_below hm.2 (by omega)
        · simp [h1, h2, hx, memRead]
      · have : ¬a = x := fun h => hx h.symm
        by_cases h2 : b = memoryDefault <;> simp [h1, h2, hx, this, memRead]
    · by_cases h2 : a = k
      · subst h2
        by_cases hx : x = a
        · by_cases h3 : b = memoryDefault
          · simp only [h1, h3, hx, if_true, if_false]; exact memRead_below hm.2 (by omega)
          · simp [h3, hx, memRead]
        · have : ¬a = x := fun h => hx h.symm
          by_cases h3 : b = memoryDefault <;> simp [h3, hx, this, memRead]
      · simp only [h1, h2, if_false, memRead]
        rw [memRead_memWrite_wfFrom hm.2 x]
        split_ifs <;> first | rfl | omega

/-- What a byte reads as after a write: the byte written at its address, and what it was elsewhere. -/
theorem memRead_memWrite {m : Memory} (h : Memory.wf m = true) (a x : Nat) (b : Byte) :
    memRead (memWrite m a b) x = if x = a then b else memRead m x := memRead_memWrite_wfFrom h x

/-- A write of several bytes leaves every address outside them alone. -/
theorem memRead_memWriteN_outside : ∀ {m : Memory} (_ : Memory.wf m = true) (a x : Nat) (bs : List Byte),
    (x < a ∨ a + bs.length ≤ x) → memRead (memWriteN m a bs) x = memRead m x
  | _, _, _, _, [], _ => rfl
  | _, h, a, x, b :: bs, hx => by
    simp only [List.length_cons] at hx
    rw [memWriteN, memRead_memWriteN_outside (memWrite_wf h a b) (a + 1) x bs (by omega), memRead_memWrite h,
      if_neg (by omega)]

/-- The bytes of a write read back. -/
theorem memReadN_memWriteN : ∀ {m : Memory} (_ : Memory.wf m = true) (a : Nat) (bs : List Byte),
    memReadN (memWriteN m a bs) a bs.length = bs
  | _, _, _, [] => rfl
  | _, h, a, b :: bs => by
    have h1 := memWrite_wf h a b
    rw [memWriteN, List.length_cons, memReadN, memReadN_memWriteN h1 (a + 1) bs,
      memRead_memWriteN_outside h1 (a + 1) a bs (by omega), memRead_memWrite h, if_pos rfl]

@[simp] theorem memReadN_length : ∀ (m : Memory) (a n : Nat), (memReadN m a n).length = n
  | _, _, 0 => rfl
  | m, a, n + 1 => by rw [memReadN, List.length_cons, memReadN_length m (a + 1) n]

@[simp] theorem toBytes_length : ∀ (n v : Nat), (toBytes n v).length = n
  | 0, _ => rfl
  | n + 1, v => by rw [toBytes, List.length_cons, toBytes_length n]

/-- A number of `n` bytes is what its bytes spell. -/
theorem fromBytes_toBytes : ∀ (n v : Nat), v < 256 ^ n → fromBytes (toBytes n v) = v
  | 0, v, h => by simp_all [fromBytes, toBytes]
  | n + 1, v, h => by
    have h2 : v / 256 < 256 ^ n := by rw [Nat.div_lt_iff_lt_mul (by omega)]; simpa [Nat.pow_succ] using h
    rw [toBytes, fromBytes, fromBytes_toBytes n (v / 256) h2, BitVec.toNat_ofNat]
    omega

end Sys2Proof.Machine
end

