-- ==== Sys2Proof/Laws/Store.lean ====
section
/-! SUPPORT. What a change of the frame table keeps of the store's soundness: at most one frame is OPEN, and the frames agree
with the store mode (R27, R33). -/

namespace Sys2Proof.Machine

/-- A change of a frame's state that brings no frame OPEN and none into another class. -/
abbrev Within (a b : FrameState) : Prop :=
  (b = .opened → a = .opened) ∧ (b.writeMode = true → a.writeMode = true) ∧ (b.readMode = true → a.readMode = true)

theorem Within.refl (a : FrameState) : Within a a := ⟨id, id, id⟩

theorem within_free (a : FrameState) : Within a .free :=
  ⟨fun h => by simp at h, fun h => by simp [FrameState.writeMode] at h, fun h => by simp [FrameState.readMode] at h⟩

/-- A frame in neither class is FREE. -/
theorem free_of_neither {a : FrameState} (hw : a.writeMode = false) (hr : a.readMode = false) : a = .free := by
  cases a <;> simp_all [FrameState.writeMode, FrameState.readMode]

/-- The frame table after a change, frame by frame, within the classes. -/
inductive TableWithin : List Frame → List Frame → Prop where
  | nil : TableWithin [] []
  | cons {f g : Frame} {fs gs : List Frame} : Within f.state g.state → TableWithin fs gs → TableWithin (f :: fs) (g :: gs)

theorem TableWithin.refl : ∀ fs, TableWithin fs fs
  | [] => .nil
  | _ :: fs => .cons (Within.refl _) (TableWithin.refl fs)

theorem tableWithin_map {fs : List Frame} {φ : Frame → Frame} (h : ∀ f ∈ fs, Within f.state (φ f).state) :
    TableWithin fs (fs.map φ) := by
  induction fs with
  | nil => exact .nil
  | cons f fs ih =>
    exact .cons (h f (List.mem_cons_self ..)) (ih fun g hg => h g (List.mem_cons_of_mem _ hg))

theorem tableWithin_modifyAt {fs : List Frame} {φ : Frame → Frame} {i : Nat}
    (h : ∀ f, fs[i]? = some f → Within f.state (φ f).state) : TableWithin fs (modifyAt φ fs i) := by
  induction fs generalizing i with
  | nil => exact .nil
  | cons f fs ih =>
    cases i with
    | zero => exact .cons (h f rfl) (TableWithin.refl _)
    | succ i => exact .cons (Within.refl _) (ih fun g hg => h g (by simpa using hg))

theorem TableWithin.mem {fs gs : List Frame} (h : TableWithin fs gs) {g : Frame} (hg : g ∈ gs) :
    ∃ f ∈ fs, Within f.state g.state := by
  induction h with
  | nil => simp at hg
  | cons hh _ ih =>
    rcases List.mem_cons.1 hg with rfl | hg
    · exact ⟨_, List.mem_cons_self .., hh⟩
    · obtain ⟨f, hf, hw⟩ := ih hg
      exact ⟨f, List.mem_cons_of_mem _ hf, hw⟩

/-- The number of OPEN frames. -/
abbrev openCount (fs : List Frame) : Nat := fs.countP (fun f => f.state = .opened)

theorem TableWithin.openCount {fs gs : List Frame} (h : TableWithin fs gs) :
    Machine.openCount gs ≤ Machine.openCount fs := by
  induction h with
  | nil => simp
  | @cons f g _ _ hh _ ih =>
    simp only [Machine.openCount, List.countP_cons] at ih ⊢
    have := hh.1
    by_cases hg : g.state = .opened
    · simp [hg, this hg]; omega
    · simp [hg]; omega

theorem openCount_modifyAt (φ : Frame → Frame) (fs : List Frame) (i : Nat) :
    openCount (modifyAt φ fs i) ≤ openCount fs + 1 := by
  induction fs generalizing i with
  | nil => simp [modifyAt]
  | cons f fs ih =>
    cases i with
    | zero =>
      simp only [modifyAt, openCount, List.countP_cons]
      split <;> split <;> omega
    | succ i =>
      have := ih i
      simp only [modifyAt, openCount, List.countP_cons] at this ⊢
      omega

theorem mem_modifyAt {φ : Frame → Frame} {fs : List Frame} {i : Nat} {g : Frame} (h : g ∈ modifyAt φ fs i) :
    g ∈ fs ∨ ∃ f, g = φ f := by
  induction fs generalizing i with
  | nil => simp [modifyAt] at h
  | cons f fs ih =>
    cases i with
    | zero =>
      rcases List.mem_cons.1 h with rfl | h
      · exact .inr ⟨f, rfl⟩
      · exact .inl (List.mem_cons_of_mem _ h)
    | succ i =>
      rcases List.mem_cons.1 h with rfl | h
      · exact .inl (List.mem_cons_self ..)
      · exact (ih h).imp (List.mem_cons_of_mem _) id

/-- A change within the classes keeps the store sound. -/
theorem StoreSound.within {fs gs : List Frame} {m : StoreMode} (h : StoreSound fs m) (hw : TableWithin fs gs) :
    StoreSound gs m where
  oneOpen := Nat.le_trans hw.openCount h.oneOpen
  idle hm g hg := by
    obtain ⟨f, hf, h1, h2, h3⟩ := hw.mem hg
    have := h.idle hm f hf
    rw [this] at h2 h3
    exact free_of_neither (Bool.eq_false_iff.2 fun h => absurd (h2 h) (by decide))
      (Bool.eq_false_iff.2 fun h => absurd (h3 h) (by decide))
  write hm g hg := by
    obtain ⟨f, hf, _, _, h3⟩ := hw.mem hg
    exact Bool.eq_false_iff.2 fun hr => by simpa [h.write hm f hf] using h3 hr
  read hm g hg := by
    obtain ⟨f, hf, _, h2, _⟩ := hw.mem hg
    exact Bool.eq_false_iff.2 fun hr => by simpa [h.read hm f hf] using h2 hr

theorem openCount_of_openFrame {fs : List Frame} (h : fs.findIdx? (fun f => f.state = .opened) = none) :
    openCount fs = 0 := by
  rw [List.findIdx?_eq_none_iff] at h
  exact List.countP_eq_zero.2 fun f hf => by simpa using h f hf

theorem openCount_of_noWrite {fs : List Frame} (h : ∀ f ∈ fs, f.state.writeMode = false) : openCount fs = 0 :=
  List.countP_eq_zero.2 fun f hf ho => by
    have := h f hf
    simp at ho
    simp [ho, FrameState.writeMode] at this

/-- A frame OPENed where none was, the store not in READ mode: the store is sound in WRITE mode (R28, R33). -/
theorem StoreSound.opening {fs : List Frame} {m : StoreMode} (h : StoreSound fs m) (hm : m ≠ .read)
    (ho : openCount fs = 0) {φ : Frame → Frame} (hφ : ∀ f, (φ f).state = .opened) (i : Nat) :
    StoreSound (modifyAt φ fs i) .write where
  oneOpen := by have := openCount_modifyAt φ fs i; rw [ho] at this; exact this
  idle hm := by cases hm
  write _ g hg := by
    rcases mem_modifyAt hg with hg | ⟨f, rfl⟩
    · cases m with
      | idle => rw [h.idle rfl g hg]; rfl
      | write => exact h.write rfl g hg
      | read => exact absurd rfl hm
    · rw [hφ]; rfl
  read hm := by cases hm

/-- A frame made FILLING, the store not in WRITE mode: the store is sound in READ mode (R28, R33). -/
theorem StoreSound.filling {fs : List Frame} {m : StoreMode} (h : StoreSound fs m) (hm : m ≠ .write)
    {φ : Frame → Frame} (hφ : ∀ f, (φ f).state = .filling) (i : Nat) : StoreSound (modifyAt φ fs i) .read := by
  have hn : ∀ g ∈ modifyAt φ fs i, g.state.writeMode = false := fun g hg => by
    rcases mem_modifyAt hg with hg | ⟨f, rfl⟩
    · cases m with
      | idle => rw [h.idle rfl g hg]; rfl
      | write => exact absurd rfl hm
      | read => exact h.read rfl g hg
    · rw [hφ]; rfl
  exact ⟨Nat.le_trans (Nat.le_of_eq (openCount_of_noWrite hn)) (Nat.zero_le _), fun hm => (by cases hm),
    fun hm => (by cases hm), fun _ => hn⟩

/-- With a read-mode frame in the table the store is in READ mode. -/
theorem StoreSound.mode_read {fs : List Frame} {m : StoreMode} (h : StoreSound fs m) {f : Frame} (hf : f ∈ fs)
    (hr : f.state.readMode = true) : m = .read := by
  cases m with
  | idle => rw [h.idle rfl f hf] at hr; simp [FrameState.readMode] at hr
  | write => rw [h.write rfl f hf] at hr; cases hr
  | read => rfl

theorem tableWithin_readDiscarded (fs : List Frame) : TableWithin fs (readDiscarded fs) :=
  tableWithin_map fun f _ => by
    by_cases h : f.state.readMode = true
    · simpa [h, freeFrame] using within_free _
    · simpa [h] using Within.refl _

/-- R32: out of READ mode every read-mode frame is gone, and one frame is OPENed. -/
theorem StoreSound.readBack {fs : List Frame} (h : StoreSound fs .read) {φ : Frame → Frame}
    (hφ : ∀ f, (φ f).state = .opened) (i : Nat) : StoreSound (modifyAt φ (readDiscarded fs) i) .write := by
  have hn : ∀ g ∈ readDiscarded fs, g.state = .free := fun g hg => by
    obtain ⟨f, hf, rfl⟩ := List.mem_map.1 hg
    have := h.read rfl f hf
    by_cases hr : f.state.readMode = true
    · simp [hr, freeFrame]
    · simp only [hr]
      exact free_of_neither this (by simpa using hr)
  have h0 : StoreSound (readDiscarded fs) .idle :=
    ⟨Nat.le_trans (tableWithin_readDiscarded fs).openCount h.oneOpen, fun _ => hn, fun hm => (by cases hm), fun hm => (by cases hm)⟩
  exact h0.opening (by simp) (openCount_of_noWrite fun f hf => by rw [hn f hf]; rfl) hφ i

/-- A frame table of FREE frames alone is sound in IDLE mode. -/
theorem storeSound_free {fs : List Frame} (h : ∀ f ∈ fs, f.state = .free) : StoreSound fs .idle where
  oneOpen := Nat.le_trans (Nat.le_of_eq (openCount_of_noWrite fun f hf => by rw [h f hf]; rfl)) (Nat.zero_le _)
  idle _ := h
  write hm := by cases hm
  read hm := by cases hm

/-- An empty frame table is sound in any mode. -/
theorem storeSound_nil (m : StoreMode) : StoreSound [] m where
  oneOpen := by simp
  idle _ f hf := by cases hf
  write _ f hf := by cases hf
  read _ f hf := by cases hf

/-- A frame found satisfies the test. -/
theorem findFrame_spec {s : State} {p : Frame → Bool} {i : Nat} (h : findFrame s p = some i) :
    ∃ f, s.bsm.frames[i]? = some f ∧ p f = true := by
  obtain ⟨hlt, hp, _⟩ := List.findIdx?_eq_some_iff_getElem.1 h
  exact ⟨_, List.getElem?_eq_getElem hlt, hp⟩

/-- With no frame OPEN found, none is. -/
theorem openCount_of_none {s : State} (h : openFrame s = none) : openCount s.bsm.frames = 0 := openCount_of_openFrame h

end Sys2Proof.Machine
end

