-- ==== Sys2Proof/Laws/Kept.lean ====
section
/-! SUPPORT. What every operation of the part keeps, said once: structural soundness, the queue of waiting commands, and
the timebase. Kept s0 s says that s still has, of s0, all three; each operation has one lemma. -/

namespace Sys2Proof.Machine

/-- Kept, over the parts of a state it speaks of. -/
structure KeptParts (s0 : State) (mem : Memory) (h : Hcm) (table : List Nat) (speed next : Nat) (vote : Option Nat)
    (level : LockLevel) (count : Nat) (out : List OutRow) (reading : Option OutRow) (inBuffer : List InRow)
    (blankRun : Nat) (lastTape lastGeneral : Requester) (frames : List Frame) (mode : StoreMode) (queue : List Instr)
    (time : Time) : Prop where
  sound : Sound s0 → SoundParts mem h table speed next vote level count out reading inBuffer blankRun
            lastTape lastGeneral frames mode
  queue : queue = s0.pending
  clock : time = s0.timebase

/-- `s` is sound if `s0` is, and has its queue and its timebase. -/
abbrev Kept (s0 s : State) : Prop :=
  KeptParts s0 s.mem s.hcm s.spm.table s.mot.speed s.spm.next s.spm.vote s.mot.lock s.mot.lockCount s.fmt.outBuffer
    s.fmt.reading s.rdc.inBuffer s.rdc.blankRun s.marb.lastTape s.marb.lastGeneral s.bsm.frames s.bsm.mode s.pending
    s.timebase

theorem Kept.refl (s : State) : Kept s s := ⟨fun h => h, rfl, rfl⟩

theorem kept_ite {s0 a b : State} {c : Prop} [Decidable c] (ha : Kept s0 a) (hb : Kept s0 b) :
    Kept s0 (if c then a else b) := by split <;> assumption

variable {s0 s : State}

end Sys2Proof.Machine
end

