-- ==== Sys2Proof/Laws/KeptBlocks.lean ====
section
/-! SUPPORT. The lemmas of Kept (Sys2Proof.Laws.Kept), one for each operation:
what the operations of the exchange unit, the head care monitor, the speed matcher, the arbiter, the motion
controller, the bundle store and the formatter keep. -/

namespace Sys2Proof.Machine

variable {s0 s : State}

/-! ### The exchange area and the order board -/

theorem endSession_kept (h : Kept s0 s) : Kept s0 (endSession s) := h

theorem emit_kept (h : Kept s0 s) (x : Signal) : Kept s0 (emit x s) := h

theorem setEod_kept (h : Kept s0 s) (object : Nat) (bundle : Nat) : Kept s0 (setEod object bundle s) := h

/-- A new frame table and store mode keep what is to be kept if they keep the store sound. -/
theorem store_kept (h : Kept s0 s) {gs : List Frame} {m : StoreMode}
    (hs : StoreSound s.bsm.frames s.bsm.mode → StoreSound gs m) :
    Kept s0 { s with bsm.frames := gs, bsm.mode := m } :=
  ⟨fun h0 => { h.sound h0 with store := hs (h.sound h0).store }, h.queue, h.clock⟩

theorem frames_kept (h : Kept s0 s) {gs : List Frame} (hw : TableWithin s.bsm.frames gs) :
    Kept s0 { s with bsm.frames := gs } := store_kept h fun hs => hs.within hw

/-- A frame changed within its class. -/
theorem updateFrame_within (h : Kept s0 s) (i : Nat) (f : Frame → Frame)
    (hf : ∀ x, s.bsm.frames[i]? = some x → Within x.state (f x).state) : Kept s0 (updateFrame i f s) :=
  frames_kept h (tableWithin_modifyAt hf)

/-- A frame changed in what it holds, its state as it was. -/
theorem updateFrame_kept (h : Kept s0 s) (i : Nat) (f : Frame → Frame) (hf : ∀ x, (f x).state = x.state) :
    Kept s0 (updateFrame i f s) := updateFrame_within h i f fun x _ => by rw [hf]; exact Within.refl _

theorem setFrameState_kept (h : Kept s0 s) {i : Nat} {f : Frame} {st : FrameState} (hi : s.bsm.frames[i]? = some f)
    (hw : Within f.state st) : Kept s0 (setFrameState i st s) :=
  updateFrame_within h i _ fun x hx => by rw [hi] at hx; cases hx; exact hw

theorem freeFrameAt_kept (h : Kept s0 s) (i : Nat) : Kept s0 (freeFrameAt i s) :=
  updateFrame_within h i _ fun x _ => within_free _

/-- A write to buffer memory keeps what is to be kept. -/
theorem writeMem_kept (h : Kept s0 s) (a : Nat) (bs : List Byte) : Kept s0 { s with mem := memWriteN s.mem a bs } :=
  ⟨fun h0 => { h.sound h0 with memory := memWriteN_wf (h.sound h0).memory a bs }, h.queue, h.clock⟩

theorem writeCell_kept (h : Kept s0 s) (c : Condition) (d : Detail) (count : Nat) : Kept s0 (writeCell c d count s) :=
  writeMem_kept h _ _

theorem setCond_kept (h : Kept s0 s) (c : Condition) : Kept s0 (setCond c s) := h

theorem keepLatest_kept (h : Kept s0 s) (c : Condition) (d : Detail) : Kept s0 (keepLatest c d s) := by
  unfold keepLatest; repeat' with_reducible first | exact h | apply kept_ite

theorem queueWork_kept (h : Kept s0 s) (ws : List ExuWork) : Kept s0 (queueWork ws s) := h

theorem goOn_kept (h : Kept s0 s) (ws : List ExuWork) : Kept s0 (goOn ws s) := h

theorem raiseBound_kept (h : Kept s0 s) (c : Condition) (d : Detail) : Kept s0 (raiseBound c d s) := by
  dsimp only [raiseBound]; apply queueWork_kept; exact h

theorem raiseUnbound_kept (h : Kept s0 s) (c : Condition) (d : Detail) : Kept s0 (raiseUnbound c d s) := by
  unfold raiseUnbound; repeat' with_reducible first | exact h | apply setCond_kept | apply kept_ite | split

theorem noteRaise_kept (h : Kept s0 s) (c : Condition) (a b c' : Nat) : Kept s0 (noteRaise c a b c' s) := by
  dsimp only [noteRaise]; repeat' with_reducible first
      | exact h | apply keepLatest_kept | apply raiseUnbound_kept | apply raiseBound_kept | apply kept_ite

theorem writeSlotState_kept (h : Kept s0 s) (slot : Nat) (v : Byte) : Kept s0 (writeSlotState slot v s) :=
  ⟨fun h0 => { h.sound h0 with memory := memWrite_wf (h.sound h0).memory _ v }, h.queue, h.clock⟩

theorem writeResult_kept (h : Kept s0 s) (slot : Nat) (r : OrderResult) : Kept s0 (writeResult slot r s) :=
  writeMem_kept h _ _

theorem countCompletion_kept (h : Kept s0 s) (t : Ticket) : Kept s0 (countCompletion t s) := by
  dsimp only [countCompletion, noteCompletions]
  repeat' with_reducible first | exact h | apply noteRaise_kept | apply kept_ite

theorem dropOrder_kept (h : Kept s0 s) : Kept s0 (dropOrder s) := h

theorem handOver_kept (h : Kept s0 s) (r : OrderResult) : Kept s0 (handOver r s) := by
  unfold handOver; repeat' with_reducible first
      | exact h | apply queueWork_kept | apply dropOrder_kept | apply kept_ite | split

theorem clearProgress_kept (h : Kept s0 s) : Kept s0 (clearProgress s) := h

theorem takeOrder_kept (h : Kept s0 s) (slot : Nat) (t : Ticket) (r : OrderRec) : Kept s0 (takeOrder slot t r s) := by
  dsimp only [takeOrder]; repeat' with_reducible first | exact h | apply clearProgress_kept | apply writeSlotState_kept

theorem rejectBadKind_kept (h : Kept s0 s) : Kept s0 (rejectBadKind s) := by
  unfold rejectBadKind; repeat' with_reducible first | exact h | apply handOver_kept | apply kept_ite | split

theorem passOver_kept (h : Kept s0 s) (t : Ticket) : Kept s0 (passOver t s) := by
  unfold passOver; repeat' with_reducible first | exact h | apply kept_ite

theorem scanned_kept (h : Kept s0 s) (why : ScanFor) (t : Ticket) (found : List Nat) :
    Kept s0 (scanned why t found s) := by
  dsimp only [scanned, lookScanned, abortScanned, abortUnmatched, stall]; repeat' with_reducible first
      | exact h | apply goOn_kept | apply passOver_kept | apply noteRaise_kept | apply kept_ite | split

theorem readSlot_kept (h : Kept s0 s) (why : ScanFor) (t : Ticket) (i : Nat) (found : List Nat) :
    Kept s0 (readSlot why t i found s) := by
  dsimp only [readSlot]; repeat' with_reducible first | exact h | apply goOn_kept | apply scanned_kept | apply kept_ite

theorem dropHeld_kept (h : Kept s0 s) (c : Condition) : Kept s0 (dropHeld c s) := by
  unfold dropHeld; repeat' with_reducible first | exact h | split

theorem writeOutcome_kept (h : Kept s0 s) (base : Nat) (o : BindOutcome) : Kept s0 (writeOutcome base o s) := by
  have := writeMem_kept h base (outcomeBytes o)
  unfold writeOutcome; cases o <;> exact this

theorem endActive_kept (h : Kept s0 s) (active : Bool) : Kept s0 (endActive active s) := by
  unfold endActive; repeat' with_reducible first | exact h | apply kept_ite

theorem lookAfter_kept (h : Kept s0 s) (active : Bool) : Kept s0 (lookAfter active s) := by
  unfold lookAfter; repeat' with_reducible first | exact h | apply queueWork_kept | apply kept_ite

theorem perform_kept (h : Kept s0 s) (w : ExuWork) : Kept s0 (perform w s) := by
  unfold perform; repeat' with_reducible first
      | exact h | apply setCond_kept | apply writeCell_kept | apply dropHeld_kept | apply writeOutcome_kept
      | apply writeResult_kept | apply lookAfter_kept | apply countCompletion_kept | apply endActive_kept
      | apply writeSlotState_kept | apply readSlot_kept | apply goOn_kept | apply rejectBadKind_kept | apply takeOrder_kept
      | apply kept_ite | split

/-- A grant to EXU is recorded as the last of the general group. -/
theorem recordExuGrant_kept (h : Kept s0 s) : Kept s0 (recordExuGrant s) :=
  ⟨fun h0 => { h.sound h0 with grants := ⟨(h.sound h0).grants.1, rfl⟩ }, h.queue, h.clock⟩

theorem serveOne_kept (h : Kept s0 s) : Kept s0 (serveOne s) := by
  unfold serveOne; repeat' with_reducible first
      | exact h | apply perform_kept | apply recordExuGrant_kept | split

theorem serve_kept (h : Kept s0 s) (k : Nat) : Kept s0 (serve k s) := by
  induction k generalizing s with
  | zero => exact h
  | succ k ih => unfold serve; exact kept_ite (ih (serveOne_kept h)) h

theorem serveFree_kept (h : Kept s0 s) : Kept s0 (serveFree s) := kept_ite (serve_kept h _) h

theorem raise_kept (h : Kept s0 s) (c : Condition) (a : Nat) (b : Nat) (c' : Nat) : Kept s0 (raise c a b c' s) :=
  kept_ite (serveOne_kept (noteRaise_kept h _ _ _ _)) (noteRaise_kept h _ _ _ _)

theorem raiseCompletions_kept (h : Kept s0 s) : Kept s0 (raiseCompletions s) := by
  unfold raiseCompletions; apply raise_kept; exact h

theorem finishActive_kept (h : Kept s0 s) (r : OrderResult) : Kept s0 (finishActive r s) :=
  serveFree_kept (handOver_kept h r)

theorem lookForOrder_kept (h : Kept s0 s) : Kept s0 (lookForOrder s) := serveFree_kept (queueWork_kept h _)

theorem loadEnds_kept (h : Kept s0 s) : Kept s0 (loadEnds s) := by
  unfold loadEnds; repeat' with_reducible first | exact h | apply endSession_kept | apply kept_ite | split

theorem completeFull_kept (h : Kept s0 s) (st : Status) (rs : Reason) (bundle : Nat) (rebuilt : Bool) :
    Kept s0 (completeFull st rs bundle rebuilt s) := by
  unfold completeFull; repeat' with_reducible first | exact h | apply finishActive_kept | apply loadEnds_kept

theorem complete_kept (h : Kept s0 s) (st : Status) (rs : Reason) : Kept s0 (complete st rs s) := by
  unfold complete; repeat' with_reducible first | exact h | apply completeFull_kept

theorem refuseOrder_kept (h : Kept s0 s) (st : Status) (fieldOffset : Nat) :
    Kept s0 (refuseOrder st fieldOffset s) := by
  unfold refuseOrder; repeat' with_reducible first | exact h | apply finishActive_kept

/-! ### The head care monitor -/

/-- A change of the head care monitor that keeps its soundness. -/
theorem headCare_of (h : Kept s0 s) (x : Hcm) (hx : HeadCareSound s.hcm → HeadCareSound x) :
    Kept s0 { s with hcm := x } :=
  ⟨fun h0 => { h.sound h0 with head := hx (h.sound h0).head }, h.queue, h.clock⟩

/-- Retiring an ACTIVE channel takes one from the count of ACTIVE channels. -/
theorem activeCount_retire : ∀ (cs : List Channel) (i : Nat) (x : Channel), cs[i]? = some x → x.active = true →
    activeCount (modifyAt (fun y => { y with active := false }) cs i) + 1 = activeCount cs
  | [], _, _, h, _ => by simp at h
  | c :: cs, 0, x, h, hx => by
    simp only [List.getElem?_cons_zero, Option.some.injEq] at h
    subst h; simp [modifyAt, activeCount, hx]
  | c :: cs, i + 1, x, h, hx => by
    simp only [List.getElem?_cons_succ] at h
    have := activeCount_retire cs i x h hx
    simp only [activeCount, modifyAt, List.filter_cons] at this ⊢
    split <;> simp_all only [List.length_cons]

theorem modifyAt_length {α : Type} (f : α → α) : ∀ (l : List α) (i : Nat), (modifyAt f l i).length = l.length
  | [], _ => rfl
  | _ :: _, 0 => rfl
  | _ :: xs, i + 1 => by simp [modifyAt, modifyAt_length f xs i]

theorem modifyAt_get_ne {α : Type} (f : α → α) : ∀ (l : List α) (i j : Nat), i ≠ j →
    (modifyAt f l i)[j]? = l[j]?
  | [], _, _, _ => rfl
  | _ :: _, 0, 0, h => absurd rfl h
  | _ :: _, 0, j + 1, _ => by simp [modifyAt]
  | _ :: _, i + 1, 0, _ => by simp [modifyAt]
  | _ :: xs, i + 1, j + 1, h => by simpa [modifyAt] using modifyAt_get_ne f xs i j (by omega)

theorem modifyAt_mem {α : Type} (f : α → α) (y : α) : ∀ (l : List α) (i : Nat), y ∈ modifyAt f l i →
    y ∈ l ∨ ∃ x ∈ l, y = f x
  | [], _, h => .inl h
  | x :: xs, 0, h => by
    simp only [modifyAt, List.mem_cons] at h
    rcases h with rfl | h
    · exact .inr ⟨x, by simp, rfl⟩
    · exact .inl (by simp [h])
  | x :: xs, i + 1, h => by
    simp only [modifyAt, List.mem_cons] at h
    rcases h with rfl | h
    · exact .inl (by simp)
    · rcases modifyAt_mem f y xs i h with h | ⟨z, hz, rfl⟩
      · exact .inl (by simp [h])
      · exact .inr ⟨z, by simp [hz], rfl⟩

theorem numbered_mem {α : Type} : ∀ (l : List α) (i : Nat) (x : Nat × α), x ∈ numbered i l →
    i ≤ x.1 ∧ l[x.1 - i]? = some x.2
  | [], _, _, h => by simp [numbered] at h
  | y :: ys, i, x, h => by
    simp only [numbered, List.mem_cons] at h
    rcases h with rfl | h
    · simp
    · have := numbered_mem ys (i + 1) x h
      refine ⟨by omega, ?_⟩
      rw [show x.1 - i = (x.1 - (i + 1)) + 1 by omega, List.getElem?_cons_succ]; exact this.2

theorem numbered_nodup {α : Type} : ∀ (l : List α) (i : Nat), ((numbered i l).map (fun x => x.1)).Nodup
  | [], _ => by simp [numbered]
  | y :: ys, i => by
    simp only [numbered, List.map_cons, List.nodup_cons]
    refine ⟨?_, numbered_nodup ys (i + 1)⟩
    intro h
    obtain ⟨x, hx, hxi⟩ := List.mem_map.1 h
    have := (numbered_mem ys (i + 1) x hx).1
    omega

theorem insertByScore_perm (x : Nat × Channel) : ∀ (l : List (Nat × Channel)), (insertByScore x l).Perm (x :: l)
  | [] => .refl _
  | y :: ys => by
    unfold insertByScore
    split
    · exact .refl _
    · exact ((insertByScore_perm x ys).cons y).trans (.swap x y ys)

theorem insertAll_perm : ∀ (l acc : List (Nat × Channel)),
    (l.foldl (fun acc c => insertByScore c acc) acc).Perm (l ++ acc)
  | [], acc => .refl _
  | c :: l, acc => by
    refine (insertAll_perm l (insertByScore c acc)).trans ?_
    refine ((insertByScore_perm c acc).append_left l).trans ?_
    exact List.perm_middle

/-- The channels listed are distinct and ACTIVE. -/
def listedActive (cs : List (Nat × Channel)) (h : Hcm) : Prop :=
  (cs.map (fun x => x.1)).Nodup ∧ ∀ x ∈ cs, ∃ y, h.channels[x.1]? = some y ∧ y.active = true
theorem retirees_listed (h : Hcm) : listedActive (retirees h) h := by
  have hp := insertAll_perm
    ((numbered 0 h.channels).filter (fun c => c.2.active && decide (h.retire ≤ c.2.score))) []
  rw [List.append_nil] at hp
  constructor
  · refine (hp.map (fun x => x.1)).nodup_iff.2 ?_
    exact (numbered_nodup h.channels 0).sublist (List.filter_sublist.map _)
  · intro x hx
    have hm := hp.mem_iff.1 hx
    rw [List.mem_filter, Bool.and_eq_true] at hm
    have := (numbered_mem h.channels 0 x hm.1).2
    exact ⟨x.2, by simpa using this, hm.2.1⟩

theorem retireOrFence_kept (h : Kept s0 s) (c score : Nat)
    (hc : ∃ y, s.hcm.channels[c]? = some y ∧ y.active = true) : Kept s0 (retireOrFence c score s) := by
  unfold retireOrFence
  split
  · rename_i hn
    unfold retireChannel; apply raise_kept; refine headCare_of h _ ?_
    obtain ⟨y, hy, ha⟩ := hc
    have := activeCount_retire s.hcm.channels c y hy ha
    rintro ⟨h1, h2, h3, h4, h5⟩
    refine ⟨by rw [modifyAt_length]; exact h1, by simp only; omega, by simp only; omega, ?_, h5⟩
    intro z hz
    rcases modifyAt_mem _ z _ _ hz with hz | ⟨w, hw, rfl⟩
    · exact h4 z hz
    · exact h4 w hw
  · unfold fenceHead
    split
    · exact h
    · apply emit_kept; apply raise_kept; exact headCare_of h _ (fun x => x)

/-- What retiring or fencing for a channel leaves of the others. -/
theorem retireOrFence_others (c score j : Nat) (hj : c ≠ j) (s : State) :
    (retireOrFence c score s).hcm.channels[j]? = s.hcm.channels[j]? := by
  unfold retireOrFence retireChannel fenceHead
  split
  · rw [raise_hcm]; exact modifyAt_get_ne _ _ _ _ hj
  · split
    · rfl
    · rw [emit_hcm, raise_hcm]

theorem retirementTest_kept (cs : List (Nat × Channel)) (h : Kept s0 s) (hc : listedActive cs s.hcm) :
    Kept s0 (retirementTest cs s) := by
  induction cs generalizing s with
  | nil => exact h
  | cons c cs ih =>
    obtain ⟨hn, ha⟩ := hc
    rw [List.map_cons, List.nodup_cons] at hn
    refine ih (retireOrFence_kept h _ _ (ha c (by simp))) ⟨hn.2, fun x hx => ?_⟩
    have hne : c.1 ≠ x.1 := fun e => hn.1 (List.mem_map.2 ⟨x, hx, e.symm⟩)
    rw [retireOrFence_others _ _ _ hne]
    exact ha x (by simp [hx])

theorem computeHeadIndex_kept (h : Kept s0 s) : Kept s0 (computeHeadIndex s) := headCare_of h _ (fun x => x)

theorem wornTest_kept (h : Kept s0 s) : Kept s0 (wornTest s) := by
  unfold wornTest
  split
  · apply raise_kept; exact headCare_of h _ (fun x => x)
  · exact h

theorem raiseCall_kept (h : Kept s0 s) (call : CleanCall) (cause : Nat) : Kept s0 (raiseCall call cause s) := by
  unfold raiseCall; apply raise_kept; exact headCare_of h _ (fun x => x)

theorem callTest_kept (h : Kept s0 s) : Kept s0 (callTest s) := by
  unfold callTest; repeat' with_reducible first
      | exact h | apply wornTest_kept | apply raiseCall_kept | apply kept_ite | split

theorem evaluate_kept (h : Kept s0 s) : Kept s0 (evaluate s) :=
  callTest_kept (computeHeadIndex_kept (retirementTest_kept _ h (retirees_listed _)))

/-- A change of scores alone keeps the count of ACTIVE channels. -/
theorem activeCount_map (f : Channel → Channel) (hf : ∀ c, (f c).active = c.active) :
    ∀ cs : List Channel, activeCount (cs.map f) = activeCount cs
  | [] => rfl
  | c :: cs => by
    have := activeCount_map f hf cs
    simp only [activeCount, List.map_cons, List.filter_cons, hf] at this ⊢
    split <;> simp_all

theorem activeCount_modifyAt (f : Channel → Channel) (hf : ∀ c, (f c).active = c.active) :
    ∀ (cs : List Channel) (i : Nat), activeCount (modifyAt f cs i) = activeCount cs
  | [], _ => rfl
  | c :: cs, 0 => by simp only [activeCount, modifyAt, List.filter_cons, hf]; split <;> simp
  | c :: cs, i + 1 => by
    have := activeCount_modifyAt f hf cs i
    simp only [activeCount, modifyAt, List.filter_cons] at this ⊢
    split <;> simp_all

theorem wearEvent_kept (h : Kept s0 s) (c w : Nat) : Kept s0 (wearEvent c w s) := by
  refine evaluate_kept (s := { s with hcm := _ }) (headCare_of h _ ?_)
  rintro ⟨h1, h2, h3, h4, h5⟩
  refine ⟨by rw [modifyAt_length]; exact h1, ?_, h3, ?_, h5⟩
  · rw [activeCount_modifyAt _ (fun c => by unfold addWear; split <;> rfl)]; exact h2
  · intro z hz
    rcases modifyAt_mem _ z _ _ hz with hz | ⟨y, hy, rfl⟩
    · exact h4 z hz
    · have := h4 y hy
      unfold addWear; split
      · exact Nat.min_le_right _ _
      · exact this

theorem bundleVerified_kept (h : Kept s0 s) : Kept s0 (bundleVerified s) := by
  refine evaluate_kept (s := { s with hcm := _ }) (headCare_of h _ ?_)
  rintro ⟨h1, h2, h3, h4, h5⟩
  refine ⟨by rw [List.length_map]; exact h1, ?_, h3, ?_, h5⟩
  · rw [activeCount_map _ (fun c => by unfold easeChannel; split <;> rfl)]; exact h2
  · intro z hz
    obtain ⟨y, hy, rfl⟩ := List.mem_map.1 hz
    have := h4 y hy
    unfold easeChannel; split
    · exact le_trans (Nat.sub_le _ _) this
    · exact this

theorem addMotionSecond_kept (h : Kept s0 s) : Kept s0 (addMotionSecond s) :=
  evaluate_kept (s := { s with hcm := _ }) (headCare_of h _ (fun x => x))

theorem activeCount_all : ∀ cs : List Channel, (∀ c ∈ cs, c.active = true) → activeCount cs = cs.length
  | [], _ => rfl
  | c :: cs, h => by
    have := activeCount_all cs (fun x hx => h x (by simp [hx]))
    simp only [activeCount] at this ⊢
    rw [List.filter_cons, if_pos (h c (by simp)), List.length_cons, this, List.length_cons]

theorem applyCleaning_kept (h : Kept s0 s) : Kept s0 (applyCleaning s) := by
  refine evaluate_kept (s := { s with hcm := _ }) (headCare_of h _ ?_)
  rintro ⟨h1, h2, h3, h4, h5⟩
  refine ⟨by rw [List.length_map]; exact h1, ?_, ?_, ?_, h5⟩
  · cases hw : s.hcm.worn
    · simp only [Bool.false_eq_true, if_false]
      rw [activeCount_all _ (fun c hc => ?_), List.length_map, h1]
      obtain ⟨y, _, rfl⟩ := List.mem_map.1 hc
      simp [cleanChannel]
    · simp only [if_true]
      rw [activeCount_map _ (fun c => by simp [cleanChannel])]; exact h2
  · simp only; split
    · exact h3
    · decide
  · intro z hz
    obtain ⟨y, hy, rfl⟩ := List.mem_map.1 hz
    exact le_trans (Nat.div_le_self _ _) (h4 y hy)

theorem setThresholds_kept (h : Kept s0 s) (advise require retire hours : Nat) :
    Kept s0 (setThresholds advise require retire hours s) := by
  refine headCare_of h _ ?_
  rintro ⟨h1, h2, h3, h4, _⟩
  refine ⟨h1, h2, h3, h4, ?_⟩
  simp only [clamp]
  omega

/-! ### The speed matcher and the memory arbiter -/

/-- A change of the speed matcher that keeps its soundness. -/
theorem speed_of (h : Kept s0 s) (x : Spm)
    (hx : SpeedSound s.spm.table s.mot.speed s.spm.next s.spm.vote → SpeedSound x.table s.mot.speed x.next x.vote) :
    Kept s0 { s with spm := x } :=
  ⟨fun h0 => { h.sound h0 with speeds := hx (h.sound h0).speeds }, h.queue, h.clock⟩

theorem seedSession_kept (h : Kept s0 s) (kind : SessionKind) : Kept s0 (seedSession kind s) :=
  speed_of h _ fun ⟨h1, h2, h3, h4, _, _⟩ => ⟨h1, h2, h3, h4, h4, Nat.zero_le 5⟩

theorem beginWriteSession_kept (h : Kept s0 s) : Kept s0 (beginWriteSession s) := by
  unfold beginWriteSession; repeat' with_reducible first | exact h | apply seedSession_kept | apply kept_ite

theorem beginReadSession_kept (h : Kept s0 s) : Kept s0 (beginReadSession s) := by
  unfold beginReadSession; repeat' with_reducible first | exact h | apply seedSession_kept

theorem exclusionStart_kept (h : Kept s0 s) : Kept s0 (exclusionStart s) := h

theorem exclusionEnd_kept (h : Kept s0 s) : Kept s0 (exclusionEnd s) := by
  unfold exclusionEnd; repeat' with_reducible first | exact h | apply kept_ite | split

theorem chooseSpeed_le (s : State) (d : Nat) : chooseSpeed s d ≤ 5 := by
  unfold chooseSpeed
  cases h : (List.range 6).find? (fun k => decide (d ≤ effectiveRate s k)) with
  | none => simp
  | some k =>
    have := List.mem_of_find?_eq_some h
    rw [List.mem_range] at this
    simp only [Option.getD_some]; omega

theorem applyChoice_kept (h : Kept s0 s) (k : Nat) (hk : k ≤ 5) : Kept s0 (applyChoice k s) := by
  unfold applyChoice
  dsimp only
  split_ifs with h1 h2
  · exact speed_of h _ fun ⟨a, b, c, d, _, _⟩ => ⟨a, b, c, d, hk, Nat.zero_le 5⟩
  · exact speed_of h _ fun ⟨a, b, c, d, _, _⟩ => ⟨a, b, c, d, d, Nat.zero_le 5⟩
  · split
    · exact speed_of h _ fun ⟨a, b, c, d, _, _⟩ => ⟨a, b, c, d, d, hk⟩
    · rename_i v hv
      refine speed_of h _ fun ⟨a, b, c, d, _, f⟩ => ⟨a, b, c, d, ?_, Nat.zero_le 5⟩
      rw [hv] at f
      exact max_le hk f

theorem useSample_kept (h : Kept s0 s) (sample waiting : Nat) : Kept s0 (useSample sample waiting s) := by
  unfold useSample; dsimp only
  refine applyChoice_kept ?_ _ (chooseSpeed_le _ _)
  exact speed_of h _ (fun x => x)

theorem restartInterval_kept (h : Kept s0 s) : Kept s0 (restartInterval s) := h

theorem writeSample_kept (h : Kept s0 s) (p : Nat) : Kept s0 (writeSample p s) := by
  unfold writeSample; repeat' with_reducible first
      | exact h | apply beginWriteSession_kept | apply restartInterval_kept | apply useSample_kept | apply kept_ite

theorem readSample_kept (h : Kept s0 s) (p : Nat) : Kept s0 (readSample p s) := by
  unfold readSample; repeat' with_reducible first
      | exact h | apply restartInterval_kept | apply useSample_kept | apply kept_ite

theorem stepDown_kept (h : Kept s0 s) : Kept s0 (stepDown s) :=
  ⟨fun h0 =>
    have ⟨a, b, c, d, _, _⟩ := (h.sound h0).speeds
    { h.sound h0 with speeds := ⟨a, b, c, le_trans (Nat.sub_le _ 1) d, le_trans (Nat.sub_le _ 1) d, Nat.zero_le 5⟩ },
   h.queue, h.clock⟩

theorem spmSessionReset_kept (h : Kept s0 s) : Kept s0 (spmSessionReset s) :=
  speed_of h _ fun ⟨a, b, c, d, _, _⟩ => ⟨a, b, c, d, d, Nat.zero_le 5⟩

/-- A grant is recorded as the last of its own group. -/
theorem grantTo_kept (h : Kept s0 s) (r : Requester) (wasUrgent : Bool) : Kept s0 (grantTo r wasUrgent s) :=
  ⟨fun h0 => { h.sound h0 with
      grants := by
        have hg := (h.sound h0).grants
        cases r <;> first | exact ⟨rfl, hg.2⟩ | exact ⟨hg.1, rfl⟩ },
    h.queue, h.clock⟩

theorem grant_kept (h : Kept s0 s) : Kept s0 (grant s) := by
  dsimp only [grant]; repeat' with_reducible first
      | exact h | apply serve_kept | apply grantTo_kept | apply kept_ite | split

theorem addTransfer_kept (h : Kept s0 s) (t : Transfer) : Kept s0 (addTransfer t s) := h

theorem raiseRead_kept (h : Kept s0 s) (who : Requester) (p : Purpose) (addr : Nat) (n : Nat) :
    Kept s0 (raiseRead who p addr n s) := h

theorem raiseWrite_kept (h : Kept s0 s) (who : Requester) (p : Purpose) (addr : Nat) (bytes : List Byte) :
    Kept s0 (raiseWrite who p addr bytes s) := h

theorem dropTransfers_kept (h : Kept s0 s) (p : Purpose → Bool) : Kept s0 (dropTransfers p s) := h

theorem tamperHeader_kept (h : Kept s0 s) (a : Nat) (bs : List Byte) : Kept s0 (tamperHeader a bs s) := by
  induction bs generalizing s a with
  | nil => exact h
  | cons b bs ih =>
    unfold tamperHeader
    split
    · apply ih; exact updateFrame_kept h _ _ fun _ => rfl
    · exact ih h _

/-! ### The motion controller and the wrap directory -/

theorem setLock_kept (h : Kept s0 s) (level : LockLevel) (count : Nat) (hl : LockSound level count) :
    Kept s0 (setLock level count s) :=
  ⟨fun h0 => { h.sound h0 with lock := hl }, h.queue, h.clock⟩

theorem dropLock_kept (h : Kept s0 s) : Kept s0 (dropLock s) := setLock_kept h _ _ (by decide)

theorem startLimit_kept (h : Kept s0 s) : Kept s0 (startLimit s) := h

theorem startDwell_kept (h : Kept s0 s) : Kept s0 (startDwell s) := h

theorem adoptSpeed_kept (h : Kept s0 s) : Kept s0 (adoptSpeed s) := by
  unfold adoptSpeed
  split_ifs
  · exact h
  · exact ⟨fun h0 =>
      have ⟨a, b, c, _, e, f⟩ := (h.sound h0).speeds
      { h.sound h0 with speeds := ⟨a, b, c, e, e, f⟩ }, h.queue, h.clock⟩

theorem adoptAtBoundary_kept (h : Kept s0 s) : Kept s0 (adoptAtBoundary s) := by
  dsimp only [adoptAtBoundary]; repeat' with_reducible first
      | exact h | apply startLimit_kept | apply dropLock_kept | apply adoptSpeed_kept | apply kept_ite

theorem closeRowTime_kept (h : Kept s0 s) : Kept s0 (closeRowTime s) := h

theorem enterStopping_kept (h : Kept s0 s) (rest : AfterRest) : Kept s0 (enterStopping rest s) := by
  unfold enterStopping; repeat' with_reducible first | exact h | apply dropLock_kept | apply closeRowTime_kept

theorem enterTravel_kept (h : Kept s0 s) (d : Destination) : Kept s0 (enterTravel d s) := h

theorem enterStarting_kept (h : Kept s0 s) : Kept s0 (enterStarting s) := by
  dsimp only [enterStarting]; repeat' with_reducible first
      | exact h | apply startLimit_kept | apply dropLock_kept | apply adoptSpeed_kept

theorem startFrom_kept (h : Kept s0 s) (place : Option Nat) (kind : StartKind) :
    Kept s0 (startFrom place kind s) := by
  unfold startFrom; repeat' with_reducible first
      | exact h | apply emit_kept | apply enterStarting_kept | apply enterTravel_kept | apply kept_ite | split

theorem moveToRunUp_kept (h : Kept s0 s) : Kept s0 (moveToRunUp s) := by
  unfold moveToRunUp; repeat' with_reducible first | exact h | apply enterTravel_kept | apply kept_ite | split

theorem holdForTension_kept (h : Kept s0 s) (r : HeldRequest) : Kept s0 (holdForTension r s) := h

theorem requestStart_kept (h : Kept s0 s) (place : Option Nat) (kind : StartKind) :
    Kept s0 (requestStart place kind s) := by
  unfold requestStart; repeat' with_reducible first
      | exact h | apply startFrom_kept | apply holdForTension_kept | apply emit_kept | split

theorem requestStop_kept (h : Kept s0 s) (place : Nat) : Kept s0 (requestStop place s) := by
  unfold requestStop; repeat' with_reducible first
      | exact h | apply enterStopping_kept | apply moveToRunUp_kept | apply holdForTension_kept | apply kept_ite
      | split

theorem requestTravel_kept (h : Kept s0 s) (d : Destination) : Kept s0 (requestTravel d s) := by
  unfold requestTravel; repeat' with_reducible first
      | exact h | apply enterTravel_kept | apply holdForTension_kept | apply enterStopping_kept | apply emit_kept
      | apply kept_ite | split

theorem dropWaiting_kept (h : Kept s0 s) : Kept s0 (dropWaiting s) := h

theorem heldStop_kept (h : Kept s0 s) (kind : StartKind) {on : State → State}
    (hon : ∀ {t}, Kept s0 t → Kept s0 (on t)) : Kept s0 (heldStop kind on s) := by
  unfold heldStop; repeat' with_reducible first | exact h | apply enterStopping_kept | apply hon | split

theorem restartAt_kept (h : Kept s0 s) (place : Nat) (kind : StartKind) : Kept s0 (restartAt place kind s) := by
  unfold restartAt; repeat' with_reducible first
      | exact h | apply requestStop_kept | apply dropWaiting_kept | apply requestStart_kept | apply emit_kept | split

theorem enterUnthreading_kept (h : Kept s0 s) (why : UnthreadWhy) : Kept s0 (enterUnthreading why s) := by
  unfold enterUnthreading; repeat' with_reducible first | exact h | apply dropLock_kept

theorem serveHeld_kept (h : Kept s0 s) : Kept s0 (serveHeld s) := by
  unfold serveHeld; repeat' with_reducible first
      | exact h | apply startFrom_kept | apply requestStop_kept | apply enterTravel_kept
      | apply enterUnthreading_kept | apply kept_ite | split

theorem arriveRunUp_kept (h : Kept s0 s) (backhitch : Bool) : Kept s0 (arriveRunUp backhitch s) := by
  unfold arriveRunUp; repeat' with_reducible first
      | exact h | apply startDwell_kept | apply serveHeld_kept | apply emit_kept | apply kept_ite | split

theorem requestUnthread_kept (h : Kept s0 s) (why : UnthreadWhy) : Kept s0 (requestUnthread why s) := by
  unfold requestUnthread; repeat' with_reducible first
      | exact h | apply enterUnthreading_kept | apply holdForTension_kept | apply requestTravel_kept | apply kept_ite | split

theorem requestThread_kept (h : Kept s0 s) : Kept s0 (requestThread s) := by
  unfold requestThread; repeat' with_reducible first | exact h | apply kept_ite

theorem requestEject_kept (h : Kept s0 s) : Kept s0 (requestEject s) := by
  unfold requestEject; repeat' with_reducible first | exact h | apply kept_ite

theorem requestRecovery_kept (h : Kept s0 s) : Kept s0 (requestRecovery s) := by
  unfold requestRecovery; repeat' with_reducible first
      | exact h | apply enterUnthreading_kept | apply kept_ite | split

theorem requestPass_kept (h : Kept s0 s) (length : Nat) : Kept s0 (requestPass length s) := h

theorem motionFault_kept (h : Kept s0 s) (detail : Nat) (sensed : MotionState) :
    Kept s0 (motionFault detail sensed s) := by
  unfold motionFault; apply emit_kept; apply raise_kept; exact h

theorem leaderIsHome_kept (h : Kept s0 s) : Kept s0 (leaderIsHome s) := by
  unfold leaderIsHome; repeat' with_reducible first
      | exact h | apply motionFault_kept | apply emit_kept | apply kept_ite

theorem unthreadFailed_kept (h : Kept s0 s) : Kept s0 (unthreadFailed s) := by
  unfold unthreadFailed; repeat' with_reducible first | exact h | apply motionFault_kept

theorem abandonThreading_kept (h : Kept s0 s) : Kept s0 (abandonThreading s) := by
  unfold abandonThreading; repeat' with_reducible first
      | exact h | apply emit_kept | apply enterUnthreading_kept | apply kept_ite | split

theorem requestLocate_kept (h : Kept s0 s) (b : Nat) : Kept s0 (requestLocate b s) := by
  unfold requestLocate; dsimp only
  apply restartAt_kept
  exact ⟨fun h0 =>
    have ⟨a, b, _⟩ := (h.sound h0).buffers
    { h.sound h0 with buffers := ⟨a, b, Nat.zero_le _⟩ }, h.queue, h.clock⟩

theorem failLocate_kept (h : Kept s0 s) : Kept s0 (failLocate s) := by
  unfold failLocate; apply emit_kept; apply requestStop_kept; exact h

theorem stopHere_kept (h : Kept s0 s) : Kept s0 (stopHere s) := by
  dsimp only [stopHere]; repeat' with_reducible first
      | exact h | apply requestStop_kept | apply dropWaiting_kept | apply kept_ite | split

theorem updateCopy_kept (h : Kept s0 s) (f : CartCopy → CartCopy) : Kept s0 (updateCopy f s) := h

theorem extendDirectory_kept (h : Kept s0 s) (hd : BundleHeader) (ix : List IndexEntry) (p : Placement) :
    Kept s0 (extendDirectory hd ix p s) := h

theorem setEndPosition_kept (h : Kept s0 s) (p : Nat) : Kept s0 (setEndPosition p s) := h

theorem raiseEndPosition_kept (h : Kept s0 s) (latest : Nat) : Kept s0 (raiseEndPosition latest s) := by
  unfold raiseEndPosition; repeat' with_reducible first | exact h | apply setEndPosition_kept | apply kept_ite

theorem cmlRelease_kept (h : Kept s0 s) (hd : BundleHeader) (ix : List IndexEntry) (p : Placement) :
    Kept s0 (cmlRelease hd ix p s) := raiseEndPosition_kept (extendDirectory_kept h hd ix p) _

theorem truncateAt_kept (h : Kept s0 s) (p : Nat) (b : Nat) (firstObject : Nat) (start : Nat) :
    Kept s0 (truncateAt p b firstObject start s) := h

/-! ### The bundle store and the formatter -/

theorem markDiscardSeen_kept (h : Kept s0 s) : Kept s0 (markDiscardSeen s) := h

theorem lowerPosition_kept (h : Kept s0 s) (object : Nat) : Kept s0 (lowerPosition object s) := h

theorem cmpLose_kept (h : Kept s0 s) : Kept s0 (cmpLose s) := by
  unfold cmpLose; repeat' with_reducible first
      | exact h | apply exclusionEnd_kept | apply dropTransfers_kept | apply kept_ite

theorem emptyBundle_kept (h : Kept s0 s) : Kept s0 (emptyBundle s) := h

theorem beginFmtSession_kept (h : Kept s0 s) (start : Nat) : Kept s0 (beginFmtSession start s) := h

theorem openFrameAt_kept (h : Kept s0 s) (i : Nat) (hm : s.bsm.mode ≠ .read) (ho : openFrame s = none) :
    Kept s0 (openFrameAt i s) := by
  have h1 : Kept s0 (updateFrame i (fun _ => ⟨.opened, some s.bsm.sealedThrough, some 0, none, []⟩)
      { s with bsm.mode := .write }) :=
    store_kept h fun hs => hs.opening hm (openCount_of_none ho) (fun _ => rfl) i
  unfold openFrameAt
  apply beginWriteSession_kept
  split <;> exact h1

theorem blockIntake_kept (h : Kept s0 s) : Kept s0 (blockIntake s) := by
  unfold blockIntake; repeat' with_reducible first | exact h | apply exclusionStart_kept | apply kept_ite

theorem obtainBundle_kept (h : Kept s0 s) : Kept s0 (obtainBundle s) := by
  unfold obtainBundle
  split
  · exact h
  · rename_i ho
    split
    · rename_i hi
      refine openFrameAt_kept h _ (fun hm => ?_) (by simpa using ho)
      rw [if_pos hm] at hi
      cases hi
    · exact blockIntake_kept h

theorem exclusionEnd_bsm (s : State) : (exclusionEnd s).bsm = s.bsm := by
  unfold exclusionEnd; split <;> rfl

theorem handFrame_kept (h : Kept s0 s) (i : Nat) : Kept s0 (handFrame i s) := by
  unfold handFrame
  split
  · exact h
  · rename_i hn
    simp only [Bool.or_eq_true, decide_eq_true_eq, not_or, Bool.not_eq_true, Option.isSome_eq_false_iff,
      Option.isNone_iff_eq_none] at hn
    apply emit_kept
    refine openFrameAt_kept (exclusionEnd_kept (s := { s with cmp.blocked := false }) h) i ?_ ?_
    · rw [exclusionEnd_bsm]; exact hn.1
    · unfold openFrame findFrame; rw [exclusionEnd_bsm]; exact hn.2

theorem tellRdc_kept (h : Kept s0 s) : Kept s0 (tellRdc s) := by
  unfold tellRdc; repeat' with_reducible first | exact h | apply emit_kept | apply kept_ite | split

theorem serveCmp_kept (h : Kept s0 s) : Kept s0 (serveCmp s) := by
  unfold serveCmp; repeat' with_reducible first | exact h | apply handFrame_kept | apply kept_ite | split

/-- With no frame of its mode left the store is IDLE. -/
theorem idle_kept (h : Kept s0 s) (hn : StoreSound s.bsm.frames s.bsm.mode → ∀ f ∈ s.bsm.frames, f.state = .free) :
    Kept s0 { s with bsm.mode := .idle } :=
  store_kept h fun hs => ⟨hs.oneOpen, fun _ => hn hs, fun hm => (by cases hm), fun hm => (by cases hm)⟩

theorem settleMode_kept (h : Kept s0 s) : Kept s0 (settleMode s) := by
  unfold settleMode
  split
  · rename_i hm
    split
    · exact h
    · rename_i hn
      refine tellRdc_kept (emit_kept (idle_kept h fun hs f hf => ?_) _)
      simp only [holdsWriteFrames, List.any_eq_true, not_exists, not_and, Bool.not_eq_true] at hn
      exact free_of_neither (hn f hf) (hs.write hm f hf)
  · rename_i hm
    split
    · exact h
    · rename_i hn
      refine serveCmp_kept (idle_kept h fun hs f hf => ?_)
      simp only [holdsReadFrames, List.any_eq_true, not_exists, not_and, Bool.not_eq_true] at hn
      exact free_of_neither (hs.read hm f hf) (hn f hf)
  · exact h

theorem judgeRelease_kept (h : Kept s0 s) : Kept s0 (judgeRelease s) := by
  unfold judgeRelease; repeat' with_reducible first | exact h | apply complete_kept | apply kept_ite | split

theorem dropRecords_kept (h : Kept s0 s) (p : Nat → Bool) : Kept s0 (dropRecords p s) := h

theorem tellCml_kept (h : Kept s0 s) (f : Frame) (b : Nat) : Kept s0 (tellCml f b s) := by
  unfold tellCml; repeat' with_reducible first | exact h | apply cmlRelease_kept | apply kept_ite | split

theorem releaseFrame_kept (h : Kept s0 s) (i : Nat) (f : Frame) (b : Nat) : Kept s0 (releaseFrame i f b s) := by
  unfold releaseFrame; repeat' with_reducible first
      | exact h | apply freeFrameAt_kept | apply dropRecords_kept | apply tellCml_kept | apply judgeRelease_kept
      | apply bundleVerified_kept | apply handFrame_kept | apply settleMode_kept | apply kept_ite

/-- A change of the formatter that keeps its buffers within bounds. -/
theorem fmt_of (h : Kept s0 s) (x : Fmt) (hx : s.fmt.outBuffer.length + s.fmt.reading.toList.length ≤ 8 →
    x.outBuffer.length + x.reading.toList.length ≤ 8) : Kept s0 { s with fmt := x } :=
  ⟨fun h0 => { h.sound h0 with buffers := ⟨hx (h.sound h0).buffers.1, (h.sound h0).buffers.2⟩ }, h.queue, h.clock⟩

theorem releaseRun_kept (h : Kept s0 s) (k : Nat) : Kept s0 (releaseRun k s) := by
  induction k generalizing s with
  | zero => exact h
  | succ k ih =>
    unfold releaseRun
    dsimp only
    split
    · split
      · exact ih (releaseFrame_kept h _ _ _)
      · exact h
    · exact h

theorem releaseVerified_kept (h : Kept s0 s) : Kept s0 (releaseVerified s) := releaseRun_kept h _

theorem drainFrame_kept (h : Kept s0 s) (i : Nat) : Kept s0 (drainFrame i s) := by
  unfold drainFrame; repeat' with_reducible first
      | exact h | apply settleMode_kept | apply readSample_kept | apply freeFrameAt_kept | apply kept_ite | split

theorem discardRead_kept (h : Kept s0 s) : Kept s0 (discardRead s) :=
  settleMode_kept (frames_kept h (tableWithin_readDiscarded _))

theorem setBack_kept (h : Kept s0 s) (b : Nat) (object : Option Nat) : Kept s0 (setBack b object s) := h

theorem discardFrom_kept (h : Kept s0 s) (b : Nat) : Kept s0 (discardFrom b s).2 := by
  unfold discardFrom; apply setBack_kept; apply cmpLose_kept
  exact frames_kept h (tableWithin_map fun f _ => by
    split
    · exact within_free _
    · exact Within.refl _)

theorem discardReport_kept (h : Kept s0 s) (lost : List Frame) : Kept s0 (discardReport lost s) := by
  unfold discardReport; repeat' with_reducible first
      | exact h | apply setBack_kept | apply markDiscardSeen_kept | apply raise_kept | apply kept_ite

theorem discardAll_kept (h : Kept s0 s) : Kept s0 (discardAll s) :=
  settleMode_kept (frames_kept (cmpLose_kept (discardReport_kept h _)) (tableWithin_map fun _ _ => within_free _))

theorem beginFetch_kept (h : Kept s0 s) (r : OutRow) (hl : s.fmt.outBuffer.length < 8) :
    Kept s0 (beginFetch r s) := by
  unfold beginFetch
  split
  · apply raiseRead_kept
    exact fmt_of h _ fun _ => by simpa using hl
  · exact h

theorem advanceCursor_kept (h : Kept s0 s) (c : RowName) : Kept s0 (advanceCursor c s) := h

theorem fetchRow_kept (h : Kept s0 s) : Kept s0 (fetchRow s) := by
  unfold fetchRow
  split
  · rename_i hc
    simp only [Bool.and_eq_true, decide_eq_true_eq] at hc
    split
    · exact beginFetch_kept (s := { s with fmt := { s.fmt with rewrites := sendFirst s.fmt.rewrites } }) h _ hc.1.1.2
    · split
      · exact beginFetch_kept (advanceCursor_kept h _) _ hc.1.1.2
      · exact h
  · exact h

theorem foldWork_kept (h : Kept s0 s) (i row : Nat) (data : List Byte) : Kept s0 (foldWork i row data s) :=
  writeMem_kept h _ _

theorem withMem_fmt (s : State) (m : Memory) : ({ s with mem := m } : State).fmt = s.fmt := rfl

theorem foldWork_fmt (i row : Nat) (data : List Byte) (s : State) : (foldWork i row data s).fmt = s.fmt :=
  withMem_fmt s _

theorem ite_fmt {c : Prop} [Decidable c] {a b : State} (h : a.fmt = b.fmt) : (if c then a else b).fmt = b.fmt := by
  split
  · exact h
  · rfl

theorem rowFetched_kept (h : Kept s0 s) (data : List Byte) : Kept s0 (rowFetched data s) := by
  unfold rowFetched
  split
  · rename_i r hr
    have key : ∀ (x : State) (d : List Byte), Kept s0 x → x.fmt = s.fmt →
        Kept s0 { x with fmt.reading := none, fmt.outBuffer := x.fmt.outBuffer ++ [{ r with data := d }] } := by
      intro x d hx hf
      refine fmt_of hx _ fun hb => ?_
      rw [hf, hr] at hb
      rw [hf]; simpa using hb
    split
    · dsimp only
      refine key _ _ (kept_ite (foldWork_kept h _ _ _) h) ?_
      exact ite_fmt (foldWork_fmt _ _ _ _)
    · exact fmt_of h _ fun hb => by simp only [Option.toList_none, List.length_nil]; omega
  · exact h

theorem abandonReading_kept (h : Kept s0 s) (p : Nat → Bool) : Kept s0 (abandonReading p s) := by
  unfold abandonReading
  split
  · split
    · apply dropTransfers_kept
      exact fmt_of h _ fun hb => by simp only [Option.toList_none, List.length_nil]; omega
    · exact h
  · exact h

theorem fmtStop_kept (h : Kept s0 s) : Kept s0 (fmtStop s) := by
  unfold fmtStop; repeat' with_reducible first
      | exact h | apply requestStop_kept | apply stepDown_kept | apply kept_ite

theorem fmtCheck_kept (h : Kept s0 s) : Kept s0 (fmtCheck s) := by
  unfold fmtCheck; repeat' with_reducible first | exact h | apply fmtStop_kept | apply kept_ite | split

theorem askRestart_kept (h : Kept s0 s) : Kept s0 (askRestart s) := by
  unfold askRestart; repeat' with_reducible first | exact h | apply requestStart_kept | apply kept_ite

theorem sealedCountCheck_kept (h : Kept s0 s) : Kept s0 (sealedCountCheck s) := by
  unfold sealedCountCheck; repeat' with_reducible first | exact h | apply askRestart_kept | apply kept_ite

theorem flushFoundNone_kept (h : Kept s0 s) : Kept s0 (flushFoundNone s) := by
  unfold flushFoundNone; repeat' with_reducible first | exact h | apply askRestart_kept | apply kept_ite

theorem fmtSealed_kept (h : Kept s0 s) (cause : SealCause) : Kept s0 (fmtSealed cause s) := by
  unfold fmtSealed; repeat' with_reducible first
      | exact h | apply askRestart_kept | apply sealedCountCheck_kept | apply fmtCheck_kept | apply kept_ite

theorem dropFrom_kept (h : Kept s0 s) (b : Nat) : Kept s0 (dropFrom b s) := by
  unfold dropFrom
  dsimp only
  refine fmt_of (dropRecords_kept (abandonReading_kept h _) _) _ fun hb => ?_
  exact le_trans (Nat.add_le_add_right (List.length_filter_le _ _) _) hb

theorem repeatFrame_within (b : Nat) (f : Frame) : Within f.state (repeatFrame b f).state := by
  unfold repeatFrame repeatsFrame
  split
  · rename_i h
    cases hs : f.state <;> simp_all [Within, FrameState.writeMode, FrameState.readMode]
  · exact Within.refl _

theorem repeatBundle_kept (h : Kept s0 s) (b : Nat) : Kept s0 (repeatBundle b s) := by
  have h1 := dropFrom_kept (s := { s with bsm.frames := s.bsm.frames.map (repeatFrame b), bsm.writtenThrough := b })
    (frames_kept h (tableWithin_map fun f _ => repeatFrame_within b f)) b
  exact h1

theorem ordFault_kept (h : Kept s0 s) (b : Nat) (r : FaultReason) : Kept s0 (ordFault b r s) := by
  unfold ordFault; repeat' with_reducible first | exact h | apply completeFull_kept | apply kept_ite

theorem permanentFault_kept (h : Kept s0 s) (b : Nat) (r : FaultReason) : Kept s0 (permanentFault b r s) := by
  unfold permanentFault
  dsimp only
  have h2 := raise_kept (raise_kept (discardFrom_kept (dropFrom_kept h b) b) .deferredFault b r.code 0) .dataDiscarded
    (discardFrom b (dropFrom b s)).1 0 0
  generalize (raise .dataDiscarded (discardFrom b (dropFrom b s)).1 0 0
    (raise .deferredFault b r.code 0 (discardFrom b (dropFrom b s)).2)) = x at h2 ⊢
  apply fmtCheck_kept; apply settleMode_kept; apply ordFault_kept
  split
  · apply markDiscardSeen_kept; exact h2
  · exact h2

theorem repeatOrFault_kept (h : Kept s0 s) (b : Nat) : Kept s0 (repeatOrFault b s) := by
  unfold repeatOrFault; repeat' with_reducible first
      | exact h | apply permanentFault_kept | apply sealedCountCheck_kept | apply repeatBundle_kept | apply kept_ite

theorem verifyFrame_kept (h : Kept s0 s) (b : Nat) : Kept s0 (verifyFrame b s) := by
  unfold verifyFrame
  split
  · rename_i i hi
    obtain ⟨f, hf, hp⟩ := findFrame_spec hi
    simp only [Bool.and_eq_true, decide_eq_true_eq] at hp
    exact kept_ite (releaseVerified_kept (setFrameState_kept h hf (by rw [hp.1]; decide))) h
  · exact h

theorem rowPassed_kept (h : Kept s0 s) (e : WindowEntry) : Kept s0 (rowPassed e s) := by
  unfold rowPassed; repeat' with_reducible first | exact h | apply verifyFrame_kept

theorem rowFailed_kept (h : Kept s0 s) (e : WindowEntry) (scored : Bool) : Kept s0 (rowFailed e scored s) := by
  unfold rowFailed; repeat' with_reducible first
      | exact h | apply wearEvent_kept | apply repeatOrFault_kept | apply kept_ite

theorem takeResult_kept (h : Kept s0 s) (r : VerifyOutcome) : Kept s0 (takeResult r s) := by
  unfold takeResult; repeat' with_reducible first
      | exact h | apply rowPassed_kept | apply rowFailed_kept | apply kept_ite | split

theorem enterTurning_kept (h : Kept s0 s) (kind : StartKind) : Kept s0 (enterTurning kind s) := by
  unfold enterTurning; repeat' with_reducible first | exact h | apply dropLock_kept | apply closeRowTime_kept

theorem endOfMediaCheck_kept (h : Kept s0 s) : Kept s0 (endOfMediaCheck s) := by
  unfold endOfMediaCheck; repeat' with_reducible first
      | exact h | apply permanentFault_kept | apply fmtCheck_kept | apply kept_ite

theorem stopAtEnd_kept (h : Kept s0 s) (kind : StartKind) : Kept s0 (stopAtEnd kind s) := by
  unfold stopAtEnd; repeat' with_reducible first | exact h | apply enterStopping_kept

theorem forgetStop_kept (h : Kept s0 s) : Kept s0 (forgetStop s) := by
  unfold forgetStop; split <;> exact h

theorem windowEmptyReport_kept (h : Kept s0 s) : Kept s0 (windowEmptyReport s) := by
  unfold windowEmptyReport; repeat' with_reducible first
      | exact h | apply heldStop_kept | apply forgetStop_kept | apply enterTurning_kept | apply endOfMediaCheck_kept
      | apply stopAtEnd_kept | assumption | intro _ _ | apply kept_ite | split

theorem afterResult_kept (h : Kept s0 s) : Kept s0 (afterResult s) := by
  unfold afterResult; repeat' with_reducible first | exact h | apply windowEmptyReport_kept | apply fmtCheck_kept

theorem bsmPlaced_kept (h : Kept s0 s) (i : Nat) (r : OutRow) : Kept s0 (bsmPlaced i r s) := by
  have hs : ∀ {st}, (frameAt s i).map (fun f => f.state) = some st → ∃ f, s.bsm.frames[i]? = some f ∧ f.state = st :=
    fun hst => by simpa [frameAt, Option.map_eq_some_iff] using hst
  unfold bsmPlaced
  dsimp only
  split_ifs with h1 h2 h3
  · exact h
  · simp only [Bool.and_eq_true, decide_eq_true_eq] at h2
    obtain ⟨f, hf, hst⟩ := hs h2.2
    exact setFrameState_kept h hf (by rw [hst]; decide)
  · simp only [Bool.and_eq_true, decide_eq_true_eq] at h3
    obtain ⟨f, hf, hst⟩ := hs h3.2
    exact setFrameState_kept (s := { s with bsm.writtenThrough := r.bundle + 1 }) h hf (by rw [hst]; decide)
  · exact h

theorem placeRow_kept (h : Kept s0 s) (r : OutRow) (rest : List OutRow) (channel : Nat) (channels : List Nat)
    (hr : rest.length ≤ s.fmt.outBuffer.length) : Kept s0 (placeRow r rest channel channels s) := by
  have hb : ∀ i (x : State), (bsmPlaced i r x).fmt = x.fmt := fun i x => by
    unfold bsmPlaced; dsimp only; split_ifs <;> rfl
  unfold placeRow
  dsimp only
  split
  · rename_i i _
    have h1 : Kept s0 { s with fmt := { s.fmt with
        placements := notePlacement r ((headPlace s).getD 0) s.fmt.placements,
        passMaps := beginPassMap r s.fmt.passMaps } } := h
    have h2 := bsmPlaced_kept h1 i r
    refine fmt_of h2 _ fun hl => ?_
    rw [hb] at hl ⊢
    exact le_trans (Nat.add_le_add_right hr _) hl
  · exact fmt_of h _ fun hl => le_trans (Nat.add_le_add_right hr _) hl

theorem beginAccess_kept (h : Kept s0 s) (k : AccessKind) (fields : Option CmWrite) :
    Kept s0 (beginAccess k fields s) := h

theorem askDirtyWrite_kept (h : Kept s0 s) : Kept s0 (askDirtyWrite s) := by
  unfold askDirtyWrite; repeat' with_reducible first
      | exact h | apply beginAccess_kept | apply updateCopy_kept | apply kept_ite

theorem reportBoundary_kept (h : Kept s0 s) (r : OutRow) : Kept s0 (reportBoundary r s) := by
  unfold reportBoundary; repeat' with_reducible first | exact h | apply adoptAtBoundary_kept | apply kept_ite

theorem placeRows_kept (h : Kept s0 s) (k : Nat) : Kept s0 (placeRows k s) := by
  induction k generalizing s with
  | zero => exact h
  | succ k ih =>
    unfold placeRows
    split
    · rename_i c cs r rest hc ho
      dsimp only
      have hb : (reportBoundary r s).fmt.outBuffer = s.fmt.outBuffer := by
        unfold reportBoundary adoptAtBoundary adoptSpeed startLimit dropLock setLock
        split_ifs <;> rfl
      split_ifs
      · exact h
      · exact askDirtyWrite_kept h
      · refine ih (placeRow_kept (reportBoundary_kept h _) _ _ _ _ ?_)
        rw [hb, ho]; simp
      · exact reportBoundary_kept h _
    · exact h

theorem fmtPlace_kept (h : Kept s0 s) : Kept s0 (fmtPlace s) := by
  unfold fmtPlace; split
  · exact fmtCheck_kept (placeRows_kept h _)
  · exact h

theorem earlyWarning_kept (h : Kept s0 s) : Kept s0 (earlyWarning s) := by
  unfold earlyWarning; repeat' with_reducible first | exact h | apply raise_kept | apply kept_ite

theorem crossEarlyWarning_kept (h : Kept s0 s) : Kept s0 (crossEarlyWarning s) := by
  unfold crossEarlyWarning; repeat' with_reducible first | exact h | apply earlyWarning_kept | apply kept_ite | split

theorem beginWriteRowTime_kept (h : Kept s0 s) : Kept s0 (beginWriteRowTime s) := by
  unfold beginWriteRowTime; repeat' with_reducible first | exact h | apply crossEarlyWarning_kept

theorem fmtEmergency_kept (h : Kept s0 s) : Kept s0 (fmtEmergency s) := by
  unfold fmtEmergency
  dsimp only
  split
  · exact ⟨fun h0 => { h.sound h0 with buffers := ⟨by simp, (h.sound h0).buffers.2⟩ }, h.queue, h.clock⟩
  · exact h

theorem fmtReset_kept (h : Kept s0 s) : Kept s0 (fmtReset s) := by
  unfold fmtReset
  exact ⟨fun h0 => { h.sound h0 with buffers := ⟨by simp, (h.sound h0).buffers.2⟩ }, h.queue, h.clock⟩

end Sys2Proof.Machine
end

