-- ==== Sys2Proof/Laws/KeptData.lean ====
section
/-! SUPPORT. The lemmas of Kept (Sys2Proof.Laws.Kept), one for each operation:
what the operations of the compressor, the read decoder, the decompressor, the cartridge memory link and the
search keep. -/

namespace Sys2Proof.Machine

variable {s0 s : State}

/-! ### The compressor -/

theorem readChunk_kept (h : Kept s0 s) : Kept s0 (readChunk s) := by
  unfold readChunk; repeat' with_reducible first | exact h | apply raiseRead_kept | apply kept_ite | split

theorem beginIntake_kept (h : Kept s0 s) : Kept s0 (beginIntake s) := h

theorem advanceByte_kept (h : Kept s0 s) (n : Nat) : Kept s0 (advanceByte n s) := h

theorem computeCandidate_kept (h : Kept s0 s) (raw : List Byte) : Kept s0 (computeCandidate raw s) := h

theorem holdChunk_kept (h : Kept s0 s) (raw : List Byte) : Kept s0 (holdChunk raw s) := h

theorem prepareChunk_kept (h : Kept s0 s) (raw : List Byte) : Kept s0 (prepareChunk raw s) := by
  unfold prepareChunk; repeat' with_reducible first
      | exact h | apply holdChunk_kept | apply computeCandidate_kept | apply kept_ite

theorem beginSeal_kept (h : Kept s0 s) (cause : SealCause) : Kept s0 (beginSeal cause s) := by
  unfold beginSeal
  split
  · rename_i i _
    exact emptyBundle_kept (updateFrame_kept
      (raiseWrite_kept h .cmpOut .headerOut (frameBase s i) (headerRows (sealHeader cause s) s.cmp.index)) i
      (fun f => { f with header := some (sealHeader cause s), index := s.cmp.index }) fun _ => rfl)
  · exact h

theorem returnEmptyBundle_kept (h : Kept s0 s) : Kept s0 (returnEmptyBundle s) := by
  unfold returnEmptyBundle; repeat' with_reducible first
      | exact h | apply settleMode_kept | apply emptyBundle_kept | apply freeFrameAt_kept | apply kept_ite | split

theorem sealCause_kept (h : Kept s0 s) (cause : SealCause) : Kept s0 (sealCause cause s) := by
  unfold sealCause; repeat' with_reducible first
      | exact h | apply flushFoundNone_kept | apply returnEmptyBundle_kept | apply beginSeal_kept | apply kept_ite
      | split

theorem restartIdle_kept (h : Kept s0 s) : Kept s0 (restartIdle s) := h

theorem takeObject_kept (h : Kept s0 s) : Kept s0 (takeObject s) := h

theorem noteFirst_kept (h : Kept s0 s) (object : Nat) : Kept s0 (noteFirst object s) := h

theorem appendEntry_kept (h : Kept s0 s) (e : IndexEntry) : Kept s0 (appendEntry e s) := by
  unfold appendEntry; repeat' with_reducible first
      | exact h | apply restartIdle_kept | apply beginSeal_kept | apply kept_ite

theorem commitBytes_kept (h : Kept s0 s) (c : Candidate) (frame : Nat) : Kept s0 (commitBytes c frame s) := by
  unfold commitBytes; repeat' with_reducible first | exact h | apply raiseWrite_kept

theorem continueIntake_kept (h : Kept s0 s) : Kept s0 (continueIntake s) := by
  unfold continueIntake; repeat' with_reducible first
      | exact h | apply readChunk_kept | apply emit_kept | apply kept_ite

theorem commitChunk_kept (h : Kept s0 s) (c : Candidate) (k : IntakeCursor) (frame : Nat) :
    Kept s0 (commitChunk c k frame s) := by
  unfold commitChunk; repeat' with_reducible first
      | exact h | apply commitBytes_kept | apply noteFirst_kept | apply takeObject_kept | apply continueIntake_kept
      | apply appendEntry_kept | apply kept_ite

theorem commitOrSeal_kept (h : Kept s0 s) (c : Candidate) (k : IntakeCursor) : Kept s0 (commitOrSeal c k s) := by
  unfold commitOrSeal; repeat' with_reducible first
      | exact h | apply commitChunk_kept | apply beginSeal_kept | apply kept_ite | split

theorem commitCandidate_kept (h : Kept s0 s) : Kept s0 (commitCandidate s) := by
  unfold commitCandidate; repeat' with_reducible first
      | exact h | apply commitOrSeal_kept | apply obtainBundle_kept | apply kept_ite | split

theorem commitMark_kept (h : Kept s0 s) : Kept s0 (commitMark s) := by
  unfold commitMark; repeat' with_reducible first
      | exact h | apply noteFirst_kept | apply takeObject_kept | apply appendEntry_kept

theorem commitMarks_kept (h : Kept s0 s) (k : Nat) : Kept s0 (commitMarks k s) := by
  induction k generalizing s with
  | zero => exact h
  | succ k ih =>
    have ho : Kept s0 (obtainBundle s) := obtainBundle_kept h
    unfold commitMarks
    dsimp only
    generalize obtainBundle s = x at ho ⊢
    repeat' with_reducible first
      | exact h | exact ho | apply ih | apply emit_kept | apply commitMark_kept | apply kept_ite

theorem beginMarks_kept (h : Kept s0 s) (n : Nat) :
    Kept s0 (beginMarks n s) := commitMarks_kept (s := { s with cmp.marksLeft := n }) h n

theorem resumeIntake_kept (h : Kept s0 s) : Kept s0 (resumeIntake s) := by
  unfold resumeIntake
  repeat' with_reducible first | exact h | apply prepareChunk_kept | apply commitMarks_kept | apply kept_ite | split

theorem computeAgain_kept (h : Kept s0 s) : Kept s0 (computeAgain s) := by
  unfold computeAgain; repeat' with_reducible first
      | exact h | apply resumeIntake_kept | apply obtainBundle_kept | apply kept_ite | split

theorem sealDone_kept (h : Kept s0 s) : Kept s0 (sealDone s) := by
  unfold sealDone
  split
  · rename_i x i _ hi
    obtain ⟨f, hf, ho⟩ := findFrame_spec hi
    have h1 := setFrameState_kept (st := .sealed) h hf (by rw [of_decide_eq_true ho]; decide)
    have h2 : Kept s0 { setFrameState i .sealed s with cmp.sealing := none, bsm.sealedThrough := s.bsm.sealedThrough + 1 } := h1
    repeat' with_reducible first
      | exact h2 | apply computeAgain_kept | apply resumeIntake_kept | apply flushFoundNone_kept | apply fmtSealed_kept
      | apply writeSample_kept | apply setEod_kept | apply kept_ite
  · exact h

theorem idleExpiry_kept (h : Kept s0 s) : Kept s0 (idleExpiry s) := by
  unfold idleExpiry; repeat' with_reducible first
      | exact h | apply beginSeal_kept | apply returnEmptyBundle_kept | apply kept_ite | split

theorem keepEntries_kept (h : Kept s0 s) (frame : Nat) (kept : List IndexEntry) :
    Kept s0 (keepEntries frame kept s) := h

theorem dropIntake_kept (h : Kept s0 s) : Kept s0 (dropIntake s) := by
  unfold dropIntake; repeat' with_reducible first
      | exact h | apply exclusionEnd_kept | apply dropTransfers_kept | apply kept_ite

theorem ceaseRecord_kept (h : Kept s0 s) (object : Nat) : Kept s0 (ceaseRecord object s) := h

theorem rollbackRecord_kept (h : Kept s0 s) (k : IntakeCursor) : Kept s0 (rollbackRecord k s) := by
  unfold rollbackRecord; repeat' with_reducible first
      | exact h | apply keepEntries_kept | apply ceaseRecord_kept | apply kept_ite | split

theorem rollback_kept (h : Kept s0 s) : Kept s0 (rollback s) := by
  unfold rollback; repeat' with_reducible first
      | exact h | apply dropIntake_kept | apply rollbackRecord_kept | apply kept_ite | split

/-! ### The read decoder -/

/-- A change of the read decoder that keeps its in-buffer and its blank run within bounds. -/
theorem rdc_of (h : Kept s0 s) (x : Rdc) (hb : s.rdc.inBuffer.length ≤ 8 → x.inBuffer.length ≤ 8)
    (hr : s.rdc.blankRun ≤ 2000 → x.blankRun ≤ 2000) : Kept s0 { s with rdc := x } :=
  ⟨fun h0 =>
    have ⟨a, b, c⟩ := (h.sound h0).buffers
    { h.sound h0 with buffers := ⟨a, hb b, hr c⟩ },
   h.queue, h.clock⟩

theorem rdcClear_kept (h : Kept s0 s) : Kept s0 (rdcClear s) := by
  unfold rdcClear; apply dropTransfers_kept
  exact rdc_of (s := { s with bsm.claims := [] }) h _ (fun _ => Nat.zero_le 8) (fun _ => Nat.zero_le _)

theorem rdcBegin_kept (h : Kept s0 s) (b place first : Nat) (only : Bool) : Kept s0 (rdcBegin b place first only s) :=
  rdc_of h _ (fun x => x) (fun _ => Nat.zero_le _)

theorem updateAssembly_kept (h : Kept s0 s) (b : Nat) (f : Assembly → Assembly) : Kept s0 (updateAssembly b f s) := h

theorem dropAssemblies_kept (h : Kept s0 s) (p : Nat → Bool) : Kept s0 (dropAssemblies p s) := by
  have key : ∀ x : State, Kept s0 x → Kept s0
      { x with rdc.assemblies := x.rdc.assemblies.filter (fun a => !p a.bundle)
               rdc.inBuffer := x.rdc.inBuffer.filter (fun r => !p r.bundle) } :=
    fun x hx => rdc_of hx _ (fun hb => le_trans (List.length_filter_le _ _) hb) (fun hr => hr)
  exact key _ (dropTransfers_kept h _)

theorem freeFilling_kept (h : Kept s0 s) (p : Nat → Bool) : Kept s0 (freeFilling p s) := by
  unfold freeFilling
  refine settleMode_kept (dropAssemblies_kept (frames_kept h (tableWithin_map fun f _ => ?_)) _)
  split
  · exact within_free _
  · exact Within.refl _

theorem stopReading_kept (h : Kept s0 s) : Kept s0 (stopReading s) := by
  unfold stopReading; repeat' with_reducible first | exact h | apply requestStop_kept

theorem overrunStop_kept (h : Kept s0 s) (splice : Nat) : Kept s0 (overrunStop splice s) := by
  unfold overrunStop; repeat' with_reducible first | exact h | apply stepDown_kept | apply requestStop_kept

theorem holdBundle_kept (h : Kept s0 s) (k : Nat) : Kept s0 (holdBundle k s) := by
  unfold holdBundle; repeat' with_reducible first | exact h | apply kept_ite

/-- A frame claimed for reading keeps what is to be kept. -/
theorem claimFrame_some (h : Kept s0 s) (hm : s.bsm.mode ≠ .write) {b c : Nat} {t : State}
    (ht : claimFrame b c s = some t) : Kept s0 t := by
  unfold claimFrame at ht
  split at ht
  · simp only [Option.some.injEq] at ht
    subst ht
    exact store_kept h fun hs => hs.filling hm (fun _ => rfl) _
  · cases ht

theorem boundaryOf_kept (h : Kept s0 s) (row : TapeRow) : Kept s0 (boundaryOf row s) := by
  unfold boundaryOf; repeat' with_reducible first
      | exact h | apply adoptAtBoundary_kept | apply updateAssembly_kept | apply kept_ite | split

theorem keepRow_kept (h : Kept s0 s) (row : TapeRow) (place : Nat) : Kept s0 (keepRow row place s) := by
  unfold keepRow
  apply boundaryOf_kept
  split
  · exact h
  · exact rdc_of h _ (fun _ => by simp only [List.length_append, List.length_singleton]; omega) (fun hr => hr)

theorem beginAssembly_kept (h : Kept s0 s) (k c place : Nat) (st : AsmState) : Kept s0 (beginAssembly k c place st s) :=
  holdBundle_kept (s := { s with rdc.assemblies := s.rdc.assemblies ++ [newAssembly k c place st] }) h k

theorem holdClaim_kept (h : Kept s0 s) (k c place : Nat) : Kept s0 (holdClaim k c place s) := kept_ite h h

theorem claimFor_kept (h : Kept s0 s) (row : TapeRow) (place : Nat) : Kept s0 (claimFor row place s) := by
  unfold claimFor
  dsimp only
  split
  · exact holdClaim_kept h _ _ _
  · rename_i hm
    split
    · rename_i t ht
      exact keepRow_kept (beginAssembly_kept (claimFrame_some h hm ht) _ _ _ _) _ _
    · exact overrunStop_kept h _

theorem serveEach_kept (h : Kept s0 s) (cs : List (Nat × Nat × Nat)) : Kept s0 (serveEach cs s) := by
  induction cs generalizing s with
  | nil => exact h
  | cons c cs ih =>
    obtain ⟨k, c, place⟩ := c
    unfold serveEach
    split
    · rename_i hc
      simp only [Bool.and_eq_true, decide_eq_true_eq] at hc
      split
      · rename_i t ht
        exact ih (beginAssembly_kept (claimFrame_some h hc.2 ht) _ _ _ _)
      · exact ih (overrunStop_kept h _)
    · exact ih h

theorem serveClaims_kept (h : Kept s0 s) : Kept s0 (serveClaims s) := serveEach_kept (s := { s with bsm.claims := [] }) h _

theorem raiseCopy_kept (h : Kept s0 s) (k : Nat) (c : Nat) : Kept s0 (raiseCopy k c s) :=
  frames_kept (updateAssembly_kept h k _) (tableWithin_map fun f _ => by split <;> exact Within.refl _)

theorem regather_kept (h : Kept s0 s) (row : TapeRow) (place : Nat) : Kept s0 (regather row place s) := by
  unfold regather; repeat' with_reducible first | exact h | apply updateAssembly_kept | apply kept_ite

theorem keepForAssembly_kept (h : Kept s0 s) (a : Assembly) (row : TapeRow) (place : Nat) :
    Kept s0 (keepForAssembly a row place s) := by
  unfold keepForAssembly; repeat' with_reducible first
      | exact h | apply regather_kept | apply raiseCopy_kept | apply keepRow_kept | apply boundaryOf_kept | apply kept_ite

theorem skipCopy_kept (h : Kept s0 s) (row : TapeRow) : Kept s0 (skipCopy row s) := by
  unfold skipCopy; repeat' with_reducible first | exact h | apply kept_ite

theorem countPosition_kept (h : Kept s0 s) (row : TapeRow) (beyond : Bool) :
    Kept s0 (countPosition row beyond s) := by
  unfold countPosition; repeat' with_reducible first | exact h | apply kept_ite | split

theorem screenRow_kept (h : Kept s0 s) (place : Nat) (row : TapeRow) : Kept s0 (screenRow place row s) := by
  dsimp only [screenRow]; repeat' with_reducible first
      | exact h | apply keepForAssembly_kept | apply skipCopy_kept | apply claimFor_kept | apply kept_ite | split

theorem failRecovery_kept (h : Kept s0 s) (b : Nat) : Kept s0 (failRecovery b s) := by
  unfold failRecovery; repeat' with_reducible first | exact h | apply stopReading_kept

theorem searchCheck_kept (h : Kept s0 s) : Kept s0 (searchCheck s) := by
  unfold searchCheck; repeat' with_reducible first | exact h | apply failRecovery_kept | apply kept_ite | split

theorem screenRows_kept (h : Kept s0 s) (place : Nat) (beyond : Bool) (rs : List TapeRow) :
    Kept s0 (screenRows place beyond rs s) := by
  induction rs generalizing s with
  | nil => exact h
  | cons r rs ih => exact ih (screenRow_kept (searchCheck_kept (countPosition_kept h _ _)) _ _)

theorem countUnreadable_kept (h : Kept s0 s) (hs : List (Fin 16 × HeadOutcome)) : Kept s0 (countUnreadable hs s) := by
  induction hs generalizing s with
  | nil => exact h
  | cons x hs ih =>
    exact ih (kept_ite (wearEvent_kept (s := { s with rdc.unreadable := bump s.rdc.unreadable }) h _ _) h)

theorem noteRowTime_kept (h : Kept s0 s) (place : Nat) : Kept s0 (noteRowTime place s) := kept_ite h h

theorem openRowTime_kept (h : Kept s0 s) (n place : Nat) : Kept s0 (openRowTime n place s) :=
  rdc_of (noteRowTime_kept h place) _ (fun x => x) (fun _ => by dsimp only; split <;> omega)

theorem countRows_kept (h : Kept s0 s) (n place : Nat) : Kept s0 (countRows n place s) := by
  have h1 : Kept s0 { s with rdc.rowsReceived := min (s.rdc.rowsReceived + n) maxWord } := h
  unfold countRows
  refine kept_ite (openRowTime_kept h1 _ _) (kept_ite h1 ?_)
  exact rdc_of h1 _ (fun x => x) (fun _ => Nat.zero_le _)

theorem frameTakes_state (row : TapeRow) (f : Frame) : (frameTakes row f).state = f.state := by
  unfold frameTakes; split_ifs <;> rfl

theorem storeRow_kept (h : Kept s0 s) : Kept s0 (storeRow s) := by
  unfold storeRow
  refine kept_ite h ?_
  split
  · rename_i r rest hr
    split
    · exact kept_ite (raiseWrite_kept (updateFrame_kept h _ _ (frameTakes_state _)) _ _ _ _) (raiseRead_kept h _ _ _ _)
    · exact rdc_of h _ (fun hb => by rw [hr] at hb; exact le_trans (Nat.le_succ _) hb) (fun x => x)
  · exact h

theorem foldRead_kept (h : Kept s0 s) (i : Nat) (first : Bool) (r : InRow) : Kept s0 (foldRead i first r s) :=
  writeMem_kept h _ _

theorem rowStored_kept (h : Kept s0 s) : Kept s0 (rowStored s) := by
  unfold rowStored
  split
  · rename_i r rest hr
    have h1 : Kept s0 { s with rdc.inBuffer := rest } :=
      rdc_of h _ (fun hb => by rw [hr] at hb; exact le_trans (Nat.le_succ _) hb) (fun x => x)
    dsimp only at h1 ⊢
    split
    · exact updateAssembly_kept (foldRead_kept h1 _ _ _) _ _
    · exact h1
  · exact h

theorem advanceNext_kept (h : Kept s0 s) (k : Nat) : Kept s0 (advanceNext k s) := by
  induction k generalizing s with
  | zero => exact h
  | succ k ih => exact kept_ite (ih (s := { s with rdc.next := some (nextBundle s + 1) }) h) h

theorem makeDecoded_kept (h : Kept s0 s) {i : Nat} {f : Frame} (hf : s.bsm.frames[i]? = some f) (hs : f.state = .filling)
    (b : Nat) : Kept s0 (makeDecoded i b s) :=
  advanceNext_kept (setFrameState_kept (dropAssemblies_kept h _) hf (by rw [hs]; decide)) _

/-- The frame found FILLING for a bundle. -/
theorem fillingFrame_spec {b i : Nat} (h : fillingFrame s b = some i) :
    ∃ f, s.bsm.frames[i]? = some f ∧ f.state = .filling := by
  obtain ⟨f, hf, hp⟩ := findFrame_spec h
  simp only [Bool.and_eq_true, decide_eq_true_eq] at hp
  exact ⟨f, hf, hp.1⟩

theorem restoreInto_kept (h : Kept s0 s) (i b : Nat) (work : List Byte) (present : List Nat) (r : Nat) :
    Kept s0 (restoreInto i b work present r s) := by
  have h1 := raiseWrite_kept h .rowIn (.rowRestore b) (rowAddress s i r) (restoreRow work present r)
  exact kept_ite (updateFrame_kept h1 _ _ fun _ => rfl) (kept_ite (updateFrame_kept h1 _ _ fun _ => rfl) h1)

theorem restoreRows_kept (h : Kept s0 s) (i b : Nat) (work : List Byte) (present rs : List Nat) :
    Kept s0 (restoreRows i b work present rs s) := by
  induction rs generalizing s with
  | nil => exact h
  | cons r rs ih => exact ih (restoreInto_kept h _ _ _ _ _)

theorem recoverySucceeds_kept (h : Kept s0 s) (b : Nat) : Kept s0 (recoverySucceeds b s) := by
  unfold recoverySucceeds; repeat' with_reducible first | exact h | apply kept_ite | split

theorem recoverySucceeds_bsm (b : Nat) (s : State) : (recoverySucceeds b s).bsm = s.bsm := by
  unfold recoverySucceeds; split
  · split <;> rfl
  · rfl

theorem decodeBundle_kept (h : Kept s0 s) (a : Assembly) : Kept s0 (decodeBundle a s) := by
  unfold decodeBundle
  split
  · rename_i i hi
    obtain ⟨f, hf, hs⟩ := fillingFrame_spec hi
    have h1 := recoverySucceeds_kept h a.bundle
    rw [← recoverySucceeds_bsm a.bundle] at hf
    exact kept_ite (makeDecoded_kept h1 hf hs _) (restoreRows_kept (updateAssembly_kept h1 _ _) _ _ _ _ _)
  · exact dropAssemblies_kept h _

theorem rowRestored_kept (h : Kept s0 s) (b : Nat) : Kept s0 (rowRestored b s) := by
  unfold rowRestored
  split
  · rename_i hi
    obtain ⟨f, hf, hs⟩ := fillingFrame_spec hi
    exact kept_ite (updateAssembly_kept h _ _) (makeDecoded_kept h hf hs _)
  · exact h

theorem decodeTest_kept (h : Kept s0 s) (a : Assembly) : Kept s0 (decodeTest a s) := by
  dsimp only [decodeTest]; repeat' with_reducible first
      | exact h | apply decodeBundle_kept | apply updateAssembly_kept | apply failRecovery_kept | apply kept_ite
      | split

theorem closeAssemblies_kept (h : Kept s0 s) : Kept s0 (closeAssemblies s) := kept_ite h h

theorem runTests_kept (h : Kept s0 s) (due : State → Assembly → Bool) (k : Nat) : Kept s0 (runTests due k s) := by
  induction k generalizing s with
  | zero => exact h
  | succ k ih =>
    unfold runTests
    split
    · exact ih (decodeTest_kept h _)
    · exact h

theorem startPass_kept (h : Kept s0 s) (a : Assembly) : Kept s0 (startPass a s) := by
  unfold startPass; repeat' with_reducible first | exact h | apply restartAt_kept | apply updateAssembly_kept

theorem beginReread_kept (h : Kept s0 s) (a : Assembly) : Kept s0 (beginReread a s) := by
  unfold beginReread; repeat' with_reducible first | exact h | apply startPass_kept | apply updateAssembly_kept

theorem beginRecovery_kept (h : Kept s0 s) (a : Assembly) : Kept s0 (beginRecovery a s) := by
  unfold beginRecovery; repeat' with_reducible first
      | exact h | apply updateAssembly_kept | apply failRecovery_kept | apply requestStart_kept | apply kept_ite

theorem takeTurn_kept (h : Kept s0 s) (a : Assembly) : Kept s0 (takeTurn a s) :=
  kept_ite (beginReread_kept h a) (beginRecovery_kept h a)

theorem rereadTurn_kept (h : Kept s0 s) : Kept s0 (rereadTurn s) := by
  unfold rereadTurn; repeat' with_reducible first
      | exact h | apply takeTurn_kept | apply startPass_kept | apply kept_ite | split

theorem endPass_kept (h : Kept s0 s) : Kept s0 (endPass s) := by
  have h1 : Kept s0 { s with rdc.phase := .reading } := h
  unfold endPass
  dsimp only
  split
  · exact decodeTest_kept h1 _
  · exact h1

theorem claimMissed_kept (h : Kept s0 s) (earliest : Nat) : Kept s0 (claimMissed earliest s) := by
  unfold claimMissed
  split
  · exact h
  · rename_i hm
    split
    · rename_i t ht
      exact beginAssembly_kept (claimFrame_some h hm ht) _ _ _ _
    · exact overrunStop_kept h _

theorem missedCheck_kept (h : Kept s0 s) : Kept s0 (missedCheck s) := by
  unfold missedCheck; repeat' with_reducible first | exact h | apply claimMissed_kept | apply kept_ite | split

theorem endCheck_kept (h : Kept s0 s) : Kept s0 (endCheck s) := by
  unfold endCheck; repeat' with_reducible first | exact h | apply stopReading_kept | apply kept_ite

theorem resumeReading_kept (h : Kept s0 s) : Kept s0 (resumeReading s) := by
  unfold resumeReading; repeat' with_reducible first
      | exact h | apply startPass_kept | apply requestStart_kept | apply kept_ite | split

theorem overrunRestart_kept (h : Kept s0 s) : Kept s0 (overrunRestart s) := by
  unfold overrunRestart; repeat' with_reducible first | exact h | apply resumeReading_kept | apply kept_ite

theorem discardBundle_kept (h : Kept s0 s) (b : Nat) : Kept s0 (discardBundle b s) := by
  have h1 := dropAssemblies_kept (frames_kept h (tableWithin_map (φ := fun f =>
    if f.state.readMode && f.bundle = some b then freeFrame else f) fun f _ => by
      split
      · exact within_free _
      · exact Within.refl _)) (fun x => x = b)
  exact h1

theorem makeRoom_kept (h : Kept s0 s) : Kept s0 (makeRoom s) := by
  unfold makeRoom; repeat' with_reducible first
      | exact h | apply discardBundle_kept | apply claimMissed_kept | apply kept_ite | split

theorem stalledRoom_kept (h : Kept s0 s) : Kept s0 (stalledRoom s) := by
  unfold stalledRoom; repeat' with_reducible first
      | exact h | apply makeRoom_kept | apply decodeTest_kept | apply kept_ite | split

theorem rdcCheck_kept (h : Kept s0 s) : Kept s0 (rdcCheck s) := by
  have key : ∀ x : State, Kept s0 x → Kept s0 (rereadTurn (stalledRoom (overrunRestart (endCheck (missedCheck
      (if x.rdc.phase = .rereading && (lowestAssembly .rereading x.rdc.assemblies).isNone then
        { x with rdc.phase := .reading } else x)))))) := fun x hx =>
    rereadTurn_kept (stalledRoom_kept (overrunRestart_kept (endCheck_kept (missedCheck_kept
      (kept_ite (a := { x with rdc.phase := .reading }) hx hx)))))
  exact kept_ite (key _ (searchCheck_kept (runTests_kept (closeAssemblies_kept h) _ _)))
    (kept_ite h (kept_ite (runTests_kept h _ _) (runTests_kept (closeAssemblies_kept h) _ _)))

theorem sessionRowTime_kept (h : Kept s0 s) (rows : List TapeRow) (place : Nat) (first : Bool) :
    Kept s0 (sessionRowTime rows place first s) := by
  have h1 := screenRows_kept (s := { s with rdc.frontier := some (max (s.rdc.frontier.getD 0) place) }) h place
    (rowTimeBeyond s) rows
  exact rdcCheck_kept (kept_ite (endPass_kept h1) h1)

theorem endSearch_kept (h : Kept s0 s) : Kept s0 (endSearch s) := by
  unfold endSearch; repeat' with_reducible first | exact h | apply failRecovery_kept | apply kept_ite | split

theorem rdcPhysicalEnd_kept (h : Kept s0 s) : Kept s0 (rdcPhysicalEnd s) := by
  dsimp only [rdcPhysicalEnd]; repeat' with_reducible first
      | exact h | apply endSearch_kept | apply endPass_kept | apply rdcCheck_kept | apply kept_ite

theorem endByBlank_kept (h : Kept s0 s) : Kept s0 (endByBlank s) := by
  unfold endByBlank; repeat' with_reducible first
      | exact h | apply stopReading_kept | apply freeFilling_kept | apply truncateAt_kept | apply kept_ite

theorem sessionBlank_kept (h : Kept s0 s) : Kept s0 (sessionBlank s) := by
  unfold sessionBlank; repeat' with_reducible first
      | exact h | apply failRecovery_kept | apply endByBlank_kept | apply rdcCheck_kept | apply claimMissed_kept
      | apply kept_ite | split

/-! ### The decompressor -/

theorem endWait_kept (h : Kept s0 s) : Kept s0 (endWait s) := by
  unfold endWait; repeat' with_reducible first | exact h | apply exclusionEnd_kept | apply kept_ite

theorem dcpClear_kept (h : Kept s0 s) : Kept s0 (dcpClear s) := by
  unfold dcpClear; repeat' with_reducible first | exact h | apply dropTransfers_kept | apply endWait_kept

theorem endReadSession_kept (h : Kept s0 s) : Kept s0 (endReadSession s) := by
  unfold endReadSession; repeat' with_reducible first
      | exact h | apply dcpClear_kept | apply rdcClear_kept | apply stopReading_kept | apply kept_ite

theorem discardReadAhead_kept (h : Kept s0 s) : Kept s0 (discardReadAhead s) := by
  unfold discardReadAhead; repeat' with_reducible first
      | exact h | apply discardRead_kept | apply endReadSession_kept | apply kept_ite

theorem finishRecord_kept (h : Kept s0 s) : Kept s0 (finishRecord s) := by
  unfold finishRecord; repeat' with_reducible first | exact h | apply kept_ite | split

theorem completeRead_kept (h : Kept s0 s) (st : Status) (rs : Reason) : Kept s0 (completeRead st rs s) := by
  unfold completeRead; repeat' with_reducible first | exact h | apply complete_kept | apply endWait_kept

theorem mediaError_kept (h : Kept s0 s) : Kept s0 (mediaError s) := by
  unfold mediaError; repeat' with_reducible first | exact h | apply discardReadAhead_kept | apply completeRead_kept

theorem corruptBundle_kept (h : Kept s0 s) : Kept s0 (corruptBundle s) := by
  unfold corruptBundle; repeat' with_reducible first
      | exact h | apply emit_kept | apply mediaError_kept | apply kept_ite

theorem finishFrame_kept (h : Kept s0 s) : Kept s0 (finishFrame s) := by
  unfold finishFrame; repeat' with_reducible first | exact h | apply drainFrame_kept | apply kept_ite | split

theorem passEntry_kept (h : Kept s0 s) : Kept s0 (passEntry s) := by
  unfold passEntry; repeat' with_reducible first | exact h | apply finishFrame_kept | apply kept_ite

theorem fetchEntry_kept (h : Kept s0 s) (i : Nat) (e : IndexEntry) : Kept s0 (fetchEntry i e s) := by
  unfold fetchEntry; repeat' with_reducible first | exact h | apply raiseRead_kept | apply kept_ite

theorem endWait_bsm (s : State) : (endWait s).bsm = s.bsm := by
  unfold endWait; split
  · exact exclusionEnd_bsm _
  · rfl

theorem beginFrame_kept (h : Kept s0 s) {i : Nat} {f : Frame} (hf : s.bsm.frames[i]? = some f) (hs : f.state = .decoded) :
    Kept s0 (beginFrame i s) := by
  have h1 : Kept s0 (if readingBack (endWait s) then endWait s else setFrameState i .draining (endWait s)) :=
    kept_ite (endWait_kept h) (setFrameState_kept (endWait_kept h) (by rw [endWait_bsm]; exact hf) (by rw [hs]; decide))
  exact h1

theorem beginWait_kept (h : Kept s0 s) : Kept s0 (beginWait s) := by
  unfold beginWait; repeat' with_reducible first | exact h | apply exclusionStart_kept | apply kept_ite

theorem meetEnd_kept (h : Kept s0 s) : Kept s0 (meetEnd s) := by
  unfold meetEnd; repeat' with_reducible first
      | exact h | apply finishRecord_kept | apply completeRead_kept | apply kept_ite

theorem needBundle_kept (h : Kept s0 s) (b : Nat) : Kept s0 (needBundle b s) := by
  have hd : ∀ {i}, decodedFrame s b = some i → Kept s0 (beginFrame i s) := fun hi => by
    obtain ⟨f, hf, hp⟩ := findFrame_spec hi
    simp only [Bool.and_eq_true, decide_eq_true_eq] at hp
    exact beginFrame_kept h hf hp.2
  unfold needBundle; repeat' with_reducible first
      | exact h | (apply hd; assumption) | apply emit_kept | apply meetEnd_kept | apply mediaError_kept
      | apply beginWait_kept | apply kept_ite | split

theorem endsBefore_kept (h : Kept s0 s) (e : IndexEntry) : Kept s0 (endsBefore e s) := by
  unfold endsBefore; repeat' with_reducible first | exact h | apply finishRecord_kept | apply kept_ite

theorem atEntry_kept (h : Kept s0 s) (i : Nat) (e : IndexEntry) : Kept s0 (atEntry i e s) := by
  unfold atEntry; repeat' with_reducible first
      | exact h | apply fetchEntry_kept | apply endsBefore_kept | apply completeRead_kept | apply kept_ite

theorem dcpCheck_kept (h : Kept s0 s) : Kept s0 (dcpCheck s) := by
  unfold dcpCheck; repeat' with_reducible first
      | exact h | apply completeRead_kept | apply atEntry_kept | apply emit_kept | apply finishFrame_kept
      | apply needBundle_kept | apply kept_ite | split

theorem headerRead_kept (h : Kept s0 s) : Kept s0 (headerRead s) := by
  unfold headerRead; repeat' with_reducible first | exact h | apply corruptBundle_kept | apply kept_ite | split

theorem withDcp (h : Kept s0 s) (x : Dcp) : Kept s0 { s with dcp := x } := h

theorem takeRaw_kept (h : Kept s0 s) (raw : List Byte) : Kept s0 (takeRaw raw s) := withDcp h _

theorem entryDelivered_kept (h : Kept s0 s) : Kept s0 (entryDelivered s) := by
  unfold entryDelivered; repeat' with_reducible first
      | exact h | apply passEntry_kept | apply finishRecord_kept | apply completeRead_kept | apply kept_ite | split

theorem deliverRaw_kept (h : Kept s0 s) (object : Nat) (raw : List Byte) : Kept s0 (deliverRaw object raw s) := by
  unfold deliverRaw; repeat' with_reducible first
      | exact h | apply entryDelivered_kept | apply raiseWrite_kept | apply kept_ite

theorem decodeMark_kept (h : Kept s0 s) (e : IndexEntry) : Kept s0 (decodeMark e s) := by
  unfold decodeMark; repeat' with_reducible first
      | exact h | apply passEntry_kept | apply corruptBundle_kept | apply completeRead_kept | apply kept_ite

theorem decodeData_kept (h : Kept s0 s) (e : IndexEntry) : Kept s0 (decodeData e s) := by
  dsimp only [decodeData]; repeat' with_reducible first
      | exact h | apply corruptBundle_kept | apply passEntry_kept | apply takeRaw_kept | apply deliverRaw_kept
      | apply kept_ite | split

theorem decodeEntryNow_kept (h : Kept s0 s) : Kept s0 (decodeEntryNow s) := by
  unfold decodeEntryNow; repeat' with_reducible first
      | exact h | apply decodeMark_kept | apply decodeData_kept | apply kept_ite | split

theorem dcpStop_kept (h : Kept s0 s) : Kept s0 (dcpStop s) := by
  unfold dcpStop; repeat' with_reducible first | exact h | apply dropTransfers_kept | apply endWait_kept

theorem rdcStop_kept (h : Kept s0 s) : Kept s0 (rdcStop s) := by
  unfold rdcStop
  split
  · apply stopReading_kept
    exact rdc_of (dropTransfers_kept (freeFilling_kept h _) _) _ (fun _ => Nat.zero_le 8) (fun x => x)
  · exact freeFilling_kept h _

theorem continueSession_kept (h : Kept s0 s) : Kept s0 (continueSession s) := by
  dsimp only [continueSession]; repeat' with_reducible first
      | exact h | apply raiseRead_kept | apply restartAt_kept | apply kept_ite | split

theorem beginSession_kept (hk : Kept s0 s) (b place : Nat) (h : BundleHeader) (ix : List IndexEntry) (only : Bool) :
    Kept s0 (beginSession b place h ix only s) := by
  unfold beginSession; repeat' with_reducible first
      | exact hk | apply dcpClear_kept | apply rdcClear_kept | apply requestStart_kept | apply beginReadSession_kept
      | apply rdcBegin_kept

/-! ### The cartridge memory link -/

theorem takeContents_kept (h : Kept s0 s) (c : CmContents) : Kept s0 (takeContents c s) := h

theorem takeUnreadable_kept (h : Kept s0 s) : Kept s0 (takeUnreadable s) := h

theorem takeGeometry_kept (h : Kept s0 s) (g : Geometry) : Kept s0 (takeGeometry g s) := by
  unfold takeGeometry; repeat' with_reducible first | exact h | apply kept_ite

theorem cmFault_kept (h : Kept s0 s) (k : AccessKind) : Kept s0 (cmFault k s) := by
  unfold cmFault; repeat' with_reducible first | exact h | apply raise_kept

theorem accessEffect_kept (h : Kept s0 s) (k : AccessKind) (ok : Bool) : Kept s0 (accessEffect k ok s) := by
  unfold accessEffect; repeat' with_reducible first
      | exact h | apply applyCleaning_kept | apply updateCopy_kept | apply kept_ite | split

theorem endAccess_kept (h : Kept s0 s) (a : CmAccess) (ok : Bool) : Kept s0 (endAccess a ok s) := by
  unfold endAccess; repeat' with_reducible first
      | exact h | apply accessEffect_kept | apply emit_kept | apply kept_ite

theorem failAccess_kept (h : Kept s0 s) (a : CmAccess) : Kept s0 (failAccess a s) := by
  unfold failAccess; repeat' with_reducible first
      | exact h | apply cmFault_kept | apply endAccess_kept | apply takeUnreadable_kept | apply kept_ite

theorem failAttempt_kept (h : Kept s0 s) (a : CmAccess) : Kept s0 (failAttempt a s) := by
  unfold failAttempt; repeat' with_reducible first | exact h | apply failAccess_kept | apply kept_ite

theorem readAnswered_kept (h : Kept s0 s) (a : CmAccess) (c : CmContents) : Kept s0 (readAnswered a c s) := by
  unfold readAnswered; repeat' with_reducible first
      | exact h | apply endAccess_kept | apply takeContents_kept | apply failAccess_kept | apply kept_ite

theorem answerAccess_kept (h : Kept s0 s) (r : CmReply) : Kept s0 (answerAccess r s) := by
  unfold answerAccess; repeat' with_reducible first
      | exact h | apply readAnswered_kept | apply failAttempt_kept | apply endAccess_kept | apply kept_ite | split

theorem countPass_kept (h : Kept s0 s) : Kept s0 (countPass s) := h

theorem cmlDrop_kept (h : Kept s0 s) : Kept s0 (cmlDrop s) := h

theorem dropRebuild_kept (h : Kept s0 s) : Kept s0 (dropRebuild s) := by
  unfold dropRebuild; repeat' with_reducible first | exact h | apply kept_ite

theorem loadDone_kept (h : Kept s0 s) (rebuilt : Bool) : Kept s0 (loadDone rebuilt s) := by
  unfold loadDone; repeat' with_reducible first | exact h | apply endSession_kept | apply completeFull_kept

theorem mapFromCopy_kept (h : Kept s0 s) : Kept s0 (mapFromCopy s) := h

theorem scanWrap_kept (h : Kept s0 s) (w : Nat) : Kept s0 (scanWrap w s) := by
  unfold scanWrap; apply restartAt_kept
  exact rdc_of (s := { s with cml.rebuild := _ }) h _ (fun x => x) (fun _ => Nat.zero_le _)

theorem beginRebuild_kept (h : Kept s0 s) : Kept s0 (beginRebuild s) := by
  unfold beginRebuild; repeat' with_reducible first | exact h | apply updateCopy_kept | apply scanWrap_kept

theorem finishRebuild_kept (h : Kept s0 s) (e : EodFound) (parts : List DirPart) :
    Kept s0 (finishRebuild e parts s) := by
  unfold finishRebuild; repeat' with_reducible first
      | exact h | apply updateCopy_kept | apply setEndPosition_kept | apply loadDone_kept | apply raise_kept
      | apply stopHere_kept

theorem endHeaderScan_kept (h : Kept s0 s) : Kept s0 (endHeaderScan s) := by
  unfold endHeaderScan
  split
  · split
    · exact finishRebuild_kept h _ _
    · apply restartAt_kept
      exact rdc_of (s := { s with cml.rebuild := _ }) h _ (fun x => x) (fun _ => Nat.zero_le _)
  · exact h

theorem endEndScan_kept (h : Kept s0 s) : Kept s0 (endEndScan s) := by
  unfold endEndScan; repeat' with_reducible first | exact h | apply finishRebuild_kept | apply kept_ite | split

theorem endScanNow_kept (h : Kept s0 s) : Kept s0 (endScanNow s) := by
  unfold endScanNow; repeat' with_reducible first
      | exact h | apply endEndScan_kept | apply endHeaderScan_kept | apply kept_ite | split

theorem adoptIdentity_kept (h : Kept s0 s) (rows : List TapeRow) : Kept s0 (adoptIdentity rows s) := by
  unfold adoptIdentity; repeat' with_reducible first | exact h | apply updateCopy_kept | apply kept_ite | split

theorem headerRowTime_kept (h : Kept s0 s) (r : Rebuild) (rows : List TapeRow) (place : Nat) (first : Bool) :
    Kept s0 (headerRowTime r rows place first s) := by
  unfold headerRowTime; repeat' with_reducible first
      | exact h | apply scanWrap_kept | apply endHeaderScan_kept | apply kept_ite | split

theorem endRowTime_kept (h : Kept s0 s) (r : Rebuild) (rows : List TapeRow) (place : Nat) :
    Kept s0 (endRowTime r rows place s) := h

theorem rebuildRowTime_kept (h : Kept s0 s) (rows : List TapeRow) (place : Nat) (first : Bool) :
    Kept s0 (rebuildRowTime rows place first s) := by
  unfold rebuildRowTime; repeat' with_reducible first
      | exact h | apply adoptIdentity_kept | apply endRowTime_kept | apply headerRowTime_kept | apply kept_ite
      | split

/-! ### The search -/

theorem startIntake_kept (h : Kept s0 s) : Kept s0 (startIntake s) := by
  dsimp only [startIntake]; repeat' with_reducible first
      | exact h | apply complete_kept | apply beginMarks_kept | apply beginIntake_kept | apply kept_ite | split

theorem appendAtStart_kept (hk : Kept s0 s) (b : Nat) (place : Nat) (h : BundleHeader) :
    Kept s0 (appendAtStart b place h s) := by
  unfold appendAtStart; repeat' with_reducible first | exact hk | apply startIntake_kept | apply truncateAt_kept

theorem appendInside_kept (hk : Kept s0 s) (b : Nat) (place : Nat) (h : BundleHeader)
    (ix : List IndexEntry) : Kept s0 (appendInside b place h ix s) := by
  unfold appendInside; repeat' with_reducible first | exact hk | apply beginSession_kept

theorem openReadBack_kept (hk : Kept s0 s) {i : Nat} {f : Frame} (hf : s.bsm.frames[i]? = some f)
    (hr : f.state.readMode = true) (b : Nat) : Kept s0 (openReadBack i b s) :=
  store_kept hk fun hs => by
    have hm := hs.mode_read (List.mem_of_getElem? hf) hr
    rw [hm] at hs
    exact hs.readBack (fun _ => rfl) i

theorem openAppend_kept (hk : Kept s0 s) {i : Nat} {f : Frame} (hf : s.bsm.frames[i]? = some f)
    (hr : f.state.readMode = true) (b : Nat) (place : Nat) (h : BundleHeader) (ix : List IndexEntry) :
    Kept s0 (openAppend i b place h ix s) := by
  have h1 := openReadBack_kept hk hf hr b
  unfold openAppend; repeat' with_reducible first
      | exact h1 | apply endReadSession_kept | apply truncateAt_kept | apply beginFmtSession_kept
      | apply beginWriteSession_kept | apply startIntake_kept | apply keepEntries_kept

theorem appendReadBack_kept (h : Kept s0 s) (ok : Bool) : Kept s0 (appendReadBack ok s) := by
  unfold appendReadBack
  split
  · split
    · rename_i i hi
      obtain ⟨f, hf, hp⟩ := findFrame_spec hi
      simp only [Bool.and_eq_true] at hp
      exact openAppend_kept h hf hp.1 _ _ _ _
    · exact complete_kept (discardReadAhead_kept h) _ _
  · exact h

theorem findFrom_kept (h : Kept s0 s) (target : Nat) (estimate : Nat) (tries : Nat) :
    Kept s0 (findFrom target estimate tries s) := by
  unfold findFrom; repeat' with_reducible first | exact h | apply requestLocate_kept

theorem startFind_kept (h : Kept s0 s) (target : Nat) : Kept s0 (startFind target s) := by
  unfold startFind; repeat' with_reducible first | exact h | apply findFrom_kept

theorem stopFailedScan_kept (h : Kept s0 s) : Kept s0 (stopFailedScan s) := by
  unfold stopFailedScan; repeat' with_reducible first
      | exact h | apply requestStop_kept | apply dropWaiting_kept | apply stopHere_kept | split

theorem failFind_kept (h : Kept s0 s) : Kept s0 (failFind s) := by
  unfold failFind; repeat' with_reducible first | exact h | apply complete_kept | apply stopFailedScan_kept

theorem findLocated_kept (h : Kept s0 s) (place : Nat) : Kept s0 (findLocated place s) := by
  unfold findLocated
  split
  · split
    · apply requestStart_kept
      exact rdc_of (s := { s with ord.find := _ }) h _ (fun x => x) (fun _ => Nat.zero_le _)
    · exact h
  · exact h

theorem stopAtFound_kept (hk : Kept s0 s) (f : Find) (b : Nat) (h : BundleHeader) (ix : List IndexEntry)
    (place : Nat) :
    Kept s0 (stopAtFound f b h ix place s) := by
  unfold stopAtFound; repeat' with_reducible first | exact hk | apply requestStop_kept

theorem newEstimate_kept (h : Kept s0 s) (f : Find) (firstObject : Nat) : Kept s0 (newEstimate f firstObject s) := by
  unfold newEstimate; repeat' with_reducible first
      | exact h | apply findFrom_kept | apply failFind_kept | apply kept_ite

theorem walkedForward_kept (hk : Kept s0 s) (f : Find) (b : Nat) (h : BundleHeader) (ix : List IndexEntry)
    (place : Nat) (w : SpaceWalk) :
    Kept s0 (walkedForward f b h ix place w s) := by
  unfold walkedForward; repeat' with_reducible first
      | exact hk | apply failFind_kept | apply stopAtFound_kept | apply kept_ite | split

theorem walkedBackward_kept (hk : Kept s0 s) (f : Find) (b : Nat) (h : BundleHeader) (ix : List IndexEntry)
    (place : Nat) (w : SpaceWalk) :
    Kept s0 (walkedBackward f b h ix place w s) := by
  unfold walkedBackward; repeat' with_reducible first
      | exact hk | apply failFind_kept | apply stopAtFound_kept | apply startFind_kept | apply kept_ite | split

theorem spaceBundle_kept (hk : Kept s0 s) (r : OrderRec) (f : Find) (b : Nat) (h : BundleHeader)
    (ix : List IndexEntry) (place : Nat) :
    Kept s0 (spaceBundle r f b h ix place s) := by
  unfold spaceBundle; repeat' with_reducible first
      | exact hk | apply walkedBackward_kept | apply walkedForward_kept | apply kept_ite

theorem bundleFound_kept (hk : Kept s0 s) (f : Find) (b : Nat) (h : BundleHeader) (ix : List IndexEntry)
    (place : Nat) :
    Kept s0 (bundleFound f b h ix place s) := by
  unfold bundleFound; repeat' with_reducible first
      | exact hk | apply spaceBundle_kept | apply stopAtFound_kept | apply kept_ite | split

theorem examineBundle_kept (hk : Kept s0 s) (f : Find) (b : Nat) (h : BundleHeader) (ix : List IndexEntry)
    (place : Nat) :
    Kept s0 (examineBundle f b h ix place s) := by
  unfold examineBundle; repeat' with_reducible first
      | exact hk | apply failFind_kept | apply bundleFound_kept | apply newEstimate_kept | apply kept_ite

theorem findRow_kept (h : Kept s0 s) (place : Nat) (row : TapeRow) : Kept s0 (findRow place row s) := by
  dsimp only [findRow]; repeat' with_reducible first | exact h | apply examineBundle_kept | apply kept_ite | split

theorem findRows_kept (h : Kept s0 s) (place : Nat) (rs : List TapeRow) : Kept s0 (findRows place rs s) := by
  induction rs generalizing s with
  | nil => exact h
  | cons r rs ih => exact ih (findRow_kept h _ _)

theorem findDone_kept (h : Kept s0 s) : Kept s0 (findDone s) := by
  unfold findDone; repeat' with_reducible first
      | exact h | apply appendAtStart_kept | apply appendInside_kept | apply beginSession_kept | apply complete_kept
      | apply kept_ite | split

theorem overshootLocate_kept (h : Kept s0 s) (l : Locate) : Kept s0 (overshootLocate l s) := by
  unfold overshootLocate
  split
  · apply restartAt_kept
    exact rdc_of (s := { s with mot.locate := _ }) h _ (fun x => x) (fun _ => Nat.zero_le _)
  · exact failLocate_kept h

theorem locateRowTime_kept (h : Kept s0 s) (l : Locate) (rows : List TapeRow) (place : Nat) :
    Kept s0 (locateRowTime l rows place s) := by
  unfold locateRowTime; repeat' with_reducible first
      | exact h | apply requestStop_kept | apply overshootLocate_kept | apply kept_ite | split

end Sys2Proof.Machine
end

