-- ==== Sys2Proof/Laws/KeptCommands.lean ====
section
/-! SUPPORT. The lemmas of Kept (Sys2Proof.Laws.Kept), one for each operation:
what the operations of the order engine, the settings, the report, the loop check, the resets and the commands
keep. -/

namespace Sys2Proof.Machine

variable {s0 s : State}

/-! ### The order engine -/

theorem deferredError_kept (h : Kept s0 s) (d : Nat × FaultReason) : Kept s0 (deferredError d s) := by
  unfold deferredError; repeat' with_reducible first | exact h | apply finishActive_kept

theorem runOrder_kept (h : Kept s0 s) (k : Kind) {begin' : OrderRec → State → State}
    (hb : ∀ r {s : State}, Kept s0 s → Kept s0 (begin' r s)) : Kept s0 (runOrder k begin' s) := by
  unfold runOrder
  split
  · split
    · split
      · exact deferredError_kept h _
      · split
        · exact refuseOrder_kept h _ _
        · exact hb _ h
    · exact h
  · exact h

theorem setStage_kept (h : Kept s0 s) (st : Stage) : Kept s0 (setStage st s) := h

theorem searchFor_kept (h : Kept s0 s) (object : Nat) : Kept s0 (searchFor object s) := by
  unfold searchFor; repeat' with_reducible first | exact h | apply startFind_kept | apply endSession_kept

theorem beginWriting_kept (h : Kept s0 s) (x : OrderRec) : Kept s0 (beginWriting x s) := by
  unfold beginWriting; repeat' with_reducible first
      | exact h | apply setStage_kept | apply discardReadAhead_kept | apply startIntake_kept | apply searchFor_kept
      | apply kept_ite | split

theorem intakeDone_kept (h : Kept s0 s) : Kept s0 (intakeDone s) := by
  unfold intakeDone; repeat' with_reducible first
      | exact h | apply sealCause_kept | apply setStage_kept | apply judgeRelease_kept | apply complete_kept
      | apply kept_ite

theorem beginFlush_kept (h : Kept s0 s) (x : OrderRec) : Kept s0 (beginFlush x s) := by
  unfold beginFlush; repeat' with_reducible first
      | exact h | apply sealCause_kept | apply setStage_kept | apply complete_kept | apply kept_ite

theorem readOn_kept (h : Kept s0 s) : Kept s0 (readOn s) := by
  unfold readOn; repeat' with_reducible first
      | exact h | apply completeRead_kept | apply continueSession_kept | apply setStage_kept | apply searchFor_kept
      | apply discardReadAhead_kept | apply kept_ite | split

theorem spaceOn_kept (h : Kept s0 s) (r : OrderRec) : Kept s0 (spaceOn r s) := by
  unfold spaceOn; repeat' with_reducible first
      | exact h | apply complete_kept | apply searchFor_kept | apply kept_ite | split

theorem travelTo_kept (h : Kept s0 s) (d : Destination) : Kept s0 (travelTo d s) := by
  unfold travelTo; repeat' with_reducible first | exact h | apply requestTravel_kept | apply endSession_kept

theorem locateOn_kept (h : Kept s0 s) (r : OrderRec) : Kept s0 (locateOn r s) := by
  unfold locateOn; repeat' with_reducible first
      | exact h | apply travelTo_kept | apply complete_kept | apply searchFor_kept | apply kept_ite | split

theorem rewindOn_kept (h : Kept s0 s) : Kept s0 (rewindOn s) := by
  unfold rewindOn; repeat' with_reducible first
      | exact h | apply complete_kept | apply travelTo_kept | apply kept_ite | split

theorem positionOn_kept (h : Kept s0 s) : Kept s0 (positionOn s) := by
  dsimp only [positionOn]; repeat' with_reducible first
      | exact h | apply endSession_kept | apply setStage_kept | apply spaceOn_kept | apply locateOn_kept
      | apply rewindOn_kept | apply kept_ite | split

theorem beginRead_kept (h : Kept s0 s) (x : OrderRec) : Kept s0 (beginRead x s) := by
  unfold beginRead; repeat' with_reducible first
      | exact h | apply sealCause_kept | apply setStage_kept | apply readOn_kept | apply kept_ite

theorem noteCount_kept (h : Kept s0 s) : Kept s0 (noteCount s) := by
  unfold noteCount; repeat' with_reducible first | exact h | apply kept_ite | split

theorem beginPositioning_kept (h : Kept s0 s) (r : OrderRec) : Kept s0 (beginPositioning r s) := by
  unfold beginPositioning; repeat' with_reducible first
      | exact h | apply noteCount_kept | apply discardReadAhead_kept | apply complete_kept | apply sealCause_kept
      | apply setStage_kept | apply positionOn_kept | apply kept_ite | split

theorem askRecovery_kept (h : Kept s0 s) : Kept s0 (askRecovery s) := by
  unfold askRecovery; repeat' with_reducible first | exact h | apply requestRecovery_kept

theorem loadMap_kept (h : Kept s0 s) : Kept s0 (loadMap s) := by
  unfold loadMap; repeat' with_reducible first
      | exact h | apply setStage_kept | apply loadDone_kept | apply mapFromCopy_kept | apply beginRebuild_kept
      | apply kept_ite

theorem bringThreaded_kept (h : Kept s0 s) (next : State → State) (hnext : ∀ {s}, Kept s0 s → Kept s0 (next s)) :
    Kept s0 (bringThreaded next s) := by
  unfold bringThreaded; repeat' with_reducible first
      | exact h | apply requestThread_kept | apply askRecovery_kept | apply hnext | apply kept_ite

theorem beginPass_kept (h : Kept s0 s) : Kept s0 (beginPass s) := by
  unfold beginPass; repeat' with_reducible first
      | exact h | apply requestPass_kept | apply requestTravel_kept | apply kept_ite

theorem sendOut_kept (h : Kept s0 s) : Kept s0 (sendOut s) := by
  unfold sendOut; repeat' with_reducible first
      | exact h | apply requestEject_kept | apply requestUnthread_kept | apply kept_ite

theorem cleaningOn_kept (h : Kept s0 s) : Kept s0 (cleaningOn s) := by
  unfold cleaningOn; repeat' with_reducible first
      | exact h | apply sendOut_kept | apply raise_kept | apply bringThreaded_kept | apply beginPass_kept
      | apply kept_ite

theorem loadCleaning_kept (h : Kept s0 s) : Kept s0 (loadCleaning s) := by
  unfold loadCleaning; repeat' with_reducible first
      | exact h | apply setStage_kept | apply askRecovery_kept | apply cleaningOn_kept | apply kept_ite

theorem loadByType_kept (h : Kept s0 s) : Kept s0 (loadByType s) := by
  unfold loadByType; repeat' with_reducible first
      | exact h | apply loadCleaning_kept | apply bringThreaded_kept | apply loadMap_kept | apply setStage_kept
      | apply kept_ite

theorem beginLoad_kept (h : Kept s0 s) (x : OrderRec) : Kept s0 (beginLoad x s) := by
  unfold beginLoad; repeat' with_reducible first
      | exact h | apply discardReadAhead_kept | apply complete_kept | apply endSession_kept
      | apply bringThreaded_kept | apply loadMap_kept | apply setStage_kept | apply beginAccess_kept
      | apply kept_ite

theorem loadReadEnded_kept (h : Kept s0 s) : Kept s0 (loadReadEnded s) := by
  unfold loadReadEnded; repeat' with_reducible first
      | exact h | apply complete_kept | apply cmlDrop_kept | apply loadByType_kept | apply kept_ite

theorem discardAtUnload_kept (h : Kept s0 s) : Kept s0 (discardAtUnload s) := by
  unfold discardAtUnload; repeat' with_reducible first | exact h | apply fmtReset_kept | apply discardAll_kept

theorem unloadDone_kept (h : Kept s0 s) : Kept s0 (unloadDone s) := by
  unfold unloadDone; exact complete_kept h _ _

theorem unloadUnthread_kept (h : Kept s0 s) : Kept s0 (unloadUnthread s) := by
  unfold unloadUnthread; repeat' with_reducible first
      | exact h | apply unloadDone_kept | apply setStage_kept | apply requestEject_kept | apply askRecovery_kept
      | apply requestUnthread_kept | apply kept_ite

theorem unloadMemory_kept (h : Kept s0 s) : Kept s0 (unloadMemory s) := by
  unfold unloadMemory; repeat' with_reducible first
      | exact h | apply setStage_kept | apply beginAccess_kept | apply unloadUnthread_kept | apply kept_ite

theorem unloadRewind_kept (h : Kept s0 s) : Kept s0 (unloadRewind s) := by
  unfold unloadRewind; repeat' with_reducible first
      | exact h | apply endSession_kept | apply setStage_kept | apply askRecovery_kept | apply unloadMemory_kept
      | apply requestTravel_kept | apply kept_ite

theorem beginUnload_kept (h : Kept s0 s) (x : OrderRec) : Kept s0 (beginUnload x s) := by
  unfold beginUnload; repeat' with_reducible first
      | exact h | apply requestEject_kept | apply setStage_kept | apply unloadUnthread_kept | apply sealCause_kept
      | apply discardReadAhead_kept | apply unloadRewind_kept | apply discardAtUnload_kept | apply kept_ite

theorem onWriteDrained_kept (h : Kept s0 s) : Kept s0 (onWriteDrained s) := by
  unfold onWriteDrained; repeat' with_reducible first
      | exact h | apply complete_kept | apply readOn_kept | apply positionOn_kept | apply unloadRewind_kept
      | apply kept_ite | split

theorem onFenced_kept (h : Kept s0 s) : Kept s0 (onFenced s) := by
  unfold onFenced; repeat' with_reducible first | exact h | apply complete_kept | apply rollback_kept | apply kept_ite

theorem onArrived_kept (h : Kept s0 s) : Kept s0 (onArrived s) := by
  unfold onArrived; repeat' with_reducible first
      | exact h | apply complete_kept | apply unloadRewind_kept | apply unloadMemory_kept | apply loadCleaning_kept
      | apply cleaningOn_kept | apply kept_ite

theorem onThreaded_kept (h : Kept s0 s) : Kept s0 (onThreaded s) := by
  unfold onThreaded; repeat' with_reducible first
      | exact h | apply requestUnthread_kept | apply loadMap_kept | apply loadCleaning_kept | apply cleaningOn_kept
      | apply unloadRewind_kept | apply unloadMemory_kept | apply unloadUnthread_kept | apply kept_ite

theorem onSeated_kept (h : Kept s0 s) : Kept s0 (onSeated s) := by
  unfold onSeated; repeat' with_reducible first
      | exact h | apply complete_kept | apply requestThread_kept | apply loadCleaning_kept | apply cleaningOn_kept
      | apply unloadRewind_kept | apply unloadMemory_kept | apply unloadUnthread_kept | apply requestEject_kept
      | apply kept_ite

theorem onEjected_kept (h : Kept s0 s) : Kept s0 (onEjected s) := by
  unfold onEjected; repeat' with_reducible first | exact h | apply complete_kept | apply unloadDone_kept | apply kept_ite

theorem onPassDone_kept (h : Kept s0 s) : Kept s0 (onPassDone s) := by
  unfold onPassDone; repeat' with_reducible first
      | exact h | apply loadCleaning_kept | apply countPass_kept | apply kept_ite

theorem onMotionFailed_kept (h : Kept s0 s) : Kept s0 (onMotionFailed s) := by
  unfold onMotionFailed; repeat' with_reducible first
      | exact h | apply complete_kept | apply motionFault_kept | apply kept_ite

theorem onAccessEnded_kept (h : Kept s0 s) (k : AccessKind) (ok : Bool) : Kept s0 (onAccessEnded k ok s) := by
  unfold onAccessEnded; repeat' with_reducible first
      | exact h | apply loadReadEnded_kept | apply loadCleaning_kept | apply cleaningOn_kept
      | apply unloadMemory_kept | apply unloadUnthread_kept | apply kept_ite | split

theorem positionEnded_kept (h : Kept s0 s) : Kept s0 (positionEnded s) := by
  unfold positionEnded; repeat' with_reducible first | exact h | apply kept_ite

theorem unloadEmergency_kept (h : Kept s0 s) : Kept s0 (unloadEmergency s) := by
  unfold unloadEmergency; repeat' with_reducible first
      | exact h | apply unloadRewind_kept | apply discardAtUnload_kept | apply complete_kept
      | apply motionFault_kept | apply unloadMemory_kept | apply kept_ite | split

theorem onEmergency_kept (h : Kept s0 s) (speed : Bool) : Kept s0 (onEmergency speed s) := by
  unfold onEmergency; repeat' with_reducible first
      | exact h | apply complete_kept | apply rollback_kept | apply completeRead_kept | apply dcpStop_kept
      | apply positionEnded_kept | apply dropRebuild_kept | apply unloadEmergency_kept | apply kept_ite | split

theorem onLocateFailed_kept (h : Kept s0 s) : Kept s0 (onLocateFailed s) := by
  unfold onLocateFailed; repeat' with_reducible first | exact h | apply complete_kept | apply kept_ite | split

theorem abortWriting_kept (h : Kept s0 s) : Kept s0 (abortWriting s) := by
  unfold abortWriting; repeat' with_reducible first
      | exact h | apply complete_kept | apply discardReadAhead_kept | apply stopHere_kept | apply rollback_kept
      | apply kept_ite | split

theorem abortRead_kept (h : Kept s0 s) : Kept s0 (abortRead s) := by
  unfold abortRead; repeat' with_reducible first
      | exact h | apply complete_kept | apply stopHere_kept | apply completeRead_kept | apply rdcStop_kept
      | apply dcpStop_kept | apply kept_ite

theorem abortPositioning_kept (h : Kept s0 s) : Kept s0 (abortPositioning s) := by
  unfold abortPositioning; repeat' with_reducible first
      | exact h | apply complete_kept | apply stopHere_kept | apply positionEnded_kept | apply noteCount_kept
      | apply kept_ite | split

theorem abortMotion_kept (h : Kept s0 s) : Kept s0 (abortMotion s) := by
  unfold abortMotion; repeat' with_reducible first
      | exact h | apply abandonThreading_kept | apply emit_kept | apply requestUnthread_kept | apply kept_ite
      | split

theorem abortLoad_kept (h : Kept s0 s) : Kept s0 (abortLoad s) := by
  unfold abortLoad; repeat' with_reducible first
      | exact h | apply complete_kept | apply abortMotion_kept | apply dropRebuild_kept | apply kept_ite | split

theorem abortTaken_kept (h : Kept s0 s) (k : Kind) : Kept s0 (abortTaken k s) := by
  unfold abortTaken; repeat' with_reducible first
      | exact h | apply abortWriting_kept | apply abortRead_kept | apply abortPositioning_kept
      | apply abortLoad_kept | apply kept_ite | split

/-! ### Settings, the report, the loop check, and what follows an event -/

theorem clampSpeed_range (v : Nat) : 8192 ≤ clampSpeed v ∧ clampSpeed v ≤ 262144 := by
  unfold clampSpeed clamp; omega

theorem applyTunables_kept (h : Kept s0 s) (n : Named) (frames : Nat) (ht : tableAscends (resultingTable n s) = true) :
    Kept s0 (applyTunables n frames s) := by
  unfold applyTunables
  apply setThresholds_kept
  refine ⟨fun h0 => ?_, h.queue, h.clock⟩
  have ⟨_, _, _, hs, hn, hv⟩ := (h.sound h0).speeds
  refine { h.sound h0 with speeds := ⟨?_, ?_, ht, hs, hn, hv⟩ }
  · simp [resultingTable]
  · intro v hv
    obtain ⟨i, _, rfl⟩ := List.mem_map.1 hv
    exact clampSpeed_range _

theorem beginTune_kept (h : Kept s0 s) (r : OrderRec) : Kept s0 (beginTune r s) := by
  unfold beginTune
  dsimp only
  split
  · exact complete_kept h _ _
  · split
    · rename_i ht
      exact finishActive_kept (evaluate_kept (applyTunables_kept h _ _ ht)) _
    · exact finishActive_kept h _

theorem clearCounters_kept (h : Kept s0 s) : Kept s0 (clearCounters s) :=
  ⟨fun h0 => { h.sound h0 with head := (h.sound h0).head }, h.queue, h.clock⟩

theorem beginReport_kept (h : Kept s0 s) (r : OrderRec) : Kept s0 (beginReport r s) := by
  unfold beginReport; repeat' with_reducible first
      | exact h | apply raiseWrite_kept | apply setStage_kept | apply clearCounters_kept | apply kept_ite

theorem reportWritten_kept (h : Kept s0 s) : Kept s0 (reportWritten s) := by
  dsimp only [reportWritten]; repeat' with_reducible first | exact h | apply finishActive_kept | apply kept_ite

theorem setLoop_kept (h : Kept s0 s) (l : Loop) : Kept s0 (setLoop l s) := h

theorem endLoop_kept (h : Kept s0 s) (l : Loop) (st : Status) (c : Nat) (d : Nat) : Kept s0 (endLoop l st c d s) := by
  unfold endLoop; repeat' with_reducible first | exact h | apply finishActive_kept | apply freeFrameAt_kept

theorem failLoop_kept (h : Kept s0 s) (l : Loop) : Kept s0 (failLoop l s) := by
  unfold failLoop; repeat' with_reducible first | exact h | apply endLoop_kept

theorem loopReadChunk_kept (h : Kept s0 s) (k : Nat) : Kept s0 (loopReadChunk k s) := h

theorem beginCheck_kept (h : Kept s0 s) (x : OrderRec) : Kept s0 (beginCheck x s) := by
  unfold beginCheck; repeat' with_reducible first
      | exact h | apply complete_kept | apply loopReadChunk_kept | apply setLoop_kept | apply setStage_kept
      | apply kept_ite

theorem loopChunkRead_kept (h : Kept s0 s) (l : Loop) (raw : List Byte) : Kept s0 (loopChunkRead l raw s) := h

theorem loopChunkWritten_kept (h : Kept s0 s) (l : Loop) : Kept s0 (loopChunkWritten l s) := by
  unfold loopChunkWritten; repeat' with_reducible first
      | exact h | apply loopReadChunk_kept | apply raiseWrite_kept | apply updateFrame_kept | apply kept_ite
      | (intro _; rfl)

theorem loopReadRow_kept (h : Kept s0 s) (r : Nat) (l : Loop) : Kept s0 (loopReadRow r l s) := h

theorem loopTakes_state (l : Loop) (f : Frame) : (loopTakes l f).state = f.state := by
  unfold loopTakes; split_ifs <;> rfl

theorem loopStoreRow_kept (h : Kept s0 s) (l : Loop) : Kept s0 (loopStoreRow l s) := by
  unfold loopStoreRow; repeat' with_reducible first
      | exact h | exact loopTakes_state l | apply raiseWrite_kept | apply raiseRead_kept | apply updateFrame_kept
      | apply kept_ite | split

theorem loopRowRead_kept (h : Kept s0 s) (l : Loop) (data : List Byte) : Kept s0 (loopRowRead l data s) := by
  unfold loopRowRead; repeat' with_reducible first
      | exact h | apply foldWork_kept | apply loopStoreRow_kept | apply setLoop_kept | apply kept_ite | split

theorem loopRowWritten_kept (h : Kept s0 s) (l : Loop) : Kept s0 (loopRowWritten l s) := by
  unfold loopRowWritten; repeat' with_reducible first
      | exact h | apply loopReadRow_kept | apply setLoop_kept | apply raiseRead_kept
      | apply failLoop_kept | apply kept_ite | split

theorem loopFetch_kept (h : Kept s0 s) (l : Loop) : Kept s0 (loopFetch l s) := by
  unfold loopFetch; repeat' with_reducible first
      | exact h | apply raiseRead_kept | apply failLoop_kept | apply kept_ite | split

theorem loopHeaderRead_kept (h : Kept s0 s) (l : Loop) : Kept s0 (loopHeaderRead l s) := by
  dsimp only [loopHeaderRead]; repeat' with_reducible first
      | exact h | apply loopFetch_kept | apply setLoop_kept | apply failLoop_kept | apply kept_ite | split

theorem loopEntryRead_kept (h : Kept s0 s) (l : Loop) (stored : List Byte) : Kept s0 (loopEntryRead l stored s) := by
  unfold loopEntryRead; repeat' with_reducible first
      | exact h | apply loopFetch_kept | apply setLoop_kept | apply raiseWrite_kept | apply failLoop_kept
      | apply kept_ite | split

theorem loopSourceRead_kept (h : Kept s0 s) (l : Loop) (bytes : List Byte) : Kept s0 (loopSourceRead l bytes s) := h

theorem loopCompare_kept (h : Kept s0 s) (l : Loop) (bytes : List Byte) : Kept s0 (loopCompare l bytes s) := by
  unfold loopCompare; repeat' with_reducible first
      | exact h | apply endLoop_kept | apply mediaError_kept | apply kept_ite | split

theorem loopHeaderWritten_kept (h : Kept s0 s) (l : Loop) : Kept s0 (loopHeaderWritten l s) := by
  unfold loopHeaderWritten; repeat' with_reducible first | exact h | apply loopReadRow_kept

theorem loopTransferDone_kept (h : Kept s0 s) (p : Purpose) (data : List Byte) :
    Kept s0 (loopTransferDone p data s) := by
  unfold loopTransferDone; repeat' with_reducible first
      | exact h | apply loopChunkRead_kept | apply loopChunkWritten_kept | apply loopHeaderWritten_kept
      | apply loopRowRead_kept | apply loopRowWritten_kept | apply loopHeaderRead_kept | apply loopEntryRead_kept
      | apply loopFetch_kept | apply loopSourceRead_kept | apply loopCompare_kept | split

theorem onReadPhysicalEnd_kept (h : Kept s0 s) : Kept s0 (onReadPhysicalEnd s) := by
  unfold onReadPhysicalEnd; repeat' with_reducible first
      | exact h | apply failLocate_kept | apply endScanNow_kept | apply failFind_kept | apply rdcPhysicalEnd_kept
      | apply kept_ite | split

theorem onNotThreaded_kept (h : Kept s0 s) : Kept s0 (onNotThreaded s) := by
  unfold onNotThreaded; repeat' with_reducible first
      | exact h | apply complete_kept | apply completeRead_kept | apply rollback_kept | apply kept_ite | split

theorem answerSignal_kept (h : Kept s0 s) (x : Signal) : Kept s0 (answerSignal x s) := by
  unfold answerSignal; repeat' with_reducible first
      | exact h | apply onWriteDrained_kept | apply onFenced_kept | apply resumeIntake_kept | apply serveClaims_kept
      | apply intakeDone_kept | apply endOfMediaCheck_kept | apply onReadPhysicalEnd_kept | apply findDone_kept
      | apply onArrived_kept | apply onNotThreaded_kept | apply onThreaded_kept | apply onSeated_kept
      | apply onEjected_kept | apply onPassDone_kept | apply onMotionFailed_kept | apply onEmergency_kept
      | apply findLocated_kept | apply onLocateFailed_kept | apply onAccessEnded_kept | apply appendReadBack_kept
      | split

theorem settle_kept (h : Kept s0 s) (k : Nat) : Kept s0 (settle k s) := by
  induction k generalizing s with
  | zero => exact h
  | succ k ih =>
    unfold settle
    split
    · exact h
    · rename_i x rest _
      exact ih (answerSignal_kept (s := { s with sig := rest }) h x)

theorem accessCheck_kept (h : Kept s0 s) : Kept s0 (accessCheck s) := by
  unfold accessCheck; repeat' with_reducible first
      | exact h | apply beginAccess_kept | apply unloadMemory_kept | apply kept_ite

theorem askAgain_kept (h : Kept s0 s) : Kept s0 (askAgain s) := by
  unfold askAgain; repeat' with_reducible first | exact h | apply askRestart_kept | apply kept_ite | split

theorem proceed_kept (h : Kept s0 s) : Kept s0 (proceed s) := by
  unfold proceed; repeat' with_reducible first
      | exact h | apply fmtPlace_kept | apply askAgain_kept | apply fetchRow_kept | apply storeRow_kept
      | apply rdcCheck_kept | apply dcpCheck_kept | apply accessCheck_kept

theorem finish_kept (h : Kept s0 s) : Kept s0 (finish s) := by
  unfold finish
  generalize signalFuel = k
  exact grant_kept (settle_kept (proceed_kept (settle_kept (proceed_kept (settle_kept h k)) k)) k)

/-! ### The resets -/

theorem exuSoftReset_kept (h : Kept s0 s) : Kept s0 (exuSoftReset s) := h

theorem ordSoftReset_kept (h : Kept s0 s) : Kept s0 (ordSoftReset s) := h

theorem bsmSoftReset_kept (h : Kept s0 s) : Kept s0 (bsmSoftReset s) := by
  have h1 := discardAll_kept h
  exact store_kept (m := (discardAll s).bsm.mode) h1 fun _ => storeSound_nil _

theorem marbSoftReset_kept (h : Kept s0 s) : Kept s0 (marbSoftReset s) := h

theorem cmlSoftReset_kept (h : Kept s0 s) : Kept s0 (cmlSoftReset s) := by
  unfold cmlSoftReset; repeat' with_reducible first | exact h | apply dropRebuild_kept

theorem motRelease_kept (h : Kept s0 s) : Kept s0 (motRelease s) := by
  unfold motRelease; repeat' with_reducible first | exact h | apply dropLock_kept

theorem dropSplice_kept (h : Kept s0 s) : Kept s0 (dropSplice s) := h

theorem controlledStop_kept (h : Kept s0 s) : Kept s0 (controlledStop s) := h

theorem motSoftReset_kept (h : Kept s0 s) : Kept s0 (motSoftReset s) := by
  dsimp only [motSoftReset]; repeat' with_reducible first
      | exact h | apply motRelease_kept | apply controlledStop_kept | apply startDwell_kept | apply dropSplice_kept
      | apply abandonThreading_kept | apply kept_ite | split

theorem softResetState_kept (h : Kept s0 s) : Kept s0 (softResetState s) := by
  unfold softResetState; repeat' with_reducible first
      | exact h | apply marbSoftReset_kept | apply bsmSoftReset_kept | apply ordSoftReset_kept
      | apply exuSoftReset_kept | apply dcpClear_kept | apply rdcClear_kept | apply fmtReset_kept
      | apply cmlSoftReset_kept | apply spmSessionReset_kept | apply motSoftReset_kept

theorem motSessionEnd_kept (h : Kept s0 s) : Kept s0 (motSessionEnd s) := by
  unfold motSessionEnd; repeat' with_reducible first | exact h | apply dropSplice_kept | apply motRelease_kept

theorem sessionEnd_kept (h : Kept s0 s) : Kept s0 (sessionEnd s) := by
  unfold sessionEnd; repeat' with_reducible first
      | exact h | apply cmlDrop_kept | apply spmSessionReset_kept | apply dcpClear_kept | apply rdcClear_kept
      | apply motSessionEnd_kept

/-! ### The events of tape and cartridge -/

theorem moveOne_kept (h : Kept s0 s) : Kept s0 (moveOne s) := h

theorem atIndex_kept (h : Kept s0 s) (i : Nat) : Kept s0 (atIndex i s) := h

theorem enterStreaming_kept (h : Kept s0 s) (kind : StartKind) : Kept s0 (enterStreaming kind s) := by
  unfold enterStreaming; repeat' with_reducible first
      | exact h | apply beginWriteRowTime_kept | apply kept_ite | split

theorem startingBoundary_kept (h : Kept s0 s) (p : Pos) : Kept s0 (startingBoundary p s) := by
  unfold startingBoundary; repeat' with_reducible first
      | exact h | apply enterStreaming_kept | apply atIndex_kept | apply kept_ite

theorem writeWrapEnd_kept (h : Kept s0 s) (p : Pos) : Kept s0 (writeWrapEnd p s) := by
  unfold writeWrapEnd; repeat' with_reducible first | exact h | apply windowEmptyReport_kept

theorem writeBoundary_kept (h : Kept s0 s) (p : Pos) : Kept s0 (writeBoundary p s) := by
  unfold writeBoundary; repeat' with_reducible first
      | exact h | apply closeRowTime_kept | apply beginWriteRowTime_kept | apply atIndex_kept
      | apply writeWrapEnd_kept | apply kept_ite

theorem readWrapEnd_kept (h : Kept s0 s) (p : Pos) : Kept s0 (readWrapEnd p s) := by
  unfold readWrapEnd; repeat' with_reducible first
      | exact h | apply emit_kept | apply stopAtEnd_kept | apply endHeaderScan_kept | apply enterTurning_kept
      | apply kept_ite

theorem readBoundary_kept (h : Kept s0 s) (p : Pos) : Kept s0 (readBoundary p s) := by
  unfold readBoundary; repeat' with_reducible first
      | exact h | apply endHeaderScan_kept | apply atIndex_kept | apply readWrapEnd_kept | apply kept_ite | split

theorem cleaningOver_kept (h : Kept s0 s) : Kept s0 (cleaningOver s) := by
  unfold cleaningOver; repeat' with_reducible first | exact h | apply requestTravel_kept

theorem cleaningBoundary_kept (h : Kept s0 s) (p : Pos) : Kept s0 (cleaningBoundary p s) := by
  unfold cleaningBoundary; repeat' with_reducible first
      | exact h | apply moveOne_kept | apply cleaningOver_kept | apply kept_ite

theorem rowBoundary_kept (h : Kept s0 s) (p : Pos) : Kept s0 (rowBoundary p s) := by
  unfold rowBoundary; repeat' with_reducible first
      | exact h | apply startingBoundary_kept | apply writeBoundary_kept | apply readBoundary_kept
      | apply cleaningBoundary_kept | apply moveOne_kept | apply kept_ite | split

theorem inTolerance_kept (h : Kept s0 s) : Kept s0 (inTolerance s) := by
  have hl : Sound s0 → LockSound (inToleranceLevel s.mot).1 (inToleranceLevel s.mot).2 := fun h0 => by
    have := (h.sound h0).lock
    unfold inToleranceLevel
    dsimp only
    cases hl : s.mot.lock <;> rw [hl] at this
    · replace this := this.1 rfl
      split_ifs <;> simp_all [LockSound]
      omega
    · replace this := this.2.1 rfl
      split_ifs <;> simp_all [LockSound]
      omega
    · replace this := this.2.2 rfl
      simp [this, LockSound]
  have h1 : Kept s0 (setLock (inToleranceLevel s.mot).1 (inToleranceLevel s.mot).2 s) :=
    ⟨fun h0 => { h.sound h0 with lock := hl h0 }, h.queue, h.clock⟩
  exact kept_ite
    (a := { setLock (inToleranceLevel s.mot).1 (inToleranceLevel s.mot).2 s with mot.limitTimer := none }) h1 h1

theorem outOfTolerance_kept (h : Kept s0 s) : Kept s0 (outOfTolerance s) := by
  have h1 : Kept s0 (setLock (outOfToleranceLevel s.mot).1 (outOfToleranceLevel s.mot).2 s) := by
    apply setLock_kept h
    unfold outOfToleranceLevel
    split <;> simp [LockSound]
  exact kept_ite (startLimit_kept h1) h1

theorem brake_kept (h : Kept s0 s) : Kept s0 (brake s) := by
  unfold brake; repeat' with_reducible first | exact h | apply motRelease_kept | apply dropSplice_kept

theorem emergencyStop_kept (h : Kept s0 s) (speed : Bool) (detail : Nat) (c : Nat) :
    Kept s0 (emergencyStop speed detail c s) := by
  unfold emergencyStop; repeat' with_reducible first
      | exact h | apply emit_kept | apply raise_kept | apply motionFault_kept | apply fmtEmergency_kept
      | apply brake_kept

theorem relaxTape_kept (h : Kept s0 s) : Kept s0 (relaxTape s) := h

theorem atRest_kept (h : Kept s0 s) : Kept s0 (atRest s) := by
  unfold atRest; repeat' with_reducible first
      | exact h | apply moveToRunUp_kept | apply enterTravel_kept | apply serveHeld_kept | apply startDwell_kept
      | apply kept_ite | split

theorem countTravel_kept (h : Kept s0 s) : Kept s0 (countTravel s) := h

theorem idleAt_kept (h : Kept s0 s) (place : Nat × Nat) : Kept s0 (idleAt place s) := h

theorem arriveNamed_kept (h : Kept s0 s) (place : Nat × Nat) : Kept s0 (arriveNamed place s) := by
  unfold arriveNamed; repeat' with_reducible first
      | exact h | apply emit_kept | apply serveHeld_kept | apply idleAt_kept

theorem arriveBot_kept (h : Kept s0 s) : Kept s0 (arriveBot s) := by
  dsimp only [arriveBot]; repeat' with_reducible first
      | exact h | apply idleAt_kept | apply emit_kept | apply serveHeld_kept | apply enterUnthreading_kept
      | apply kept_ite | split

theorem travelArrives_kept (h : Kept s0 s) : Kept s0 (travelArrives s) := by
  unfold travelArrives; repeat' with_reducible first
      | exact h | apply arriveRunUp_kept | apply countTravel_kept | apply arriveNamed_kept | apply arriveBot_kept
      | apply kept_ite | split

theorem turnedHeads_kept (h : Kept s0 s) : Kept s0 (turnedHeads s) := h

theorem resumeStreaming_kept (h : Kept s0 s) : Kept s0 (resumeStreaming s) := by
  unfold resumeStreaming; repeat' with_reducible first | exact h | apply enterStreaming_kept | apply startLimit_kept

theorem turnEnds_kept (h : Kept s0 s) : Kept s0 (turnEnds s) := heldStop_kept h _ resumeStreaming_kept

theorem recoveryEnds_kept (h : Kept s0 s) : Kept s0 (recoveryEnds s) := by
  unfold recoveryEnds; repeat' with_reducible first
      | exact h | apply emit_kept | apply serveHeld_kept | apply idleAt_kept

theorem takeSecond_kept (h : Kept s0 s) : Kept s0 (takeSecond s) := by
  unfold takeSecond; repeat' with_reducible first | exact h | apply addMotionSecond_kept

theorem seatCartridge_kept (h : Kept s0 s) (tab : Bool) : Kept s0 (seatCartridge tab s) := by
  unfold seatCartridge; repeat' with_reducible first | exact h | apply raise_kept

theorem cartridgeEjected_kept (h : Kept s0 s) : Kept s0 (cartridgeEjected s) := by
  unfold cartridgeEjected; repeat' with_reducible first
      | exact h | apply emit_kept | apply raise_kept | apply sessionEnd_kept

theorem cartridgeTaken_kept (h : Kept s0 s) : Kept s0 (cartridgeTaken s) := by
  unfold cartridgeTaken; repeat' with_reducible first | exact h | apply raise_kept | apply cmlDrop_kept

theorem enterPath_kept (h : Kept s0 s) : Kept s0 (enterPath s) := h

theorem captureOver_kept (h : Kept s0 s) : Kept s0 (captureOver s) := by
  unfold captureOver; repeat' with_reducible first | exact h | apply motionFault_kept | apply kept_ite

theorem enterTensioning_kept (h : Kept s0 s) : Kept s0 (enterTensioning s) := h

theorem threadingDone_kept (h : Kept s0 s) (g : Geometry) : Kept s0 (threadingDone g s) := by
  unfold threadingDone; repeat' with_reducible first
      | exact h | apply takeGeometry_kept | apply idleAt_kept | apply emit_kept | apply raise_kept

theorem retensioned_kept (h : Kept s0 s) : Kept s0 (retensioned s) := by
  unfold retensioned; repeat' with_reducible first | exact h | apply serveHeld_kept | apply startDwell_kept

theorem recoveryRewind_kept (h : Kept s0 s) (g : Geometry) : Kept s0 (recoveryRewind g s) := by
  unfold recoveryRewind; repeat' with_reducible first | exact h | apply takeGeometry_kept

theorem readRowTime_kept (h : Kept s0 s) (rows : List TapeRow) (place : Nat) (first : Bool) :
    Kept s0 (readRowTime rows place first s) := by
  unfold readRowTime; repeat' with_reducible first
      | exact h | apply locateRowTime_kept | apply rebuildRowTime_kept | apply findRows_kept
      | apply sessionRowTime_kept | apply kept_ite | split

theorem blankLimit_kept (h : Kept s0 s) : Kept s0 (blankLimit s) := by
  unfold blankLimit; repeat' with_reducible first
      | exact h | apply endScanNow_kept | apply failLocate_kept | apply failFind_kept | apply sessionBlank_kept
      | apply kept_ite

/-! ### The processor port -/

theorem beginBinding_kept (h : Kept s0 s) (a : Nat) : Kept s0 (beginBinding a s) := h

theorem setupBad_kept (h : Kept s0 s) (a fieldNumber : Nat) : Kept s0 (setupBad a fieldNumber s) := by
  unfold setupBad; apply serveFree_kept; apply queueWork_kept; exact h

theorem buildFrames_kept (h : Kept s0 s) (base : Nat) (count : Nat) : Kept s0 (buildFrames base count s) :=
  store_kept (s := { s with bsm.base := base }) h fun _ =>
    storeSound_free fun f hf => by rw [List.eq_of_mem_replicate hf]; rfl

theorem bindExu_kept (h : Kept s0 s) (a : Nat) (firstTicket : Nat) : Kept s0 (bindExu a firstTicket s) := h

theorem writeHeld_kept (h : Kept s0 s) (c : Condition) (d : Option Detail) : Kept s0 (writeHeld c d s) := by
  unfold writeHeld; repeat' with_reducible first | exact h | apply queueWork_kept | split

theorem writeHeldAll_kept (h : Kept s0 s) : Kept s0 (writeHeldAll s) := by
  unfold writeHeldAll; repeat' with_reducible first | exact h | apply writeHeld_kept

theorem fromBytes_lt : ∀ bs : List Byte, fromBytes bs < 256 ^ bs.length
  | [] => by simp [fromBytes]
  | b :: bs => by
    have h1 := fromBytes_lt bs
    have h2 := b.isLt
    simp only [fromBytes, List.length_cons, Nat.pow_succ]
    omega

theorem field_lt (bs : List Byte) (o n : Nat) : field bs o n < 256 ^ n := by
  unfold field
  refine lt_of_lt_of_le (fromBytes_lt _) (Nat.pow_le_pow_right (by omega) ?_)
  exact List.length_take_le _ _

/-- Of sixteen channel states none above 1, at most 4 of them 1, at least 12 are 0. -/
theorem zeros_and_ones : ∀ l : List Nat, (∀ x ∈ l, x ≤ 1) →
    (l.filter (fun x => x = 0)).length + (l.filter (fun x => x = 1)).length = l.length
  | [], _ => rfl
  | x :: l, h => by
    have ih := zeros_and_ones l (fun y hy => h y (by simp [hy]))
    have hx := h x (by simp)
    have : x = 0 ∨ x = 1 := by omega
    rcases this with rfl | rfl <;> simp at ih ⊢ <;> omega

theorem historyChannels_active (b : HeadHistory) (hl : b.states.length = 16) :
    activeCount (historyChannels b) = (b.states.filter (fun x => x = 0)).length := by
  obtain ⟨ss, hs⟩ : ∃ ss, ss = b.states := ⟨_, rfl⟩
  unfold activeCount historyChannels
  rw [← hs] at hl ⊢
  match ss, hl with
  | [a0, a1, a2, a3, a4, a5, a6, a7, a8, a9, a10, a11, a12, a13, a14, a15], _ =>
    rw [List.filter_map, List.length_map]
    have : [a0, a1, a2, a3, a4, a5, a6, a7, a8, a9, a10, a11, a12, a13, a14, a15] = (List.range 16).map
      (fun c => [a0, a1, a2, a3, a4, a5, a6, a7, a8, a9, a10, a11, a12, a13, a14, a15].getD c 0) := by rfl
    conv_rhs => rw [this, List.filter_map, List.length_map]
    rfl

/-- R156: a head history block that passes its checks gives a sound head care monitor. -/
theorem restoredHistory_sound (h : Kept s0 s) (bytes : List Byte) (hb : historyFault (readHistory bytes) = none) :
    Kept s0 (restoreHistory (readHistory bytes) s) := by
  refine headCare_of h _ ?_
  rintro ⟨_, _, _, _, ho⟩
  have hl : (readHistory bytes).states.length = 16 := by simp [readHistory]
  have ha := historyChannels_active _ hl
  unfold historyFault at hb
  dsimp only at hb
  split_ifs at hb with h1 h2
  have hz := zeros_and_ones (readHistory bytes).states (fun x hx => by
    by_contra hc
    exact h1 (List.any_eq_true.2 ⟨x, hx, by simpa using hc⟩))
  refine ⟨by simp [historyChannels], rfl, ?_, ?_, ho⟩
  · change 12 ≤ activeCount (historyChannels (readHistory bytes))
    rw [ha]; omega
  · intro c hc
    obtain ⟨i, hi, rfl⟩ := List.mem_map.1 hc
    have hi' : i < 16 := List.mem_range.1 hi
    have := field_lt bytes (2 * i) 2
    simp only [readHistory, List.getD_eq_getElem?_getD, List.getElem?_map, List.getElem?_range hi', Option.map_some,
      Option.getD_some]
    omega

/-- A speed table that has no entry at fault ascends. -/
theorem firstNotAscending_none : ∀ (i : Nat) (l : List Nat), firstNotAscending i l = none →
    ∀ j, j + 1 < l.length → l.getD j 0 < l.getD (j + 1) 0
  | _, [], _, _, hj => by simp at hj
  | _, [_], _, _, hj => by simp at hj
  | i, a :: b :: rest, h, j, hj => by
    unfold firstNotAscending at h
    split_ifs at h with hab
    cases j with
    | zero => simpa using hab
    | succ j =>
      have := firstNotAscending_none (i + 1) (b :: rest) h j (by simpa using hj)
      simpa using this

/-- R112: the table of a setup record that passes its checks ascends. -/
theorem setupFault_table {a : Nat} {bytes : List Byte} (hf : setupFault a (readSetup bytes) = none) (s : State) :
    tableAscends (resultingTable ((readSetup bytes).tunables.map some) s) = true := by
  unfold setupFault at hf
  dsimp only at hf
  split_ifs at hf
  cases hn : firstNotAscending 0 (((readSetup bytes).tunables.drop 13).map clampSpeed) with
  | some i => rw [hn] at hf; simp at hf
  | none =>
    have hlt := firstNotAscending_none _ _ hn
    have hlen : ((readSetup bytes).tunables.drop 13).length = 6 := by simp [readSetup]
    have htab : resultingTable ((readSetup bytes).tunables.map some) s =
        ((readSetup bytes).tunables.drop 13).map clampSpeed := by
      have ht : (readSetup bytes).tunables = (List.range 19).map (fun j => field bytes (20 + 4 * j) 4) := rfl
      rw [ht]; rfl
    rw [htab]
    simp only [List.length_map, hlen] at hlt
    unfold tableAscends
    rw [List.all_eq_true]
    intro i hi
    have hi := List.mem_range.1 hi
    unfold notAbove
    cases i with
    | zero => rfl
    | succ i =>
      have := hlt i (by omega)
      simp only [Nat.add_sub_cancel, Bool.not_eq_true', Bool.and_eq_false_iff, decide_eq_false_iff_not]
      exact .inr (by omega)

theorem completeBinding_kept (h : Kept s0 s) (a : Nat) (bytes : List Byte)
    (hf : setupFault a (readSetup bytes) = none) : Kept s0 (completeBinding a (readSetup bytes) s) := by
  have h1 := applyTunables_kept (buildFrames_kept h (readSetup bytes).storeBase (readSetup bytes).frames)
    ((readSetup bytes).tunables.map some) (readSetup bytes).frames (setupFault_table hf _)
  have h2 := bindExu_kept h1 a (readSetup bytes).firstTicket
  have h3 := fun o => serveFree_kept (writeHeldAll_kept (queueWork_kept h2 [.outcome a o]))
  have hr : ∀ x : State, Kept s0 x → Kept s0 (restoreIfPresent (readSetup bytes).history x) := by
    intro x hx
    have hb : setupFault a (readSetup bytes) = none → ∀ b, (readSetup bytes).history = some b →
        historyFault b = none := by
      intro hf b hb
      unfold setupFault at hf
      dsimp only at hf
      split_ifs at hf
      split at hf
      · cases hf
      · rw [hb] at hf; exact hf
    unfold restoreIfPresent
    split
    · rename_i b hbb
      have hh := hb hf b hbb
      unfold readSetup at hbb
      dsimp only at hbb
      split_ifs at hbb
      simp only [Option.some.injEq] at hbb
      subst hbb
      exact restoredHistory_sound hx _ hh
    · exact hx
  exact evaluate_kept (hr _ (h3 _))

theorem queueAbort_kept (h : Kept s0 s) (t : Ticket) : Kept s0 (queueAbort t s) := by
  unfold queueAbort; dsimp only; split
  · apply queueWork_kept; exact h
  · exact h

theorem abortTicket_kept (h : Kept s0 s) (t : Ticket) : Kept s0 (abortTicket t s) := by
  unfold abortTicket abortUnmatched; repeat' with_reducible first
      | exact h | apply abortTaken_kept | apply serveFree_kept | apply queueAbort_kept | apply noteRaise_kept
      | apply kept_ite | split

theorem windowReadDone_kept (h : Kept s0 s) (bytes : List Byte) : Kept s0 (windowReadDone bytes s) := h

theorem setupBytesRead_kept (h : Kept s0 s) (bytes : List Byte) : Kept s0 (setupBytesRead bytes s) := h

theorem storedBytesRead_kept (h : Kept s0 s) (bytes : List Byte) : Kept s0 (storedBytesRead bytes s) := h

theorem transferDone_kept (h : Kept s0 s) (t : Transfer) : Kept s0 (transferDone t s) := by
  unfold transferDone; repeat' with_reducible first
      | exact h | apply setupBytesRead_kept | apply reportWritten_kept | apply windowReadDone_kept
      | apply prepareChunk_kept | apply sealDone_kept | apply rowFetched_kept | apply rowStored_kept
      | apply rowRestored_kept | apply headerRead_kept | apply storedBytesRead_kept | apply entryDelivered_kept
      | apply loopTransferDone_kept | split

theorem countIntake_kept (h : Kept s0 s) (t : Transfer) (n : Nat) : Kept s0 (countIntake t n s) := by
  unfold countIntake; repeat' with_reducible first | exact h | apply advanceByte_kept | apply kept_ite

theorem countWindow_kept (h : Kept s0 s) (t : Transfer) (n : Nat) : Kept s0 (countWindow t n s) :=
  kept_ite (tamperHeader_kept h _ _) h

theorem moveBurst_kept (h : Kept s0 s) (t : Transfer) (n : Nat) : Kept s0 (moveBurst t n s) := by
  have h1 : ∀ ts, Kept s0 { s with mem := burstMemory s.mem n t, marb.transfers := ts } := fun ts => by
    unfold burstMemory
    split
    · exact writeMem_kept h _ _
    · exact h
  have h2 := fun ts => countWindow_kept (countIntake_kept (h1 ts) t n) t n
  unfold moveBurst
  dsimp only
  exact kept_ite (transferDone_kept (h2 _) _) (h2 _)

theorem endBurst_kept (h : Kept s0 s) (b : Burst) : Kept s0 (endBurst b s) := by
  dsimp only [endBurst]; repeat' with_reducible first | exact h | apply moveBurst_kept | apply kept_ite | split

end Sys2Proof.Machine
end

