-- ==== Sys2Proof/Laws/PerInstr.lean ====
section
/-! SUPPORT. Laws of the form of the commands, one lemma per constructor. -/

namespace Sys2Proof.Laws.Form

/-- A command is spelled by no word, the table giving its row no bits (log 2), and it is ill-formed only if it is a register
write, a window access or a head report whose operands are. -/
def Statement (i : Instr) : Prop :=
  (∀ nbits w, decodeTableWord nbits w ≠ some i)
    ∧ (i.wf = false →
        (∃ addr len v, i = .registerWriteIgnored addr len v) ∨ (∃ addr len w, i = .windowAccess addr len w)
          ∨ ∃ heads, i = .readHeadOutcome heads)

theorem powerOnReset (sensors : Sensors) : Statement (.powerOnReset sensors) := ⟨nofun, nofun⟩
theorem hardReset (sensors : Sensors) : Statement (.hardReset sensors) := ⟨nofun, nofun⟩
theorem softReset : Statement .softReset := ⟨nofun, nofun⟩
theorem registerWriteIgnored (addr : Word) (len : AccessLen) (value : Word) : Statement (.registerWriteIgnored addr len value) := ⟨nofun, fun _ => .inl ⟨_, _, _, rfl⟩⟩
theorem binding (value : Word) : Statement (.binding value) := ⟨nofun, nofun⟩
theorem setupRecordRead : Statement .setupRecordRead := ⟨nofun, nofun⟩
theorem post (value : Word) : Statement (.post value) := ⟨nofun, nofun⟩
theorem quietTimerExpiry : Statement .quietTimerExpiry := ⟨nofun, nofun⟩
theorem cond (value : Word) : Statement (.cond value) := ⟨nofun, nofun⟩
theorem abort (value : Word) : Statement (.abort value) := ⟨nofun, nofun⟩
theorem windowAccess (addr : Word) (len : AccessLen) (write : Option Word) : Statement (.windowAccess addr len write) := ⟨nofun, fun _ => .inr (.inl ⟨_, _, _, rfl⟩)⟩
theorem burstDone : Statement .burstDone := ⟨nofun, nofun⟩
theorem write : Statement .write := ⟨nofun, nofun⟩
theorem mark : Statement .mark := ⟨nofun, nofun⟩
theorem flush : Statement .flush := ⟨nofun, nofun⟩
theorem read : Statement .read := ⟨nofun, nofun⟩
theorem space : Statement .space := ⟨nofun, nofun⟩
theorem locate : Statement .locate := ⟨nofun, nofun⟩
theorem rewind : Statement .rewind := ⟨nofun, nofun⟩
theorem load : Statement .load := ⟨nofun, nofun⟩
theorem unload : Statement .unload := ⟨nofun, nofun⟩
theorem tune : Statement .tune := ⟨nofun, nofun⟩
theorem report : Statement .report := ⟨nofun, nofun⟩
theorem check : Statement .check := ⟨nofun, nofun⟩
theorem chunkCommit : Statement .chunkCommit := ⟨nofun, nofun⟩
theorem idleTimerExpiry : Statement .idleTimerExpiry := ⟨nofun, nofun⟩
theorem rowTimeBoundary : Statement .rowTimeBoundary := ⟨nofun, nofun⟩
theorem verifyResult (result : VerifyOutcome) : Statement (.verifyResult result) := ⟨nofun, nofun⟩
theorem readHeadOutcome (heads : List (Fin 16 × HeadOutcome)) : Statement (.readHeadOutcome heads) := ⟨nofun, fun _ => .inr (.inr ⟨_, rfl⟩)⟩
theorem blankRunLimit : Statement .blankRunLimit := ⟨nofun, nofun⟩
theorem decodeEntry : Statement .decodeEntry := ⟨nofun, nofun⟩
theorem servoFrame (inTolerance : Bool) : Statement (.servoFrame inTolerance) := ⟨nofun, nofun⟩
theorem lockLimitTimerExpiry : Statement .lockLimitTimerExpiry := ⟨nofun, nofun⟩
theorem cartridgeSeated (tab : Bool) : Statement (.cartridgeSeated tab) := ⟨nofun, nofun⟩
theorem cartridgeRemoved : Statement .cartridgeRemoved := ⟨nofun, nofun⟩
theorem leaderCaptured : Statement .leaderCaptured := ⟨nofun, nofun⟩
theorem captureTimerExpiry : Statement .captureTimerExpiry := ⟨nofun, nofun⟩
theorem leaderAttached : Statement .leaderAttached := ⟨nofun, nofun⟩
theorem pathTimerExpiry : Statement .pathTimerExpiry := ⟨nofun, nofun⟩
theorem workingTension (geometry : Geometry) : Statement (.workingTension geometry) := ⟨nofun, nofun⟩
theorem leaderHome : Statement .leaderHome := ⟨nofun, nofun⟩
theorem unthreadTimerExpiry : Statement .unthreadTimerExpiry := ⟨nofun, nofun⟩
theorem tensionFault : Statement .tensionFault := ⟨nofun, nofun⟩
theorem dwellTimerExpiry : Statement .dwellTimerExpiry := ⟨nofun, nofun⟩
theorem tapeAtRest : Statement .tapeAtRest := ⟨nofun, nofun⟩
theorem runUpPointReached : Statement .runUpPointReached := ⟨nofun, nofun⟩
theorem travelArrival : Statement .travelArrival := ⟨nofun, nofun⟩
theorem turnDone : Statement .turnDone := ⟨nofun, nofun⟩
theorem botSensor : Statement .botSensor := ⟨nofun, nofun⟩
theorem cmAnswer (reply : CmReply) : Statement (.cmAnswer reply) := ⟨nofun, nofun⟩
theorem cmAttemptTimeout : Statement .cmAttemptTimeout := ⟨nofun, nofun⟩
theorem motionSecond : Statement .motionSecond := ⟨nofun, nofun⟩

end Sys2Proof.Laws.Form
end

