-- ==== Sys2Proof/Tests/Slice0.lean ====
section
/-! SUPPORT. The author's own tests: ill-formed commands refused, the spec's worked examples, one-step tests, and for every
statement with hypotheses a state and operands that meet them (the theorems named wit_<statement>). -/

namespace Sys2Proof.Tests

open Sys2Proof Sys2Proof.Machine

/-! ### Ill-formed commands -/

/-- A register write that is not disregarded is no REGISTER_WRITE_IGNORED: IDENT is, EXBASE, POST and code 1 of RESET are not. -/
theorem test_ignored_write :
    ((Instr.registerWriteIgnored 1073741824 .four 5).wf, (Instr.registerWriteIgnored 1073741828 .two 5).wf,
      (Instr.registerWriteIgnored 1073741828 .four 5).wf, (Instr.registerWriteIgnored 1073741844 .four 1).wf,
      (Instr.registerWriteIgnored 1073741844 .four 3).wf, (Instr.registerWriteIgnored 16 .four 3).wf) =
    (true, true, false, false, true, false) := by decide

/-- A window access writes no register. -/
theorem test_window_write_of_register :
    ((Instr.windowAccess 1073741840 .four (some 1)).wf, (Instr.windowAccess 1073741840 .four none).wf) = (false, true) := by
  decide

/-- A row of a small test: its data bytes are the given ones. -/
def rowOf (bundle row : Nat) (data : List Byte) : TapeRow := ⟨⟨none, bundle, 0, row, none⟩, none, none, data⟩

/-- Read heads report each channel once, in channel order. -/
theorem test_heads_in_order :
    ((Instr.readHeadOutcome [(1, .absent), (2, .unreadable)]).wf, (Instr.readHeadOutcome [(2, .absent), (1, .absent)]).wf,
      (Instr.readHeadOutcome [(2, .absent), (2, .absent)]).wf) = (true, false, false) := by decide

/-- There is no row 72. -/
theorem test_row_number : (Instr.readHeadOutcome [(0, .found 0 (rowOf 1 72 []))]).wf = false := by decide

/-- A row holds 16,384 data bytes. -/
theorem test_row_length : (Instr.readHeadOutcome [(0, .found 0 (rowOf 1 0 [7]))]).wf = false := by decide

/-! ### The spec's worked examples -/

/-- The chunk of section 1.3.1. -/
def exampleChunk : MatchInput := ⟨[], 0, [65, 66, 67, 65, 66, 67, 65, 66, 67, 88]⟩

/-- Section 1.3.1: PACKED in 9 bytes, and the four table entries. -/
theorem test_example_candidate : exampleChunk.candidate [] false =
    ⟨.packed, exampleChunk.chunk, [2, 65, 66, 67, 131, 2, 0, 0, 88], [(594, 4), (617, 7), (1830, 6), (3298, 5)]⟩ := by
  decide +kernel

/-- Section 1.3.1: as for a PLAIN chunk, the same four entries. -/
theorem test_example_plain_table : (exampleChunk.candidate [] true).table = [(594, 4), (617, 7), (1830, 6), (3298, 5)] := by
  decide

/-- Section 1.3.1, read back (R75). -/
theorem test_example_decoded :
    decodeStored ⟨.data, 0, true, true, .packed, 10, 9⟩ [] 0 [2, 65, 66, 67, 131, 2, 0, 0, 88] = some exampleChunk.chunk := by
  decide

/-- A state with a cartridge of 8 wraps of 30,000 row times and an early-warning margin of 100. -/
def onTape : State :=
  { State.reset with cml.copy := some ⟨none, some .data, ⟨8, 30000, 100⟩, 0, false, ⟨0, 0, 0, 0⟩,
      [⟨5, some ⟨1200, 150, 0, 100, none, 28800⟩⟩], 0, 0, 0⟩ }

/-- Section 5.11.1: the estimate and, on the wrap, the scan start of bundle 1,290. -/
theorem test_example_locate : (estimatePlace onTape 1290, (requestLocate 1290 onTape).mot.locate.map (fun l => l.scanStart)) =
    ((5, 17280), some 167080) := by decide

/-- Section 7.6.1 before the releases. -/
def acrossTurn : State :=
  { State.reset with
    cml.copy := some ⟨none, some .data, ⟨8, 30000, 100⟩, 0, false, ⟨0, 0, 0, 0⟩,
      [⟨6, some ⟨1350, 149, 40210, 95, some 4, 29997⟩⟩, ⟨7, none⟩], 0, 0, 0⟩
    cml.map := some ⟨40310, 1501, 6, 29997⟩ }

/-- An entry that begins an object. -/
def begins (kind : EntryKind) (object : Nat) : IndexEntry := ⟨kind, object, true, true, .plain, 1, 1⟩

/-- Section 7.6.1: after both releases. -/
theorem test_example_releases :
    let h1 : BundleHeader := ⟨1499, 0, none, 40305, 3, 2, .full, none⟩
    let h2 : BundleHeader := ⟨1500, 0, none, 40308, 2, 2, .full, none⟩
    let s := cmlRelease h1 [begins .data 40305, begins .data 40306, begins .mark 40307] ⟨1499, 209997, 210014⟩ acrossTurn
    let s := cmlRelease h2 [begins .data 40308, begins .data 40309] ⟨1500, 210001, 210005⟩ s
    (directory s, s.cml.map.map (fun m => (m.endWrap, m.endIndex))) =
      ([⟨6, some ⟨1350, 150, 40210, 98, some 5, 30000⟩⟩, ⟨7, some ⟨1500, 1, 40308, 2, some 0, 6⟩⟩], some (7, 15)) := by
  decide

/-- Section 8.5.1 at its start: channel 9 at 5,990, the others at 1,200. -/
def exampleHead : State :=
  { State.reset with hcm.channels := (List.range 16).map (fun c => ⟨if c = 9 then 5990 else 1200, true⟩) }

/-- Section 8.5.1: a REWRITE and an EXHAUSTED of channel 9, then a release. -/
theorem test_example_retirement :
    let s := bundleVerified (wearEvent 9 256 (wearEvent 9 16 exampleHead))
    (s.hcm.n, s.hcm.h, s.hcm.call, s.hcm.channels.getD 9 ⟨0, true⟩, s.hcm.channels.getD 0 ⟨0, false⟩) =
      (15, 1182, .none, ⟨6262, false⟩, ⟨1182, true⟩) := by decide +kernel

/-- Section 8.6.1 at its start. -/
def fencedHead : State :=
  { State.reset with
    hcm.channels := [⟨6150, false⟩, ⟨6200, false⟩, ⟨6300, false⟩, ⟨6500, false⟩, ⟨2700, true⟩, ⟨6100, true⟩]
      ++ List.replicate 10 ⟨2700, true⟩
    hcm.n := 12, hcm.call := .advised, hcm.bundles := 420 }

/-- Section 8.6.1: the fence, the REQUIRED call, the worn head, and what the cleaning leaves. -/
theorem test_example_fence :
    let s := wearEvent 5 256 (wearEvent 5 16 fencedHead)
    let t := applyCleaning s
    (s.hcm.fence, s.hcm.h, s.hcm.call, s.hcm.worn) = (true, 3006, .required, true)
      ∧ (t.hcm.n, t.hcm.h, t.hcm.fence, t.hcm.call, t.hcm.worn) = (12, 751, false, .none, true) := by decide +kernel

/-- A read raised at the port, for a test. -/
def asks (r : Requester) (addr : Nat) : Transfer := ⟨r, .rowFetch, false, addr, 512, []⟩

/-- Section 2.8.2 before its first grant. -/
def exampleGrants : State :=
  { State.reset with
    mot.state := .streamingWrite, fmt.outBuffer := List.replicate 4 ⟨0, 0, 0, 1, []⟩
    marb.lastGroup := .general, marb.lastTape := .rowIn, marb.lastGeneral := .exu
    marb.transfers := [asks .rowOut 0, asks .cmpIn 0, asks .proc 0] }

/-- The port free again, with these requests raised. -/
def freed (s : State) (rs : List Requester) : State :=
  { s with marb.burst := none, marb.transfers := rs.map (fun r => asks r 0) }

/-- Section 2.8.2: ROW_OUT, PROC, ROW_OUT, CMP_IN; and ROW_OUT at once when the out-buffer falls to 2. -/
theorem test_example_grants :
    let g1 := grant exampleGrants
    let g2 := grant (freed g1 [.rowOut, .cmpIn, .proc])
    let g3 := grant (freed g2 [.rowOut, .cmpIn])
    let g4 := grant (freed g3 [.rowOut, .cmpIn])
    let g5 := grant { freed g4 [.rowOut, .cmpIn] with fmt.outBuffer := List.replicate 2 ⟨0, 0, 0, 1, []⟩ }
    [g1, g2, g3, g4, g5].map (fun g => g.marb.burst.map (fun b => b.who)) =
      [some .rowOut, some .proc, some .rowOut, some .cmpIn, some .rowOut] := by decide

/-- A slot posted with a ticket: state, kind 11 (REPORT) and ticket. -/
def postedSlot (slot ticket : Nat) (m : Memory) : Memory :=
  memWriteN m (slotAddress 8192 slot) ([1, 11, 0, 0] ++ toBytes 2 ticket)

/-- Section 9.7.1 after binding: slots 0 to 3 posted with tickets 100 to 103, slot 6 with 101, the trigger 2, quiet time 10. -/
def board : State :=
  { State.reset with
    mem := postedSlot 0 100 (postedSlot 1 101 (postedSlot 2 102 (postedSlot 3 103 (postedSlot 6 101 []))))
    exu.bind := .bound, exu.base := some 8192, exu.postMark := 99, exu.takenMark := 99, exu.trigger := 2, exu.quietTime := 10 }

/-- The state after a command. -/
def run (c : Instr) (s : State) : State := match exec c s with | .next t => t | .fault _ => s | .refused _ => s

/-- The states of slots 0, 1, 2, 3 and 6. -/
def slotStates (s : State) : List Nat := [0, 1, 2, 3, 6].map (slotState s)

/-- Section 9.7.1: POST 103, then ABORT 102. -/
theorem test_example_board :
    let s := run (.post 103) board
    let t := run (.abort 102) s
    (slotStates s, s.exu.takenMark, slotStates t, t.exu.passedOver, t.exu.count) =
      ([2, 1, 1, 1, 1], 100, [2, 1, 3, 1, 1], [102], 1) := by decide +kernel

/-- Section 9.7.1: the completions of 100 and of 101. -/
theorem test_example_board_completions :
    let s := run (.abort 102) (run (.post 103) board)
    let t := complete .ok .none s
    let u := complete .ok .none t
    (slotStates t, t.exu.takenMark, t.exu.count, t.exu.cond.getLsbD 0) = ([3, 2, 3, 1, 3], 101, 1, true)
      ∧ (slotStates u, u.exu.takenMark, u.exu.passedOver, u.exu.count) = ([3, 3, 3, 2, 3], 103, [], 0) := by
  decide +kernel

/-- The port held by a burst of the processor port. -/
def busy (s : State) : State :=
  { s with marb.transfers := [⟨.proc, .windowRead, false, 0, 4, []⟩], marb.burst := some ⟨.proc, 4⟩ }

/-- R38, R173: a condition raised while another burst holds the port has its cell and its bit once that burst has ended. -/
theorem test_cell_waits :
    let s := run (.cartridgeSeated false) (busy { State.reset with exu.bind := .bound, exu.base := some 8192 })
    let t := run .burstDone s
    (s.exu.cond, memReadN s.mem 8736 8, t.exu.cond, memReadN t.mem 8736 8, t.marb.lastGeneral) =
      (0, List.replicate 8 0, 4, [0, 0, 0, 0, 1, 0, 0, 0], .exu) := by decide +kernel

/-- R38, R167: a look asked for while another burst holds the port is made once that burst has ended. -/
theorem test_look_waits :
    let s := run (.post 103) (busy board)
    let t := run .burstDone s
    (slotStates s, s.exu.takenMark, slotStates t, t.exu.takenMark) = ([1, 1, 1, 1, 1], 99, [2, 1, 1, 1, 1], 100) := by
  decide +kernel

/-! ### Witnesses: states -/

/-- What makes a state calm, as a test. -/
def restful (s : State) : Bool :=
  s.sig = [] && (s.fmt.phase = .stopped || s.fmt.phase = .held) && (s.bsm.mode ≠ .write || s.fmt.reading.isSome)
    && s.rdc.phase = .none && s.rdc.inBuffer = [] && (s.dcp.phase ≠ .idle || (!delivering s && !readingBack s))
    && (s.cml.access.isSome || (!atStage s .load .loadMemory && !atStage s .unload .unloadMemory))

theorem calm_of {s : State} (h : restful s = true) : Calm s := by
  simp only [restful, Bool.and_eq_true, decide_eq_true_eq, Bool.or_eq_true, Bool.not_eq_true'] at h
  obtain ⟨⟨⟨⟨⟨⟨h1, h2⟩, h3⟩, h4⟩, h5⟩, h6⟩, h7⟩ := h
  exact ⟨h1, ⟨h2.elim .inl (fun h => .inr (.inl h)), h3.elim .inl (fun h => .inr (.inr (.inr (.inl h))))⟩, ⟨.inl h4, .inl h5⟩,
    h6.elim .inl (fun h => .inr (.inl h)), h7⟩

/-- What makes a state idle, as a test. -/
def still (s : State) : Bool :=
  s.sig = [] && s.fmt.phase = .stopped && (s.bsm.mode ≠ .write || s.fmt.reading.isSome) && s.rdc.phase = .none
    && s.rdc.inBuffer = [] && s.dcp.phase = .idle && s.ord.append = none && s.ord.record = none && s.ord.find = none
    && s.marb.transfers = [] && s.marb.burst = none && s.exu.work = []

theorem idle_of {s : State} (h : still s = true) : Idle s := by
  simp only [still, Bool.and_eq_true, decide_eq_true_eq, Bool.or_eq_true] at h
  obtain ⟨⟨⟨⟨⟨⟨⟨⟨⟨⟨⟨h1, h2⟩, h3⟩, h4⟩, h5⟩, h6⟩, h7⟩, h8⟩, h9⟩, ha⟩, hb⟩, hc⟩ := h
  exact ⟨h1, h2, h3.elim .inl (fun h => .inr (.inr (.inr (.inl h)))), h4, h5, h6, h7, h8, h9, ⟨ha, hb, hc⟩⟩

/-- EXU bound at 8,192, a store of 8 FREE frames from 1 MiB on. -/
def bound : State :=
  { State.reset with
    exu.bind := .bound, exu.base := some 8192, exu.trigger := 4, exu.quietTime := 10
    bsm.frames := List.replicate 8 freeFrame, bsm.base := 1048576 }

/-- A data cartridge in service: two bundles with ten objects on wrap 0, the heads at BOT. -/
def loaded : State :=
  { bound with
    cml.state := .loaded, cml.readable := true, cml.map := some ⟨10, 2, 0, 500⟩
    cml.copy := some ⟨some 7, some .data, ⟨8, 1000, 100⟩, 3, false, ⟨2, 10, 0, 500⟩, [⟨0, some ⟨0, 2, 0, 10, some 0, 500⟩⟩],
      0, 0, 0⟩
    mot.state := .threadedIdle, mot.leader := .onReel, mot.pos := some ⟨0, 0, .forward⟩, mot.tension := .tensioned }

/-- An order with a kind code, flags, count and body. -/
def orderOf (kind : Nat) (flags : BitVec 16) (count : Nat) (body : List Byte) : OrderRec := ⟨kind, flags, 1, count, body⟩

/-- The order TAKEN and not yet checked, from slot 0 with ticket 1. -/
def taking (r : OrderRec) (s : State) : State :=
  { s with ord.record := some r, ord.stage := .checking, exu.active := some (0, 1), exu.takenMark := 1, exu.postMark := 1 }

/-- 10 bytes at 16 MiB, as a descriptor. -/
def tenBytes : List Byte := toBytes 4 16777216 ++ toBytes 4 10

/-- A MARK of two marks, a WRITE, a READ, and orders without a body. -/
def markOrder : OrderRec := orderOf 2 0 2 []
def writeOrder : OrderRec := orderOf 1 0 1 tenBytes
def readOrder : OrderRec := orderOf 4 0 1 tenBytes
def plainOrder (kind : Nat) : OrderRec := orderOf kind 0 0 []

/-- A SPACE over records of a count, and a LOCATE of an object or of the end of data. -/
def spaceOf (n : Nat) : OrderRec := orderOf 5 0 0 (toBytes 4 n ++ [0])
def locateOf (object : Nat) (mode : Byte) : OrderRec := orderOf 6 0 0 (toBytes 4 object ++ [mode])

/-- Frame 0 OPEN for bundle 2, empty, with the position at the EOD object. -/
def writing : State :=
  { loaded with
    bsm.mode := .write, bsm.sealedThrough := 2, bsm.writtenThrough := 2, bsm.verifiedThrough := 2
    bsm.frames := ⟨.opened, some 2, some 0, none, []⟩ :: List.replicate 7 freeFrame
    ord.position := 10, fmt.reading := some ⟨2, 0, 0, 1, []⟩ }

theorem loaded_idle : Idle loaded := idle_of (by decide)

theorem store_of {s : State} (h : s.bsm.mode = .idle ∧ (∀ f ∈ s.bsm.frames, f.state = .free) ∧ s.cmp.sealing = none
    ∧ s.rdc.phase = .none ∧ s.rdc.resumeAt = none ∧ s.dcp.next = none) : StoreAtRest s :=
  ⟨h.1, h.2.1, h.2.2.1, h.2.2.2.1, h.2.2.2.2.1, h.2.2.2.2.2⟩

theorem sound_of {s : State} (h : Memory.wf s.mem = true ∧ HeadCareSound s.hcm
    ∧ SpeedSound s.spm.table s.mot.speed s.spm.next s.spm.vote ∧ LockSound s.mot.lock s.mot.lockCount
    ∧ BuffersSound s.fmt.outBuffer s.fmt.reading s.rdc.inBuffer s.rdc.blankRun
    ∧ GrantsSound s.marb.lastTape s.marb.lastGeneral ∧ s.bsm.frames.countP (fun f => f.state = .opened) ≤ 1
    ∧ (s.bsm.mode = .idle → ∀ f ∈ s.bsm.frames, f.state = .free)
    ∧ (s.bsm.mode = .write → ∀ f ∈ s.bsm.frames, f.state.readMode = false)
    ∧ (s.bsm.mode = .read → ∀ f ∈ s.bsm.frames, f.state.writeMode = false)) : Sound s :=
  have ⟨h1, h2, h3, h4, h5, h6, h7⟩ := h
  ⟨h1, h2, h3, h4, h5, h6, ⟨h7.1, h7.2.1, h7.2.2.1, h7.2.2.2⟩⟩

/-! ### Witnesses: the port, binding, orders on the board -/

theorem wit_IdleStepCountsMillisecond : State.reset.pending = [] := rfl

theorem wit_StepKeepsSound : Sound loaded ∧ ∃ t, step loaded = .next t := ⟨sound_of (by decide), _, rfl⟩

theorem wit_CommandsKeepQueueAndTimebase :
    (∃ t, exec (.cond 0) loaded = .next t) ∧ (∀ x, Instr.cond 0 ≠ .powerOnReset x) ∧ ∀ x, Instr.cond 0 ≠ .hardReset x :=
  ⟨⟨_, rfl⟩, nofun, nofun⟩

/-- Streaming, POSITIONED, and THREADING in capture and past it; without write work, with an entry in the open bundle, and in a
rebuild. -/
theorem wit_SoftResetState :
    loaded.sig = [] ∧ ({ loaded with mot.state := .streamingWrite } : State).sig = []
      ∧ ({ loaded with mot.state := .positioned } : State).sig = []
      ∧ ({ loaded with mot.state := .threading, mot.threadPhase := .capture } : State).sig = []
      ∧ ({ loaded with mot.state := .threading, mot.threadPhase := .path } : State).sig = []
      ∧ loaded.bsm.frames.filter (holdsWork loaded) = [] ∧ loaded.cml.state ≠ .rebuilding
      ∧ (let s : State := { writing with cmp.index := [begins .data 9] }
        s.sig = [] ∧ ∃ f, lowestFrame (s.bsm.frames.filter (holdsWork s)) = some f ∧ firstObjectOf s f = some 9)
      ∧ ({ loaded with cml.state := .rebuilding } : State).sig = []
      ∧ (let s : State := { loaded with exu.work := [.cell .cartridge ⟨0, 1, 0, 5⟩ 1] }
        s.sig = [] ∧ s.exu.work.any (fun w => match w with | .cell .cartridge _ _ => true | _ => false) = true) :=
  ⟨rfl, rfl, rfl, rfl, rfl, by decide, by decide, ⟨rfl, _, rfl, rfl⟩, rfl, rfl, rfl⟩

/-- The four kinds of disregarded write at the edges of their ranges, and two writes that are other commands. -/
theorem wit_IgnoredWriteChangesNothing :
    ignoredWrite 1073741824 .four 0 = true ∧ ignoredWrite 1073741829 .four 0 = true ∧ ignoredWrite 1073741845 .four 0 = true
      ∧ ignoredWrite 1073741844 .four 3 = true ∧ ignoredWrite 1073741844 .one 1 = true
      ∧ ignoredWrite 1073741823 .four 0 = false ∧ ignoredWrite 1073741844 .four 2 = false := by decide

/-- The last base that fits, and the first that does not. -/
theorem wit_BindingRequest :
    loaded.exu.bind ≠ .unbound ∧ State.reset.exu.bind = .unbound ∧ State.reset.exu.binding = none
      ∧ (1073733632 : Word).toNat % 4096 = 0 ∧ (1073733632 : Word).toNat + 8192 ≤ 1073741824
      ∧ ¬((1073737728 : Word).toNat % 4096 = 0 ∧ (1073737728 : Word).toNat + 8192 ≤ 1073741824)
      ∧ portAtRest State.reset := ⟨by decide, rfl, rfl, by decide, by decide, by decide, rfl, rfl, rfl⟩

/-- The words of a setup record from offset 8 on, each 4 bytes: ticket, base, frames, the 19 tunables. -/
def setupAt (base frames first : Nat) : List Byte :=
  toBytes 8 0 ++ (([100, base, frames, 1, 2000, 3, 4, 4, 120, 1536, 3072, 6144, 180000, 2, 1, 10, first, 51200, 61440, 76800,
    92160, 112640].map (toBytes 4)).flatten)
def setupOf (frames : Nat) : List Byte := setupAt 1048576 frames 40960

/-- A setup record with a head history block: scores from 3,000 on, channel states, clean call, worn flag and fence flag. -/
def setupWithHead (states : List Nat) (call worn fence : Nat) : List Byte :=
  setupOf 8 ++ toBytes 32 1 ++ ((List.range 16).map (fun c => toBytes 2 (3000 + c))).flatten
    ++ (states ++ [call, worn, fence, 0]).map (BitVec.ofNat 8) ++ toBytes 4 17 ++ toBytes 4 600

/-- The store lies on a multiple of 4,096, within memory and above the exchange area. -/
abbrev storeFits (a : Nat) (b : List Byte) : Prop :=
  field b 12 4 % 4096 = 0 ∧ field b 12 4 + field b 16 4 * 1114112 ≤ 1073741824 ∧ a + 8192 ≤ field b 12 4

theorem base_passes {a : Nat} {b : List Byte} (h : storeFits a b) : ¬CheckFails a b 3 := by
  obtain ⟨h1, h2, h3⟩ := h
  rintro (⟨-, h | h | ⟨x, hx, -, -, ha⟩⟩ | ⟨h, -⟩ | ⟨h, -⟩ | ⟨-, ⟨h, -⟩ | ⟨h, -⟩ | ⟨h, -⟩ | ⟨h, -⟩⟩) <;> omega

theorem all_pass {a : Nat} {b : List Byte} (h : storeFits a b) (hf : 8 ≤ field b 16 4 ∧ field b 16 4 ≤ 128)
    (hs : ∀ i, i < 5 → setupSpeed b i < setupSpeed b (i + 1))
    (hb : field b 96 4 ≠ 0 → (∀ c, c < 16 → setupChannel b c ≤ 1) ∧ setupRetired b ≤ 4 ∧ field b 176 1 ≤ 2
      ∧ field b 177 1 ≤ 1 ∧ field b 178 1 ≤ 1 ∧ (field b 178 1 = 1 → 4 ≤ setupRetired b)) : ∀ n, ¬CheckFails a b n := by
  rintro n (⟨rfl, hx⟩ | ⟨-, hx⟩ | ⟨h1, h2, hx⟩ | ⟨h0, hx⟩)
  · exact base_passes h (.inl ⟨rfl, hx⟩)
  · omega
  · have := hs (n - 19) (by omega)
    rw [show n - 19 + 1 = n - 18 by omega] at this
    omega
  · obtain ⟨h1, h2, h3, h4, h5, h6⟩ := hb h0
    rcases hx with ⟨-, ⟨c, hc, hx⟩ | hx⟩ | ⟨-, hx⟩ | ⟨-, hx⟩ | ⟨-, hx | ⟨hx, hy⟩⟩
    · have := h1 c hc
      omega
    all_goals omega

/-- A binding in progress at 8,192 whose setup record has been read. -/
def bindingWith (frames : Nat) : State := { State.reset with exu.binding := some ⟨8192, some (setupOf frames)⟩ }

/-- A frame count at fault and no field before it, at a port at rest and in use; for each check a record that fails it, the ends
of the ranges among them. -/
theorem wit_SetupRecordRefused :
    (Memory.wf (bindingWith 7).mem = true ∧ (bindingWith 7).exu.binding = some ⟨8192, some (setupOf 7)⟩
      ∧ SetupAtFault 8192 (setupOf 7) 4 ∧ portAtRest (bindingWith 7) ∧ (busy (bindingWith 7)).marb.burst.isSome = true)
    ∧ CheckFails 8192 (setupAt 12288 8 40960) 3 ∧ ¬CheckFails 8192 (setupAt 16384 8 40960) 3
    ∧ CheckFails 8192 (setupOf 129) 4 ∧ CheckFails 8192 (setupAt 1048576 8 51200) 19
    ∧ CheckFails 8192 (setupWithHead (2 :: List.replicate 15 0) 0 0 0) 26
    ∧ CheckFails 8192 (setupWithHead (List.replicate 5 1 ++ List.replicate 11 0) 0 0 0) 26
    ∧ CheckFails 8192 (setupWithHead (List.replicate 16 0) 3 0 0) 27
    ∧ CheckFails 8192 (setupWithHead (List.replicate 16 0) 0 2 0) 28
    ∧ CheckFails 8192 (setupWithHead (List.replicate 16 0) 0 0 1) 29 := by
  have h7 : field (setupOf 7) 96 4 = 0 := by decide +kernel
  refine ⟨⟨by decide, rfl, ⟨.inr (.inl ⟨rfl, .inl (by decide +kernel)⟩), ?_⟩, ⟨rfl, rfl, rfl⟩, rfl⟩, ?_⟩
  · rintro m hm h
    rcases Nat.lt_or_ge m 3 with h3 | h3
    · rcases h with ⟨h, -⟩ | ⟨h, -⟩ | ⟨h, -⟩ | ⟨h, -⟩ <;> omega
    · obtain rfl : m = 3 := by omega
      exact base_passes (by decide +kernel) h
  · exact ⟨.inl ⟨rfl, .inr (.inr ⟨12288, by decide +kernel, by decide +kernel, by decide, by decide⟩)⟩,
      base_passes (by decide +kernel), .inr (.inl ⟨rfl, .inr (by decide +kernel)⟩),
      .inr (.inr (.inl ⟨by decide, by decide, by decide +kernel⟩)),
      .inr (.inr (.inr ⟨by decide +kernel, .inl ⟨rfl, .inl ⟨0, by decide, by decide +kernel⟩⟩⟩)),
      .inr (.inr (.inr ⟨by decide +kernel, .inl ⟨rfl, .inr (by decide +kernel)⟩⟩)),
      .inr (.inr (.inr ⟨by decide +kernel, .inr (.inl ⟨rfl, by decide +kernel⟩)⟩)),
      .inr (.inr (.inr ⟨by decide +kernel, .inr (.inr (.inl ⟨rfl, by decide +kernel⟩))⟩)),
      .inr (.inr (.inr ⟨by decide +kernel, .inr (.inr (.inr ⟨rfl, .inr ⟨by decide +kernel, by decide +kernel⟩⟩))⟩))⟩

/-- A setup record that passes its checks, without a head history block and with details held, and with one whose head is fenced
with four channels RETIRED. -/
theorem wit_SetupRecordBinds :
    (let s := { bindingWith 8 with exu.heldCartridge := some ⟨0, 1, 0, 5⟩, exu.heldTapeReady := some ⟨8, 0, 0, 6⟩,
                                   exu.heldDiscarded := some ⟨1, 2, 0, 7⟩, exu.cond := 1036 }
     Quiet s ∧ Memory.wf s.mem = true ∧ s.exu.bind = .unbound ∧ s.exu.binding = some ⟨8192, some (setupOf 8)⟩
      ∧ ∀ n, ¬CheckFails 8192 (setupOf 8) n)
    ∧ (let b := setupWithHead (List.replicate 4 1 ++ List.replicate 12 0) 2 1 1
       field b 96 4 = 1 ∧ field b 178 1 = 1 ∧ ∀ n, ¬CheckFails 8192 b n) :=
  ⟨⟨⟨calm_of (by decide +kernel), ⟨rfl, rfl, rfl⟩, rfl, rfl⟩, by decide, rfl, rfl,
      all_pass (by decide +kernel) (by decide +kernel) (by decide +kernel)
        (fun h => absurd (by decide +kernel : field (setupOf 8) 96 4 = 0) h)⟩,
    ⟨by decide +kernel, by decide +kernel, all_pass (by decide +kernel) (by decide +kernel) (by decide +kernel)
      (fun _ => by decide +kernel)⟩⟩

/-- 16 ahead of the taken mark is in range, 17 is not. -/
theorem wit_PostOutOfRangeRefused :
    bound.exu.bind ≠ .unbound ∧ ((17 : Word).setWidth 16 - bound.exu.takenMark : BitVec 16).toNat = 17
      ∧ State.reset.exu.bind = .unbound := by decide

/-- The board with ticket 100 taken: 101 is posted in slots 1 and 6. -/
def boardAfter : State := { board with exu.trigger := 3, exu.takenMark := 100, exu.postMark := 100 }

/-- A port in use with a look in hand and without, and at rest; an order TAKEN, the taken mark posted, ticket 100 in slot 0
alone with the last POST in range, 101 in two slots, an order of an unknown kind, and the next ticket passed over. -/
theorem wit_PostTakesNextOrder :
    (Memory.wf board.mem = true ∧ board.exu.bind ≠ .unbound ∧ board.exu.active = none
      ∧ (((115 : Word).setWidth 16 : BitVec 16) - board.exu.takenMark).toNat = 16
      ∧ (115 : Word).setWidth 16 ≠ board.exu.takenMark
      ∧ board.exu.passedOver.contains (board.exu.takenMark + 1) = false
      ∧ postedSlots board (board.exu.takenMark + 1) = [0] ∧ (kindOfCode (slotOrder board 0).kind).isSome = true
      ∧ board.exu.quietTime ≠ 0 ∧ board.exu.count + 0 < board.exu.trigger ∧ board.exu.trigger ≤ 16
      ∧ (taking markOrder bound).exu.active.isSome = true ∧ (99 : Word).setWidth 16 = board.exu.takenMark)
    ∧ (Memory.wf boardAfter.mem = true ∧ postedSlots boardAfter (boardAfter.exu.takenMark + 1) = [1, 6]
      ∧ boardAfter.exu.count + 1 < boardAfter.exu.trigger
      ∧ (let s := { boardAfter with exu.passedOver := [101] }
         s.exu.passedOver.contains (s.exu.takenMark + 1) = true
          ∧ s.exu.count + (postedSlots s (s.exu.takenMark + 1)).length < s.exu.trigger))
    ∧ (let s := { board with mem := memWriteN board.mem (slotAddress 8192 0 + 1) [77] }
       Memory.wf s.mem = true ∧ postedSlots s (s.exu.takenMark + 1) = [0] ∧ (kindOfCode (slotOrder s 0).kind).isSome = false
        ∧ (100 : Word).setWidth 16 = s.exu.takenMark + 1)
    ∧ (board.marb.transfers = [] ∧ board.marb.burst = none ∧ board.exu.work = [] ∧ (busy board).marb.burst.isSome = true
      ∧ (busy board).exu.work.any ExuWork.looks = false
      ∧ ({ busy board with exu.work := [.scan .look 100 0 []] } : State).exu.work.any ExuWork.looks = true) := by
  decide +kernel

theorem wit_PostOfMissingTicketStalls :
    bound.marb.transfers = [] ∧ bound.marb.burst = none ∧ bound.exu.work = [] ∧ bound.exu.bind ≠ .unbound ∧ bound.exu.active = none
      ∧ ((1 : Word).setWidth 16 - bound.exu.takenMark : BitVec 16).toNat ≤ 16
      ∧ (1 : Word).setWidth 16 ≠ bound.exu.takenMark ∧ bound.exu.passedOver.contains (bound.exu.takenMark + 1) = false
      ∧ postedSlots bound (bound.exu.takenMark + 1) = [] := by decide +kernel

/-- The timer stopped, at the last moment before its time, and at it, with no completion counted and with one. -/
theorem wit_QuietTimerExpiry :
    let s := { bound with exu.quietTimer := some 0 }
    bound.exu.quietTimer = none ∧ bound.timebase = 0 ∧ 2147483648 ≤ ((0 : Time) - 1).toNat
      ∧ ((0 : Time) - 0).toNat < 2147483648 ∧ s.exu.count = 0 ∧ 0 < ({ s with exu.count := 1 } : State).exu.count := by decide

/-- An order TAKEN with another ticket. -/
theorem other_ticket {a : Nat × BitVec 16} {t : BitVec 16} (h : a.2 ≠ t) (x : Nat) : some a ≠ some (x, t) := by
  rintro ⟨⟩
  exact h rfl

/-- A ticket on no slot, with no order TAKEN, with another TAKEN, and that of a TAKEN FLUSH. -/
theorem wit_AbortOfNothing :
    (Calm bound ∧ portAtRest bound ∧ bound.exu.bind ≠ .unbound ∧ bound.exu.active = none
      ∧ postedSlots bound ((9 : Word).setWidth 16) = [])
    ∧ (let s := taking (plainOrder 3) bound
       Calm s ∧ portAtRest s ∧ takenKind s = some .flush ∧ s.exu.active = some (0, 1) ∧ s.exu.takenMark = 1
        ∧ (∀ slot, s.exu.active ≠ some (slot, (9 : Word).setWidth 16))
        ∧ postedSlots s ((9 : Word).setWidth 16) = [])
    ∧ State.reset.exu.bind = .unbound :=
  ⟨⟨calm_of (by decide), ⟨rfl, rfl, rfl⟩, by decide, rfl, by decide +kernel⟩,
    ⟨calm_of (by decide), ⟨rfl, rfl, rfl⟩, rfl, rfl, rfl, other_ticket (a := (0, 1)) (by decide), by decide +kernel⟩, rfl⟩

/-- The board of section 9.7.1 with a trigger of 3: ticket 103 is posted in slot 3 alone. -/
def board3 : State := { board with exu.trigger := 3 }

/-- With no order TAKEN, and with ticket 100 TAKEN. -/
theorem wit_AbortOfPostedOrder :
    let s := { board3 with exu.active := some (0, 100), exu.takenMark := 100 }
    (Calm board3 ∧ portAtRest board3 ∧ Memory.wf board3.mem = true ∧ board3.exu.bind ≠ .unbound
      ∧ (∀ x, board3.exu.active ≠ some (x, (103 : Word).setWidth 16))
      ∧ ((103 : Word).setWidth 16 - board3.exu.takenMark : BitVec 16).toNat = 4
      ∧ board3.exu.passedOver.contains ((103 : Word).setWidth 16) = false
      ∧ postedSlots board3 ((103 : Word).setWidth 16) = [3] ∧ board3.exu.quietTime ≠ 0
      ∧ board3.exu.count + 1 < board3.exu.trigger ∧ board3.exu.trigger ≤ 16)
    ∧ (Calm s ∧ (∀ x, s.exu.active ≠ some (x, (103 : Word).setWidth 16))
      ∧ ((103 : Word).setWidth 16 - s.exu.takenMark : BitVec 16).toNat = 3
      ∧ postedSlots s ((103 : Word).setWidth 16) = [3]) :=
  ⟨⟨calm_of (by decide), ⟨rfl, rfl, rfl⟩, by decide +kernel, by decide, nofun, by decide, by decide, by decide +kernel, by decide,
    by decide, by decide⟩, ⟨calm_of (by decide), other_ticket (a := (0, 100)) (by decide), by decide, by decide +kernel⟩⟩

/-- A WRITE whose first chunk has been read, its candidate not committed. -/
def inIntake : State :=
  { taking writeOrder writing with ord.stage := .intake, cmp.cursor := some ⟨0, 0, 10⟩
                                   cmp.candidate := some ⟨.plain, [1, 2, 3], [1, 2, 3], []⟩ }

/-- Each register's address, the first that names none, and the last byte of a register. -/
theorem wit_RegisterReads :
    [1073741824, 1073741828, 1073741832, 1073741836, 1073741840, 1073741844, 1073741843].all
      (fun a => decide (1073741824 ≤ (BitVec.ofNat 32 a).toNat) && decide ((BitVec.ofNat 32 a).toNat = a)) = true := by decide

/-- The last four bytes of memory, and an access that runs past them. -/
theorem wit_WindowAccessIsRaised :
    portAtRest loaded ∧ (1073741820 : Word).toNat + AccessLen.bytes .four ≤ 1073741824
      ∧ (1073741821 : Word).toNat < 1073741824 ∧ 1073741824 < (1073741821 : Word).toNat + AccessLen.bytes .four :=
  ⟨⟨rfl, rfl, rfl⟩, by decide, by decide, by decide⟩

/-- A window access of two bytes at the end of a 512-byte block, its burst granted. -/
def inBurst (t : Transfer) : State :=
  { State.reset with marb.transfers := [t], marb.burst := some ⟨.proc, 2⟩ }

/-- Row 5 of bundle 2 read for its first attempt, with its last burst in hand and a full out-buffer after it. -/
def fetching : State :=
  { writing with
    bsm.frames := ⟨.writing, some 2, some 0, none, []⟩ :: List.replicate 7 freeFrame
    fmt.reading := some ⟨2, 0, 5, 1, []⟩, fmt.outBuffer := List.replicate 7 ⟨2, 0, 4, 1, []⟩
    marb.transfers := [⟨.rowOut, .rowFetch, false, 4096, 512, []⟩], marb.burst := some ⟨.rowOut, 512⟩ }

/-- No access of EXU waits; a window write and a read across no block boundary, outside rows 0 and 1, and the last burst of a
row. -/
theorem wit_WindowBurstMovesBytes :
    (inBurst ⟨.proc, .windowWrite, true, 510, 2, [1, 2]⟩).exu.work = [] ∧ fetching.exu.work = []
      ∧ Calm (inBurst ⟨.proc, .windowWrite, true, 510, 2, [1, 2]⟩) ∧ Calm (inBurst ⟨.proc, .windowRead, false, 510, 2, []⟩)
      ∧ Memory.wf State.reset.mem = true ∧ 510 % 512 + 2 ≤ 512 ∧ State.reset.marb.burst = none
      ∧ (∀ x, 1081344 ≤ x → x < 1081344 + 2 → bound.bsm.base ≤ x → 32768 ≤ (x - bound.bsm.base) % 1114112)
      ∧ (fetching.fmt.reading = some ⟨2, 0, 5, 1, []⟩ ∧ frameOf fetching 2 = some 0
        ∧ ∀ m, Calm { fetching with
            mem := m, marb.burst := none, marb.transfers := [], fmt.reading := none,
            fmt.outBuffer := fetching.fmt.outBuffer ++ [⟨2, 0, 5, 1, memReadN fetching.mem 4096 512⟩] }) := by
  refine ⟨rfl, rfl, calm_of (by decide), calm_of (by decide), by decide, by decide, rfl, ?_, rfl, by decide, fun m => ?_⟩
  · intro x h1 h2 _
    have h : bound.bsm.base = 1048576 := rfl
    omega
  · exact ⟨rfl, ⟨.inl rfl, .inr (.inr (.inl (Nat.le_refl 8)))⟩, ⟨.inl rfl, .inl rfl⟩, .inr (.inl ⟨rfl, rfl⟩), .inr ⟨rfl, rfl⟩⟩

/-- ROW_OUT urgent alone, ROW_IN urgent alone, both urgent; none urgent with both groups asking and with one alone; a detail cell
that waits, alone and beside a tape request after a grant to the tape group. -/
theorem wit_GrantAlternates :
    let a := { exampleGrants with fmt.outBuffer := [] }
    let b := { a with rdc.inBuffer := List.replicate 6 ⟨0, 0, 0, rowOf 0 0 []⟩,
                      marb.transfers := [asks .rowOut 0, asks .rowIn 0] }
    let c := { b with fmt.outBuffer := List.replicate 3 ⟨0, 0, 0, 1, []⟩ }
    let d := { exampleGrants with marb.transfers := [asks .proc 0, asks .cmpIn 0] }
    let e := { loaded with exu.work := [.cell .cartridge ⟨0, 1, 0, 5⟩ 1] }
    let f := { exampleGrants with marb.lastGroup := .tape, marb.lastGeneral := .dcpOut, marb.transfers := [asks .rowOut 0]
                                  exu.work := [.cell .cartridge ⟨0, 1, 0, 5⟩ 1] }
    GrantsSound .rowIn .exu
      ∧ (urgent a .rowOut = true ∧ requestRaised a .rowOut = true ∧ urgent a .rowIn = false
        ∧ a.marb.transfers.find? (fun x => x.who = .rowOut) = some (asks .rowOut 0))
      ∧ (urgent c .rowIn = true ∧ requestRaised c .rowIn = true ∧ urgent c .rowOut = false
        ∧ c.marb.transfers.find? (fun x => x.who = .rowIn) = some (asks .rowIn 0))
      ∧ (urgent b .rowOut = true ∧ requestRaised b .rowOut = true ∧ urgent b .rowIn = true ∧ requestRaised b .rowIn = true)
      ∧ (urgent exampleGrants .rowOut = false ∧ urgent exampleGrants .rowIn = false
        ∧ exampleGrants.marb.lastGroup ≠ Requester.group .rowOut ∧ turnsAfter .rowIn .rowOut = 0)
      ∧ ((∀ q ∈ tapeRequesters, requestRaised d q = false)
        ∧ turnsAfter .exu .proc = 0 ∧ turnsAfter .exu .cmpIn = 1 ∧ turnsAfter .exu .exu = 5)
      ∧ (e.marb.burst = none ∧ e.marb.lastGeneral.group = .general ∧ (∀ q ∈ tapeRequesters, requestRaised e q = false)
        ∧ (urgent e .rowOut && requestRaised e .rowOut) = false ∧ (urgent e .rowIn && requestRaised e .rowIn) = false
        ∧ (∀ q ∈ generalRequesters, requestRaised e q = true → q = .exu))
      ∧ (f.marb.burst = none ∧ f.marb.lastGroup = .tape ∧ urgent f .rowOut = false ∧ urgent f .rowIn = false
        ∧ turnsAfter .dcpOut .exu = 0) := by decide

theorem wit_RaisedCondition :
    Memory.wf loaded.mem = true ∧ loaded.exu.raises.length = 15 ∧ loaded.exu.bind ≠ .unbound
      ∧ loaded.marb.transfers = [] ∧ loaded.marb.burst = none ∧ loaded.exu.work = []
      ∧ (busy loaded).exu.bind ≠ .unbound ∧ (busy loaded).marb.burst.isSome = true
      ∧ State.reset.exu.raises.length = 15 ∧ State.reset.exu.bind = .unbound := by decide

/-- An alert set without COMPLETIONS, and COMPLETIONS set in COND; a TUNE that names the alert set. -/
theorem wit_LinesFollowCond :
    let s := { loaded with exu.cond := 1 }
    s.exu.alertSet.getLsbD 0 = false ∧ s.exu.cond.getLsbD 0 = true
      ∧ namedAt (List.replicate 10 none ++ [some 4]) 10 = some 4 := by decide

/-- Below the trigger with a quiet time, at the trigger, with a quiet time of 0, and with the count saturated; the port at rest
and in use; EXU not BOUND, and BOUND with no order posted. -/
theorem wit_CompletionWrites :
    let s := taking markOrder loaded
    Memory.wf s.mem = true ∧ s.exu.active = some (0, 1) ∧ min (s.exu.count + 1) 65535 < s.exu.trigger ∧ s.exu.quietTime ≠ 0
      ∧ s.exu.trigger ≤ min (3 + 1) 65535 ∧ ({ s with exu.quietTime := 0 } : State).exu.quietTime = 0
      ∧ min (65535 + 1) 65535 = 65535
      ∧ s.marb.transfers = [] ∧ s.marb.burst = none ∧ s.exu.work = [] ∧ (busy s).marb.burst.isSome = true
      ∧ (busy s).exu.work.any ExuWork.completes = false
      ∧ State.reset.exu.bind ≠ .bound ∧ loaded.exu.postMark = loaded.exu.takenMark := by decide

/-- A WRITE in EMPTY: NO_TAPE; counts, lengths and extents at the edges of their ranges; the checks of a WRITE in turn. -/
theorem wit_OrderFailingItsChecks :
    (OrderTaken .write writeOrder (taking writeOrder bound) ∧ Calm (taking writeOrder bound)
      ∧ portAtRest (taking writeOrder bound) ∧ noneWaits (taking writeOrder bound)
      ∧ (taking writeOrder bound).exu.active.isSome = true ∧ meetsDeferred (taking writeOrder bound) .write = none
      ∧ takeFault (taking writeOrder bound) writeOrder .write = some (.noTape, 0))
    ∧ (takeFault loaded (orderOf 2 0 0 []) .mark = some (.badOrder, 6)
      ∧ takeFault loaded (orderOf 2 0 255 []) .mark = none ∧ takeFault loaded (orderOf 2 0 256 []) .mark = some (.badOrder, 6)
      ∧ takeFault loaded (orderOf 4 0 17 tenBytes) .read = some (.badOrder, 6)
      ∧ takeFault loaded (orderOf 4 0 2 tenBytes) .read = some (.badRecordLength, 28)
      ∧ takeFault loaded (spaceOf 2147483648) .space = some (.badOrder, 16)
      ∧ takeFault loaded (locateOf 0 2) .locate = some (.badOrder, 20))
    ∧ (BodyPasses .write writeOrder ∧ BodyPasses .report (orderOf 11 0 0 (toBytes 4 8192))
      ∧ takeFault bound (orderOf 11 0 0 (toBytes 4 8192)) .report = some (.memoryFault, 0)
      ∧ takeFault loaded writeOrder .write = none
      ∧ takeFault { loaded with mot.tab := true, hcm.fence := true } writeOrder .write = some (.writeProtected, 0)
      ∧ takeFault { loaded with hcm.fence := true } writeOrder .write = some (.headFenced, 0)
      ∧ takeFault { loaded with mot.state := .stranded } writeOrder .write = some (.notReady, 0)
      ∧ takeFault { loaded with fmt.phase := .held } (plainOrder 8) .load = some (.notReady, 0)) :=
  ⟨⟨⟨rfl, rfl, rfl⟩, calm_of (by decide), ⟨rfl, rfl, rfl⟩, rfl, rfl, rfl, by decide +kernel⟩, by decide +kernel,
    ⟨by decide, by decide, fun i h => by have h0 : i = 0 := by { change i < 1 at h; omega }; subst h0; decide⟩, trivial,
    by decide +kernel⟩

theorem wit_DeferredErrorMet :
    let s := { taking writeOrder loaded with ord.deferred := some (3, .rowFailure) }
    OrderTaken .write writeOrder s ∧ Calm s ∧ portAtRest s ∧ noneWaits s ∧ s.exu.active.isSome = true
      ∧ s.ord.deferred = some (3, .rowFailure) :=
  ⟨⟨rfl, rfl, rfl⟩, calm_of (by decide), ⟨rfl, rfl, rfl⟩, rfl, rfl, rfl⟩

/-! ### Witnesses: the orders -/

theorem passes_of {k : Kind} {r : OrderRec} {s : State} (h : kindOfCode r.kind = some k) (hd : s.ord.deferred = none)
    (hc : takeFault (taking r s) r k = none) : OrderPasses k r (taking r s) :=
  ⟨⟨rfl, h, rfl⟩, by simp [meetsDeferred, taking, hd], hc⟩

/-- A WRITE at the EOD object with the store at rest. -/
def atEod : State := { loaded with ord.position := 10 }

theorem wit_WriteBegins :
    (let s := taking writeOrder atEod
     OrderPasses .write writeOrder s ∧ Calm s ∧ portAtRest s ∧ s.bsm.mode ≠ .read ∧ s.ord.fenceSeen = false
      ∧ eodObject s ≤ s.ord.position)
    ∧ (let s := taking writeOrder loaded
       OrderPasses .write writeOrder s ∧ Calm s ∧ portAtRest s ∧ StoreAtRest s ∧ s.ord.position < eodObject s
      ∧ searchOnTape s s.ord.position ∧ s.mot.state = .threadedIdle) :=
  ⟨⟨passes_of rfl rfl (by decide +kernel), calm_of (by decide), ⟨rfl, rfl, rfl⟩, by decide, rfl, by decide⟩,
    ⟨passes_of rfl rfl (by decide +kernel), calm_of (by decide), ⟨rfl, rfl, rfl⟩, store_of (by decide), by decide,
      by unfold searchOnTape; decide, rfl⟩⟩

/-- A MARK with its flags and count. -/
def marksOf (flags : BitVec 16) (count : Nat) : OrderRec := orderOf 2 flags count []

/-- The open bundle holds `n` entries. -/
def holding (n : Nat) : State := { writing with cmp.index := List.replicate n (begins .data 9) }

/-- Every frame SEALED but the last `n`, which are FREE. -/
def framesLeft (n : Nat) : State :=
  { writing with bsm.frames := List.replicate (8 - n) ⟨.sealed, some 1, some 0, none, []⟩ ++ List.replicate n freeFrame }

theorem left_one : LowestFree 7 (framesLeft 1) :=
  ⟨⟨freeFrame, rfl, rfl⟩, by
    intro j f hj h
    have : ∀ j, j < 7 → ((framesLeft 1).bsm.frames[j]?).all (fun f => decide (f.state ≠ .free)) = true := by decide
    have := this j hj
    rw [h] at this
    simpa using this⟩

/-- Room left, with SYNC and without; the last entry of a bundle, marks left over and none; a store at rest at the EOD object;
the last frame FREE, and none. -/
theorem wit_MarkCommitsItsMarks :
    (let s := taking markOrder (holding 1021)
     OrderPasses .mark markOrder s ∧ Calm s ∧ portAtRest s ∧ noneWaits s ∧ s.exu.active = some (0, 1) ∧ s.bsm.mode = .write
      ∧ s.ord.fenceSeen = false ∧ openFrame s = some 0 ∧ s.cmp.sealing = none ∧ s.cmp.candidate = none
      ∧ s.cml.map.isSome = true ∧ markOrder.sync = false ∧ 1 ≤ markOrder.count ∧ s.cmp.index.length + markOrder.count < 1024
      ∧ s.ord.marks = 0 ∧ s.ord.firstObject = none)
    ∧ (OrderPasses .mark (marksOf 1 255) (taking (marksOf 1 255) writing) ∧ (marksOf 1 255).sync = true
      ∧ writing.bsm.verifiedThrough ≤ writing.bsm.sealedThrough)
    ∧ (OrderPasses .mark (marksOf 1 2) (taking (marksOf 1 2) (holding 1023)) ∧ Calm (taking (marksOf 1 2) (holding 1023))
      ∧ (holding 1023).cmp.index.length = 1023 ∧ 1024 - 1023 < (marksOf 1 2).count
      ∧ (holding 1022).cmp.index.length + markOrder.count = 1024)
    ∧ (OrderPasses .mark markOrder (taking markOrder atEod) ∧ Calm (taking markOrder atEod) ∧ openFrame atEod = none
      ∧ atEod.cmp.blocked = false ∧ eodObject atEod ≤ atEod.ord.position ∧ atEod.bsm.mode ≠ .read)
    ∧ (OrderPasses .mark markOrder (taking markOrder (framesLeft 1)) ∧ Calm (taking markOrder (framesLeft 1))
      ∧ openFrame (framesLeft 1) = none ∧ LowestFree 7 (framesLeft 1)
      ∧ (∃ f ∈ (framesLeft 1).bsm.frames, f.state.writeMode = true))
    ∧ (OrderPasses .mark markOrder (taking markOrder (framesLeft 0)) ∧ Calm (taking markOrder (framesLeft 0))
      ∧ openFrame (framesLeft 0) = none ∧ ∀ f ∈ (framesLeft 0).bsm.frames, f.state ≠ .free) :=
  ⟨⟨passes_of rfl rfl (by decide +kernel), calm_of (by decide), ⟨rfl, rfl, rfl⟩, rfl, rfl, rfl, rfl, by decide, rfl, rfl, rfl,
      by decide, by decide, by decide +kernel, rfl, rfl⟩,
    ⟨passes_of rfl rfl (by decide +kernel), by decide, by decide⟩,
    ⟨passes_of rfl rfl (by decide +kernel), calm_of (by decide), by decide +kernel, by decide, by decide +kernel⟩,
    ⟨passes_of rfl rfl (by decide +kernel), calm_of (by decide), by decide, rfl, by decide, by decide⟩,
    ⟨passes_of rfl rfl (by decide +kernel), calm_of (by decide), by decide, left_one, by decide⟩,
    ⟨passes_of rfl rfl (by decide +kernel), calm_of (by decide), by decide, by decide⟩⟩

theorem wit_ReadBegins :
    (let s := taking readOrder atEod
     OrderPasses .read readOrder s ∧ Calm s ∧ portAtRest s ∧ StoreAtRest s ∧ s.dcp.phase = .idle ∧ noneWaits s
      ∧ s.exu.active.isSome = true ∧ eodObject s ≤ s.ord.position ∧ s.dcp.waiting = false)
    ∧ (let s := taking readOrder loaded
       OrderPasses .read readOrder s ∧ Calm s ∧ portAtRest s ∧ StoreAtRest s ∧ s.dcp.phase = .idle
      ∧ s.ord.position < eodObject s ∧ searchOnTape s s.ord.position ∧ s.mot.state = .threadedIdle) :=
  ⟨⟨passes_of rfl rfl (by decide +kernel), calm_of (by decide), ⟨rfl, rfl, rfl⟩, store_of (by decide), rfl, rfl, rfl, by decide, rfl⟩,
    ⟨passes_of rfl rfl (by decide +kernel), calm_of (by decide), ⟨rfl, rfl, rfl⟩, store_of (by decide), rfl, by decide,
      by unfold searchOnTape; decide, rfl⟩⟩

/-- What every clause asks of the state. -/
abbrev Still (s : State) : Prop := Calm s ∧ portAtRest s ∧ StoreAtRest s ∧ s.mot.state = .threadedIdle

theorem loaded_frames : ∀ f ∈ loaded.bsm.frames, f.state = .free := by decide

theorem loaded_still (r : OrderRec) (h : restful (taking r loaded) = true) : Still (taking r loaded) :=
  ⟨calm_of h, ⟨rfl, rfl, rfl⟩, ⟨rfl, loaded_frames, rfl, rfl, rfl, rfl⟩, rfl⟩

theorem atEod_still (r : OrderRec) (h : restful (taking r atEod) = true) : Still (taking r atEod) :=
  ⟨calm_of h, ⟨rfl, rfl, rfl⟩, ⟨rfl, loaded_frames, rfl, rfl, rfl, rfl⟩, rfl⟩

theorem wit_SpaceAndLocateBegin :
    (let s := taking (spaceOf 0) loaded
     Still s ∧ OrderPasses .space (spaceOf 0) s ∧ spaceCount (spaceOf 0) = 0 ∧ noneWaits s ∧ s.exu.active.isSome = true)
    ∧ (let s := taking (spaceOf 2) loaded
       Still s ∧ OrderPasses .space (spaceOf 2) s ∧ 0 < spaceCount (spaceOf 2) ∧ s.ord.position < eodObject s
      ∧ searchOnTape s s.ord.position)
    ∧ (let s := taking (spaceOf 4294967295) atEod
       Still s ∧ OrderPasses .space (spaceOf 4294967295) s ∧ spaceCount (spaceOf 4294967295) < 0 ∧ 0 < s.ord.position
      ∧ searchOnTape s (s.ord.position - 1))
    ∧ (let s := taking (locateOf 9 0) loaded
       Still s ∧ OrderPasses .locate (locateOf 9 0) s ∧ bodyField (locateOf 9 0) 20 1 = 0
      ∧ bodyField (locateOf 9 0) 16 4 < eodObject s ∧ searchOnTape s (bodyField (locateOf 9 0) 16 4))
    ∧ (let s := taking (locateOf 11 0) loaded
       Still s ∧ OrderPasses .locate (locateOf 11 0) s ∧ bodyField (locateOf 11 0) 20 1 = 0
      ∧ eodObject s < bodyField (locateOf 11 0) 16 4 ∧ noneWaits s ∧ s.exu.active.isSome = true ∧ s.ord.located = none)
    ∧ (let s := taking (locateOf 0 1) loaded
       Still s ∧ OrderPasses .locate (locateOf 0 1) s ∧ bodyField (locateOf 0 1) 20 1 = 1)
    ∧ (let s := taking (locateOf 10 0) loaded
       Still s ∧ OrderPasses .locate (locateOf 10 0) s ∧ bodyField (locateOf 10 0) 16 4 = eodObject s) :=
  ⟨⟨loaded_still _ (by decide), passes_of rfl rfl (by decide +kernel), by decide, rfl, rfl⟩,
    ⟨loaded_still _ (by decide), passes_of rfl rfl (by decide +kernel), by decide, by decide, by unfold searchOnTape; decide⟩,
    ⟨atEod_still _ (by decide), passes_of rfl rfl (by decide +kernel), by decide, by decide, by unfold searchOnTape; decide⟩,
    ⟨loaded_still _ (by decide), passes_of rfl rfl (by decide +kernel), by decide, by decide, by unfold searchOnTape; decide⟩,
    ⟨loaded_still _ (by decide), passes_of rfl rfl (by decide +kernel), by decide, by decide, rfl, rfl, rfl⟩,
    ⟨loaded_still _ (by decide), passes_of rfl rfl (by decide +kernel), by decide⟩,
    ⟨loaded_still _ (by decide), passes_of rfl rfl (by decide +kernel), by decide⟩⟩

theorem wit_RewindGoesToBot :
    let s := taking (plainOrder 7) loaded
    let t := taking (plainOrder 7) { loaded with mot.pos := some ⟨0, 1, .forward⟩ }
    (OrderPasses .rewind (plainOrder 7) s ∧ Calm s ∧ portAtRest s ∧ StoreAtRest s ∧ s.mot.pos = some ⟨0, 0, .forward⟩
      ∧ s.mot.state = .threadedIdle ∧ noneWaits s ∧ s.exu.active.isSome = true)
    ∧ (OrderPasses .rewind (plainOrder 7) t ∧ Calm t ∧ portAtRest t ∧ StoreAtRest t ∧ t.mot.pos = some ⟨0, 1, .forward⟩) :=
  ⟨⟨passes_of rfl rfl (by decide +kernel), calm_of (by decide), ⟨rfl, rfl, rfl⟩, store_of (by decide), rfl, rfl, rfl, rfl⟩,
    ⟨passes_of rfl rfl (by decide +kernel), calm_of (by decide), ⟨rfl, rfl, rfl⟩, store_of (by decide), rfl⟩⟩

/-- A cartridge seated, nothing known of it. -/
def seated : State := { bound with mot.state := .seated, mot.leader := .home }

theorem wit_LoadBegins :
    (let s := taking (plainOrder 8) seated
     OrderPasses .load (plainOrder 8) s ∧ Calm s ∧ portAtRest s ∧ StoreAtRest s ∧ s.cml.state ≠ .loaded ∧ s.cml.access = none)
    ∧ (let s := taking (plainOrder 8) loaded
       OrderPasses .load (plainOrder 8) s ∧ Calm s ∧ portAtRest s ∧ StoreAtRest s ∧ s.cml.state = .loaded
      ∧ s.mot.state ≠ .stranded ∧ s.mot.state ≠ .faultHeld ∧ noneWaits s ∧ s.exu.active.isSome = true) :=
  ⟨⟨passes_of rfl rfl (by decide +kernel), calm_of (by decide), ⟨rfl, rfl, rfl⟩, store_of (by decide), by decide, rfl⟩,
    ⟨passes_of rfl rfl (by decide +kernel), calm_of (by decide), ⟨rfl, rfl, rfl⟩, store_of (by decide), rfl, by decide, by decide, rfl,
      rfl⟩⟩

theorem wit_UnloadBegins :
    (let s := taking (plainOrder 9) seated
     OrderPasses .unload (plainOrder 9) s ∧ Calm s ∧ portAtRest s ∧ s.mot.state = .seated)
    ∧ (let s := taking (plainOrder 9) loaded
       OrderPasses .unload (plainOrder 9) s ∧ Calm s ∧ portAtRest s ∧ StoreAtRest s ∧ s.fmt.phase = .stopped
      ∧ s.mot.state = .threadedIdle ∧ s.mot.pos.map (fun p => (p.wrap, p.index)) = some (0, 0) ∧ s.cml.state = .loaded
      ∧ s.cml.readable = true ∧ s.cml.access = none) :=
  ⟨⟨passes_of rfl rfl (by decide +kernel), calm_of (by decide), ⟨rfl, rfl, rfl⟩, rfl⟩,
    ⟨passes_of rfl rfl (by decide +kernel), calm_of (by decide), ⟨rfl, rfl, rfl⟩, store_of (by decide), rfl, rfl, rfl, rfl, rfl, rfl⟩⟩

/-- A TUNE of the rewrite threshold to 9, and one that would set speed entry 0 above entry 1. -/
def tuneThreshold : OrderRec := orderOf 10 0 0 (toBytes 4 4 ++ toBytes 8 0 ++ toBytes 4 9)
def tuneSpeed : OrderRec := orderOf 10 0 0 (toBytes 4 8192 ++ toBytes 52 0 ++ toBytes 4 60000)

theorem wit_TuneTakesNamedValues :
    let s := taking tuneThreshold bound
    let t := taking tuneSpeed bound
    (OrderPasses .tune tuneThreshold s ∧ Sound s ∧ Calm s ∧ portAtRest s ∧ noneWaits s ∧ s.exu.active.isSome = true
      ∧ tableAscends (resultingTable (tuneNamed tuneThreshold) s) = true)
    ∧ (OrderPasses .tune tuneSpeed t ∧ Sound t ∧ Calm t ∧ tableAscends (resultingTable (tuneNamed tuneSpeed) t) = false) :=
  ⟨⟨passes_of rfl rfl (by decide +kernel), sound_of (by decide), calm_of (by decide), ⟨rfl, rfl, rfl⟩, rfl, rfl,
      by decide +kernel⟩,
    ⟨passes_of rfl rfl (by decide +kernel), sound_of (by decide), calm_of (by decide), by decide +kernel⟩⟩

/-- A value above the rewrite threshold's range is clamped to 8 and reported so; a table that would not ascend is refused at
the entry named (10.9.4). -/
theorem test_tune :
    let t := run .tune (taking tuneThreshold bound)
    let u := run .tune (taking tuneSpeed bound)
    (t.fmt.threshold, memReadN t.mem (slotAddress 8192 0 + 144) 4, u.spm.table.getD 0 0,
        memReadN u.mem (slotAddress 8192 0 + 144) 8) =
      (8, [0, 0, 8, 0], 40960, [3, 0, 0, 0, 72, 0, 0, 0]) := by decide +kernel

/-- A REPORT to 16 MiB without CLEAR, and one with it. -/
def reportOf (flags : BitVec 16) : OrderRec := orderOf 11 flags 0 (toBytes 4 16777216)

theorem wit_ReportBegins :
    (OrderPasses .report (reportOf 0) (taking (reportOf 0) bound) ∧ Calm (taking (reportOf 0) bound)
      ∧ portAtRest (taking (reportOf 0) bound) ∧ (reportOf 0).clear = false)
    ∧ (OrderPasses .report (reportOf 4) (taking (reportOf 4) bound) ∧ Calm (taking (reportOf 4) bound)
      ∧ (reportOf 4).clear = true) ∧ HeadCareSound bound.hcm ∧ bound.bsm.frames.length ≤ 128
    ∧ (let s := { taking (reportOf 4) bound with
         ord.stage := .reporting, marb.transfers := [⟨.exu, .reportRecord, true, 16777216, 2, [1, 2]⟩],
         marb.burst := some ⟨.exu, 2⟩ }
       Calm s ∧ s.ord.stage = .reporting ∧ noneWaits s ∧ s.exu.active.isSome = true ∧ s.exu.work = []) :=
  ⟨⟨passes_of rfl rfl (by decide +kernel), calm_of (by decide), ⟨rfl, rfl, rfl⟩, by decide⟩,
    ⟨passes_of rfl rfl (by decide +kernel), calm_of (by decide), by decide⟩, by decide, by decide,
    ⟨calm_of (by decide), rfl, rfl, rfl, rfl⟩⟩

/-- A CHECK of 10 bytes at 16 MiB into 10 bytes at 32 MiB. -/
def checkOrder : OrderRec := orderOf 12 0 0 (tenBytes ++ toBytes 4 33554432 ++ toBytes 4 10)

theorem wit_CheckBegins :
    (OrderPasses .check checkOrder (taking checkOrder bound) ∧ Calm (taking checkOrder bound)
      ∧ portAtRest (taking checkOrder bound) ∧ bound.bsm.mode = .idle ∧ bound.mot.state.moving = false)
    ∧ (let t := taking checkOrder { loaded with mot.state := .travel }
       OrderPasses .check checkOrder t ∧ Calm t ∧ t.mot.state.moving = true ∧ noneWaits t ∧ t.exu.active.isSome = true) :=
  ⟨⟨passes_of rfl rfl (by decide +kernel), calm_of (by decide), ⟨rfl, rfl, rfl⟩, rfl, rfl⟩,
    ⟨passes_of rfl rfl (by decide +kernel), calm_of (by decide), rfl, rfl, rfl⟩⟩

/-! ### Witnesses: the data paths -/

/-- A WRITE of two records, the first's only chunk ready to be committed. -/
def twoRecords : OrderRec := orderOf 1 0 2 (tenBytes ++ tenBytes)
def committing : State := { inIntake with ord.record := some twoRecords }

/-- A WRITE of one record of a length, flags, with its chunk `n` ready to be committed. -/
def chunkReady (flags : BitVec 16) (length n : Nat) : State :=
  { inIntake with ord.record := some (orderOf 1 flags 1 (toBytes 4 16777216 ++ toBytes 4 length)), cmp.cursor := some ⟨0, n, 10⟩ }

/-- No candidate and intake blocked; a candidate one byte too long, and a full index; the last frame FREE, none FREE and a store
in read mode; a chunk that fills the payload, another to follow; the last one with SYNC and without, the index full or not; the
last burst of a chunk read. -/
theorem wit_ChunkCommitMovesBundleOn :
    (Calm loaded ∧ portAtRest loaded ∧ loaded.cmp.candidate = none
      ∧ (let s := { committing with cmp.blocked := true }
         Calm s ∧ portAtRest s ∧ s.cmp.blocked = true)
      ∧ (let s := { committing with cmp.payloadFill := 1048574 }
         Calm s ∧ openFrame s = some 0 ∧ 1048576 - s.cmp.payloadFill < [1, 2, 3].length)
      ∧ (let s := { committing with cmp.index := List.replicate 1024 (begins .data 9) }
         Calm s ∧ 1024 ≤ s.cmp.index.length)
      ∧ (let s := { committing with bsm.frames := (framesLeft 1).bsm.frames }
         Calm s ∧ portAtRest s ∧ openFrame s = none ∧ s.bsm.mode ≠ .read ∧ LowestFree 7 s)
      ∧ (let s := { committing with bsm.frames := (framesLeft 0).bsm.frames }
         Calm s ∧ openFrame s = none ∧ ∀ f ∈ s.bsm.frames, f.state ≠ .free)
      ∧ (let s := { committing with bsm.mode := .read, bsm.frames := List.replicate 8 freeFrame }
         Calm s ∧ openFrame s = none ∧ s.bsm.mode = .read))
    ∧ (let s := { committing with cmp.payloadFill := 1048573 }
       Calm s ∧ portAtRest s ∧ noneWaits s ∧ s.ord.record = some twoRecords
        ∧ kindOfCode twoRecords.kind = some .write ∧ s.ord.stage = .intake ∧ s.cml.map.isSome = true
        ∧ s.cmp.blocked = false ∧ s.cmp.sealing = none
        ∧ s.cmp.candidate = some ⟨.plain, [1, 2, 3], [1, 2, 3], []⟩ ∧ s.cmp.cursor = some ⟨0, 0, 10⟩
        ∧ openFrame s = some 0 ∧ s.cmp.payloadFill + 3 ≤ 1048576
        ∧ s.cmp.index.length + 1 < 1024 ∧ nextCursor s ⟨0, 0, 10⟩ = some ⟨1, 0, 0⟩
        ∧ 1 ≤ (descriptor twoRecords 0).length)
    ∧ (Calm (chunkReady 1 32769 0) ∧ nextCursor (chunkReady 1 32769 0) ⟨0, 0, 10⟩ = some ⟨0, 1, 0⟩
      ∧ Calm (chunkReady 1 32769 1) ∧ nextCursor (chunkReady 1 32769 1) ⟨0, 1, 10⟩ = none
      ∧ nextCursor (chunkReady 0 32768 0) ⟨0, 0, 10⟩ = none ∧ (chunkReady 0 32768 0).exu.active = some (0, 1)
      ∧ (chunkReady 1 32769 1).bsm.verifiedThrough ≤ (chunkReady 1 32769 1).bsm.sealedThrough
      ∧ (let s := { chunkReady 0 32768 0 with cmp.index := List.replicate 1023 (begins .data 9) }
         Calm s ∧ s.cmp.index.length + 1 = 1024))
    ∧ (let s := { committing with
         cmp.candidate := none, cmp.cursor := some ⟨0, 0, 0⟩
         marb.transfers := [⟨.cmpIn, .chunkIn, false, 16777216, 10, []⟩], marb.burst := some ⟨.cmpIn, 10⟩ }
       Calm s ∧ s.ord.record = some twoRecords ∧ s.cmp.cursor = some ⟨0, 0, 0⟩ ∧ s.exu.work = []) :=
  ⟨⟨loaded_idle.calm, ⟨rfl, rfl, rfl⟩, rfl, ⟨calm_of (by decide), ⟨rfl, rfl, rfl⟩, rfl⟩, ⟨calm_of (by decide), by decide, by decide⟩,
      ⟨calm_of (by decide), by decide +kernel⟩, ⟨calm_of (by decide), ⟨rfl, rfl, rfl⟩, by decide, by decide, left_one⟩,
      ⟨calm_of (by decide), by decide, by decide⟩, ⟨calm_of (by decide), by decide, rfl⟩⟩,
    ⟨calm_of (by decide), ⟨rfl, rfl, rfl⟩, rfl, rfl, rfl, rfl, rfl, rfl, rfl, rfl, rfl, by decide, by decide, by decide,
      by decide +kernel, by decide⟩,
    ⟨calm_of (by decide), by decide +kernel, calm_of (by decide), by decide +kernel, by decide +kernel, rfl, by decide,
      ⟨calm_of (by decide), by decide +kernel⟩⟩,
    ⟨calm_of (by decide), rfl, rfl, rfl⟩⟩

/-- The open bundle holds one entry and its idle timer runs. -/
def idling : State :=
  { writing with cmp.index := [begins .data 9], cmp.payloadFill := 1, cmp.rawCount := 1, cmp.idleTimer := some 0 }

/-- The header of a bundle sealed FULL being written, with the next bundle's cursor held, FMT STOPPED and HELD. -/
def sealingNow (phase : EmitPhase) : State :=
  { writing with
    cmp.sealing := some ⟨⟨2, 0, none, 10, 1, 1, .full, none⟩, [begins .data 10], false, false⟩
    fmt.phase := phase, fmt.cursor := some ⟨2, 0, 0⟩
    marb.transfers := [⟨.cmpOut, .headerOut, true, 1048576, 2, [0, 0]⟩], marb.burst := some ⟨.cmpOut, 2⟩ }

theorem others_free (j : Nat) (f : Frame) (hj : j ≠ 0) (h : writing.bsm.frames[j]? = some f) : f.state = .free := by
  obtain ⟨n, rfl⟩ := Nat.exists_eq_succ_of_ne_zero hj
  have h : (List.replicate 7 freeFrame)[n]? = some f := h
  rw [List.eq_of_mem_replicate (List.mem_of_getElem? h)]
  rfl

/-- A FLUSH TAKEN. -/
def flushing (s : State) : State := taking (plainOrder 3) s

theorem flush_passes (s : State) (h : takeFault (flushing s) (plainOrder 3) .flush = none) (hd : s.ord.deferred = none) :
    OrderPasses .flush (plainOrder 3) (flushing s) := passes_of rfl hd h

/-- Bundle 1 SEALED with no bundle open, FMT in a phase and the tape POSITIONED. -/
def sealedAlone (phase : EmitPhase) : State :=
  { writing with
    bsm.frames := ⟨.sealed, some 1, some 0, none, []⟩ :: List.replicate 7 freeFrame
    fmt.phase := phase, fmt.cursor := some ⟨1, 0, 0⟩, mot.state := .positioned, mot.splice := some 7999 }

/-- The store at rest; a seal being written; a bundle open with entries, without them beside another frame and alone; no bundle
open with FMT HELD, and STOPPED with the restart point at the last row time of the tape. -/
theorem wit_FlushOfStoreAtRest :
    (let s := flushing loaded
     OrderPasses .flush (plainOrder 3) s ∧ Calm s ∧ portAtRest s ∧ noneWaits s ∧ s.exu.active.isSome = true ∧ StoreAtRest s
      ∧ s.fmt.phase = .stopped)
    ∧ (let s := flushing { writing with cmp.sealing := (sealingNow .stopped).cmp.sealing }
       OrderPasses .flush (plainOrder 3) s ∧ Calm s ∧ portAtRest s ∧ s.cmp.sealing.isSome = true
        ∧ ∃ f ∈ s.bsm.frames, f.state.writeMode = true)
    ∧ (let s := flushing idling
       OrderPasses .flush (plainOrder 3) s ∧ Calm s ∧ s.cmp.sealing = none ∧ openFrame s = some 0 ∧ s.cmp.index ≠ [])
    ∧ (let s := flushing { writing with
         fmt.phase := .held
         bsm.frames := [⟨.opened, some 2, some 0, none, []⟩, ⟨.sealed, some 1, some 0, none, []⟩] }
       OrderPasses .flush (plainOrder 3) s ∧ Calm s ∧ openFrame s = some 0 ∧ s.cmp.index = [] ∧ s.bsm.mode = .write
        ∧ s.fmt.phase ≠ .stopped ∧ s.bsm.frames[1]? = some ⟨.sealed, some 1, some 0, none, []⟩)
    ∧ (let s := flushing writing
       OrderPasses .flush (plainOrder 3) s ∧ Calm s ∧ openFrame s = some 0 ∧ s.cmp.index = [] ∧ s.bsm.claims = []
        ∧ (∀ j f, j ≠ 0 → s.bsm.frames[j]? = some f → f.state = .free) ∧ s.fmt.phase = .stopped)
    ∧ (let s := flushing (sealedAlone .held)
       OrderPasses .flush (plainOrder 3) s ∧ Calm s ∧ s.cmp.sealing = none ∧ openFrame s = none ∧ s.fmt.phase ≠ .stopped)
    ∧ (let s := flushing (sealedAlone .stopped)
       OrderPasses .flush (plainOrder 3) s ∧ Calm s ∧ openFrame s = none ∧ (∃ f ∈ s.bsm.frames, f.state = .sealed)
        ∧ s.fmt.phase = .stopped ∧ s.fmt.cursor.isSome = true ∧ s.fmt.reading.isSome = true ∧ s.mot.state = .positioned
        ∧ s.fmt.startPoint.or s.mot.splice = some 7999 ∧ 7999 < physicalEnd s) :=
  ⟨⟨flush_passes _ (by decide +kernel) rfl, calm_of (by decide), ⟨rfl, rfl, rfl⟩, rfl, rfl, store_of (by decide), rfl⟩,
    ⟨flush_passes _ (by decide +kernel) rfl, calm_of (by decide), ⟨rfl, rfl, rfl⟩, rfl, by decide⟩,
    ⟨flush_passes _ (by decide +kernel) rfl, calm_of (by decide), rfl, by decide, by decide⟩,
    ⟨flush_passes _ (by decide +kernel) rfl, calm_of (by decide), by decide, rfl, rfl, by decide, rfl⟩,
    ⟨flush_passes _ (by decide +kernel) rfl, calm_of (by decide), by decide, rfl, rfl, others_free, rfl⟩,
    ⟨flush_passes _ (by decide +kernel) rfl, calm_of (by decide), rfl, by decide, by decide⟩,
    ⟨flush_passes _ (by decide +kernel) rfl, calm_of (by decide), by decide, by decide, rfl, rfl, rfl, rfl, rfl, by decide⟩⟩

/-- The timer at its time and before it; the bundle with an entry, without one beside another frame, and a seal's last burst. -/
theorem wit_IdleTimerSeals :
    (Calm idling ∧ portAtRest idling ∧ idling.cmp.idleTimer = some 0 ∧ (idling.timebase - 0).toNat < 2147483648
      ∧ 2147483648 ≤ (idling.timebase - 1).toNat ∧ idling.cmp.sealing = none ∧ openFrame idling = some 0
      ∧ idling.cmp.index = [begins .data 9] ∧ writing.cmp.idleTimer = none ∧ Calm writing)
    ∧ (let s := { idling with cmp.index := []
                              bsm.frames := [⟨.opened, some 2, some 0, none, []⟩, ⟨.sealed, some 1, some 0, none, []⟩] }
       Calm s ∧ openFrame s = some 0 ∧ s.bsm.mode = .write ∧ s.bsm.frames[1]? = some ⟨.sealed, some 1, some 0, none, []⟩)
    ∧ ((sealingNow .held).exu.work = [] ∧ openFrame (sealingNow .held) = some 0 ∧ (sealingNow .stopped).cmp.marksLeft = 0
      ∧ frameCount (sealingNow .stopped) .sealed + 1
          < min (sealingNow .stopped).fmt.restart ((sealingNow .stopped).bsm.frames.length / 2)
      ∧ ∀ (m : Memory) (fs : List Frame) (x : Option TapeMap), Calm { sealingNow .stopped with
          mem := m, marb.burst := none, marb.transfers := [], cmp.sealing := none, bsm.frames := fs,
          bsm.sealedThrough := 3, fmt.lastCause := some .full, cml.map := x }) :=
  ⟨⟨calm_of (by decide), ⟨rfl, rfl, rfl⟩, rfl, by decide, by decide, rfl, by decide, rfl, rfl, calm_of (by decide)⟩,
    ⟨calm_of (by decide), by decide, rfl, rfl⟩,
    ⟨rfl, by decide, rfl, by decide, fun _ _ _ => ⟨rfl, ⟨.inl rfl, .inr (.inr (.inr (.inl rfl)))⟩, ⟨.inl rfl, .inl rfl⟩,
      .inr (.inl ⟨rfl, rfl⟩), .inr ⟨rfl, rfl⟩⟩⟩⟩

/-- The tape in a motion state at an index of wrap 0. -/
def moving (m : MotionState) (i : Nat) : State :=
  { loaded with mot.state := m, mot.pos := some ⟨0, i, .forward⟩ }

theorem moving_idle (m : MotionState) (i : Nat) : Idle (moving m i) :=
  ⟨rfl, rfl, loaded_idle.noFetch, rfl, rfl, rfl, rfl, rfl, rfl, ⟨rfl, rfl, rfl⟩⟩

/-- STARTING one row time before a splice point, and one row time further off. -/
def startingAt (i : Nat) : State := { moving .starting i with mot.splice := some 200, mot.startKind := some .read }

/-- STREAMING_WRITE in the last row time of a wrap. -/
def wrapEnding (wrap : Nat) (owed : List WindowEntry) : State :=
  { moving .streamingWrite 999 with mot.pos := some ⟨wrap, 999, .forward⟩, fmt.window := owed }

/-- STREAMING_WRITE at LOCKED with these rows in the out-buffer: bundle 2 in frame 0 WRITING, bundle 3 in frame 1 SEALED. -/
def emitting (out : List OutRow) : State :=
  { writing with
    bsm.frames := [⟨.writing, some 2, some 0, none, []⟩, ⟨.sealed, some 3, some 0, none, []⟩] ++ List.replicate 6 freeFrame
    fmt.phase := .emitting, mot.state := .streamingWrite, mot.lock := .locked, mot.pos := some ⟨0, 600, .forward⟩
    fmt.reading := some ⟨3, 0, 5, 1, []⟩, fmt.outBuffer := out, fmt.slots := [3, 7], marb.burst := some ⟨.rowOut, 512⟩
    marb.transfers := [⟨.rowOut, .rowFetch, false, 1048576, 512, []⟩], cml.dirtyWritten := true }

/-- The last row of bundle 2, then a rewrite of row 5 of it and row 0 of bundle 3. -/
def threeRows : List OutRow := [⟨2, 0, 71, 1, []⟩, ⟨2, 0, 5, 2, []⟩, ⟨3, 0, 0, 1, []⟩]

theorem emitting_emits (out : List OutRow) (h : ∀ r ∈ out, r.bundle = 2 ∨ r.bundle = 3) :
    Emits ⟨0, 600, .forward⟩ (emitting out) :=
  ⟨rfl, ⟨rfl, rfl, rfl, rfl⟩, by change 600 + 1 < 1000; decide, .inr (by change 0 + 1 ≠ 8; decide), ⟨rfl, rfl⟩, rfl,
    fun r hr => (h r hr).elim (fun e => ⟨0, by rw [e]; rfl⟩) (fun e => ⟨1, by rw [e]; rfl⟩),
    ⟨by change 0 ≤ 4294967295; decide, by change 0 ≤ 4294967295; decide⟩, rfl,
    ⟨⟨.inl rfl, .inl rfl⟩, .inr (.inl ⟨rfl, rfl⟩), .inr ⟨rfl, rfl⟩⟩⟩

/-- FMT emitting with rows 71, 5 and 0, with none, before the dirty flag's write, and at a boundary with another next speed; no
position; each motion state at the ends of its range. -/
theorem wit_RowTimeBoundaryMovesHeads :
    (Emits ⟨0, 600, .forward⟩ (emitting threeRows) ∧ Emits ⟨0, 600, .forward⟩ (emitting [])
      ∧ (emitting threeRows).cml.dirtyWritten = true ∧ (emitting threeRows).spm.next = (emitting threeRows).mot.speed
      ∧ firstEmitted (threeRows.zip (List.range 16)) 3 0 = true ∧ firstEmitted (threeRows.zip (List.range 16)) 2 71 = true
      ∧ frameOf (emitting threeRows) 3 = some 1 ∧ frameOf (emitting threeRows) 2 = some 0
      ∧ (let s := { emitting threeRows with cml.dirtyWritten := false }
         Emits ⟨0, 600, .forward⟩ s ∧ s.cml.dirtyWritten = false ∧ s.cml.access = none)
      ∧ (let s := { emitting [⟨3, 0, 0, 1, []⟩] with spm.next := 5 }
         Emits ⟨0, 600, .forward⟩ s ∧ s.fmt.boundaryDone = false ∧ s.spm.next ≠ s.mot.speed))
    ∧ (Idle State.reset ∧ State.reset.mot.pos = none ∧ Idle (moving .travel 999) ∧ Idle (startingAt 198) ∧ Idle (startingAt 199)
      ∧ (startingAt 198).mot.splice = some 200 ∧ 198 + 1 < (placeOf (startingAt 198) 200).2
      ∧ (placeOf (startingAt 199) 200).2 ≤ 199 + 1 ∧ (startingAt 199).mot.startKind = some .read
      ∧ Idle { startingAt 199 with mot.startKind := some .write })
    ∧ (998 + 1 < wrapLength (moving .streamingRead 998)
      ∧ 999 + 1 = wrapLength (moving .streamingRead 999) ∧ 0 + 1 < (geometry (moving .streamingRead 999)).wraps
      ∧ 7 + 1 = (geometry (moving .streamingRead 999)).wraps ∧ (moving .streamingRead 999).cml.rebuild = none
      ∧ (moving .streamingRead 999).mot.locate = none ∧ (moving .streamingWrite 998).mot.runOn = .none
      ∧ min ((geometry onTape).length - (geometry onTape).margin) ((geometry onTape).length - 1) = 29900)
    ∧ (Idle (wrapEnding 0 []) ∧ Idle (wrapEnding 0 [⟨2, 0, 5, 3, 590, 1, false⟩]) ∧ Idle (wrapEnding 7 [])
      ∧ (wrapEnding 7 []).mot.held = none ∧ emissionWork (wrapEnding 7 []).fmt = false)
    ∧ (let s := { moving .cleaning 998 with mot.cleanLeft := 2 }
       Idle s ∧ Idle { s with mot.cleanLeft := 1 } ∧ s.mot.pos = some ⟨0, 998, wrapDirection 0⟩
        ∧ 998 + 1 ≤ wrapLength s - 1 ∧ Idle { moving .cleaning 999 with mot.cleanLeft := 5 }) := by
  have he := emitting_emits threeRows (by decide)
  have hb := emitting_emits [⟨3, 0, 0, 1, []⟩] (by decide)
  exact ⟨⟨he, emitting_emits [] (by decide), rfl, rfl, by decide, by decide, by decide, by decide,
      ⟨⟨he.sig, he.heads, he.inWrap, he.warned, he.phase, he.sixteen, he.stored, he.counts, he.port, he.others⟩, rfl, rfl⟩,
      ⟨⟨hb.sig, hb.heads, hb.inWrap, hb.warned, hb.phase, hb.sixteen, hb.stored, hb.counts, hb.port, hb.others⟩, rfl,
        by decide⟩⟩,
    ⟨idle_of (by decide), rfl, moving_idle _ _, idle_of (by decide), idle_of (by decide), rfl, by decide, by decide, rfl,
      idle_of (by decide)⟩,
    ⟨by decide, by decide, by decide, by decide, rfl, rfl, rfl, by decide⟩,
    ⟨idle_of (by decide), idle_of (by decide), idle_of (by decide), rfl, rfl⟩,
    ⟨idle_of (by decide), idle_of (by decide), rfl, by decide, idle_of (by decide)⟩⟩

/-- FMT emitting at a lock level, a row of bundle 2 being read, one result owed, a burst running. -/
def verifying (lock : LockLevel) (e : WindowEntry) : State :=
  { writing with
    bsm.frames := ⟨.writing, some 2, some 0, none, []⟩ :: List.replicate 7 freeFrame
    fmt.phase := .emitting, fmt.window := [e], mot.state := .streamingWrite, mot.lock := lock
    mot.pos := some ⟨0, 600, .forward⟩, marb.burst := some ⟨.rowOut, 512⟩
    marb.transfers := [⟨.rowOut, .rowFetch, false, 1048576, 512, []⟩] }

/-- Row 5 of bundle 2, first emission, on channel 3. -/
def owed (dropped : Bool) : WindowEntry := ⟨2, 0, 5, 3, 590, 1, dropped⟩

theorem verifying_calm (lock : LockLevel) (e : WindowEntry) : Calm (verifying lock e) :=
  ⟨rfl, ⟨.inr (.inr (.inl ⟨rfl, rfl, rfl, .inl rfl⟩)), .inr (.inr (.inr (.inl rfl)))⟩, ⟨.inl rfl, .inl rfl⟩,
    .inr (.inl ⟨rfl, rfl⟩), .inr ⟨rfl, rfl⟩⟩

/-- The header of bundle 2, or of another. -/
def headerOf (bundle : Nat) : BundleHeader := ⟨bundle, 0, none, 8 + bundle, 1, 1, .full, none⟩

/-- Row 5 is the last one of bundle 2 not passed; its frame is PENDING, that of bundle 3 VERIFIED. -/
def lastRow (verifiedThrough : Nat) (second : Frame) : State :=
  { verifying .locked (owed false) with
    bsm.verifiedThrough := verifiedThrough, bsm.sealedThrough := 5
    bsm.frames := [⟨.pending, some 2, some 0, some (headerOf 2), [begins .data 10]⟩, second] ++ List.replicate 6 freeFrame
    fmt.passMaps := [⟨2, (List.range 72).filter (fun r => r ≠ 5)⟩]
    fmt.reading := some ⟨4, 0, 0, 1, []⟩, fmt.placements := [⟨2, 500, 590⟩] }

theorem lastRow_calm (n : Nat) (f : Frame) : Calm (lastRow n f) :=
  ⟨rfl, ⟨.inr (.inr (.inl ⟨rfl, rfl, rfl, .inl rfl⟩)), .inr (.inr (.inr (.inl rfl)))⟩, ⟨.inl rfl, .inl rfl⟩,
    .inr (.inl ⟨rfl, rfl⟩), .inr ⟨rfl, rfl⟩⟩

/-- Row 5 of bundle 2 emitted for an attempt, with so many rewrite entries listed and its frame in its copy. -/
def failing (attempt listed copy : Nat) : State :=
  { verifying .locked ⟨2, copy, 5, 3, 590, attempt, false⟩ with
    bsm.frames := ⟨.writing, some 2, some copy, some (headerOf 2), []⟩ :: List.replicate 7 freeFrame
    fmt.rewrites := (List.range listed).map (fun r => ⟨2, copy, 6 + r, 2, 3, true⟩)
    fmt.reading := some ⟨1, 0, 0, 1, []⟩ }

theorem failing_owed (attempt listed copy : Nat) : Calm (failing attempt listed copy)
    ∧ (failing attempt listed copy).ord.record = none
    ∧ ResultOwed ⟨2, copy, 5, 3, 590, attempt, false⟩ [] (failing attempt listed copy) := by
  have he : emissionWork (failing attempt listed copy).fmt = true := by simp [emissionWork, failing]
  exact ⟨⟨rfl, ⟨.inr (.inr (.inl ⟨rfl, he, rfl, .inl rfl⟩)), .inr (.inr (.inr (.inl rfl)))⟩, ⟨.inl rfl, .inl rfl⟩,
    .inr (.inl ⟨rfl, rfl⟩), .inr ⟨rfl, rfl⟩⟩, rfl, ⟨rfl, rfl, rfl, rfl, rfl, rfl⟩⟩

/-- No entry; a dropped one; results at the threshold, above it and below LOCKED; the last row of a bundle kept, released alone
and with its successor; failures of attempts 1, 2 and 3, with a full list, of copy 0 and of copy 2. -/
theorem wit_VerifyResultTaken :
    (Calm loaded ∧ loaded.ord.record = none ∧ loaded.fmt.window = [])
    ∧ (∀ l d, Calm (verifying l (owed d)) ∧ (verifying l (owed d)).ord.record = none
        ∧ ResultOwed (owed d) [] (verifying l (owed d))
        ∧ ∀ f ∈ (verifying l (owed d)).bsm.frames, ¬(f.state = .pending ∧ f.bundle = some (owed d).bundle))
    ∧ (¬ResultFails (.found 4) (failing 1 0 0) ↔ 4 ≤ (failing 1 0 0).fmt.threshold)
    ∧ (ResultFails .notFound loaded ∧ ResultFails (.found 9) (failing 1 0 0)
        ∧ ResultFails (.found 0) (verifying .settled (owed false)) ∧ ¬ResultFails (.found 0) (verifying .locked (owed false)))
    ∧ (let f : Frame := ⟨.pending, some 2, some 0, some (headerOf 2), [begins .data 10]⟩
       let g : Frame := ⟨.verified, some 3, some 0, some (headerOf 3), [begins .data 11]⟩
       let maps := (lastRow 2 g).fmt.passMaps.map (fun m =>
          if m.bundle = 2 ∧ 5 ∉ m.passed then { m with passed := m.passed ++ [5] } else m)
       (∀ n x, Calm (lastRow n x) ∧ (lastRow n x).ord.record = none ∧ ResultOwed (owed false) [] (lastRow n x)
          ∧ (lastRow n x).bsm.mode = .write ∧ (lastRow n x).cmp.blocked = false ∧ (lastRow n x).bsm.claims = [])
        ∧ (lastRow 2 g).bsm.frames[0]? = some f ∧ (lastRow 2 g).bsm.frames[1]? = some g
        ∧ (∃ m ∈ maps, m.bundle = 2 ∧ m.passed.length = 72)
        ∧ (∀ j y, (lastRow 2 g).bsm.frames[j]? = some y → y.bundle = some 2 → j = 0)
        ∧ (∀ j y, (lastRow 2 g).bsm.frames[j]? = some y → y.bundle = some 3 → j = 1)
        ∧ (∀ y ∈ (lastRow 2 g).bsm.frames, ¬(y.state = .verified ∧ y.bundle = some 4))
        ∧ (∀ y ∈ (lastRow 2 freeFrame).bsm.frames, ¬(y.state = .verified ∧ y.bundle = some 3))
        ∧ (∀ y ∈ (lastRow 1 freeFrame).bsm.frames, ¬(y.state = .verified ∧ y.bundle = some 1)))
    ∧ ((failing 1 31 0).fmt.rewrites.length < 32 ∧ 32 ≤ (failing 1 32 0).fmt.rewrites.length)
    ∧ ((∃ f ∈ (failing 3 0 1).bsm.frames, Begun 2 f ∧ f.bundle = some 2)
        ∧ (∀ f ∈ (failing 3 0 1).bsm.frames, Begun 2 f → f.copy ≠ some 2))
    ∧ (let s := failing 3 0 2
       let g : Frame := ⟨.writing, some 2, some 2, some (headerOf 2), []⟩
       g ∈ s.bsm.frames ∧ g.state.writeMode = true ∧ g.header = some (headerOf 2) ∧ s.cml.map = some ⟨10, 2, 0, 500⟩
        ∧ (∀ f ∈ s.bsm.frames, f.state.writeMode = true → 2 ≤ f.bundle.getD 0 → f = g ∨ g.bundle.getD 0 < f.bundle.getD 0)
        ∧ (∀ f ∈ s.bsm.frames, f.state ≠ .opened) ∧ Begun 2 g ∧ g.copy = some 2 ∧ s.rdc.phase = .none
        ∧ s.ord.append = none ∧ s.bsm.claims = []) := by
  have hf : ∀ {fs : List Frame} {b i : Nat}, (∀ j < fs.length, ((fs[j]?).bind (fun f => f.bundle)) = some b → j = i) →
      ∀ (j : Nat) (y : Frame), fs[j]? = some y → y.bundle = some b → j = i := by
    intro fs b i h j y hy hb
    exact h j (List.getElem?_eq_some_iff.mp hy).1 (by rw [hy]; exact hb)
  refine ⟨⟨loaded_idle.calm, rfl, rfl⟩, fun l d => ⟨verifying_calm l _, rfl, ⟨rfl, rfl, rfl, rfl, rfl, rfl⟩, ?_⟩, ?_, ?_, ?_,
    by decide, ⟨⟨_, List.mem_cons_self, ⟨.inl rfl, by decide⟩, rfl⟩, ?_⟩, ?_⟩
  · exact (by decide : ∀ f ∈ (verifying .locked (owed false)).bsm.frames, ¬(f.state = .pending ∧ f.bundle = some 2))
  · simp [ResultFails]
    decide
  · refine ⟨.inl rfl, .inr ⟨9, rfl, .inl (by decide)⟩, .inr ⟨0, rfl, .inr (by decide)⟩, ?_⟩
    simp [ResultFails]
    decide
  · refine ⟨fun n x => ⟨lastRow_calm n x, rfl, ⟨rfl, rfl, rfl, rfl, rfl, rfl⟩, rfl, rfl, rfl⟩, rfl, rfl, by decide,
      hf (by decide), hf (by decide), by decide, by decide, by decide⟩
  · simp [Begun]
    decide
  · exact ⟨by decide, rfl, rfl, rfl, by decide, by decide, ⟨.inl rfl, by decide⟩, rfl, rfl, rfl, rfl⟩

/-- A row fails at LOCKED: its channel is told REWRITE, and it joins the rewrite list. -/
theorem test_row_fails :
    let t := run (.verifyResult (.found 4)) (verifying .locked (owed false))
    (t.hcm.channels.getD 3 ⟨0, true⟩, t.fmt.rewrites, t.fmt.window) = (⟨16, true⟩, [⟨2, 0, 5, 2, 3, false⟩], []) := by
  decide +kernel

/-- Reading wrap 0 with no session, locate or rebuild. -/
def streaming : State := { moving .streamingRead 5 with mot.lock := .settled }

/-- A read session at its frontier, bundle 1 the next. -/
def inSession : State :=
  { streaming with rdc.phase := .reading, rdc.next := some 1, rdc.frontier := some 5, ord.position := 5 }

/-- Row 0 of bundle 1. -/
def firstRow : TapeRow := ⟨⟨some 7, 1, 0, 0, some 0⟩, none, none, List.replicate 16384 0⟩

theorem firstRow_wf : firstRow.wf = true := by
  have h : (firstRow.data).length = rowBytes := List.length_replicate
  rw [TapeRow.wf, decide_eq_true h, Bool.and_true]
  exact decide_eq_true (Nat.zero_lt_succ 71)

/-- A session over, row 0 of bundle 1 in its frame's writing with its last burst in hand. -/
def storing : State :=
  { streaming with
    rdc.phase := .ended 9, bsm.mode := .read
    bsm.frames := ⟨.filling, some 1, some 0, none, []⟩ :: List.replicate 7 freeFrame
    rdc.inBuffer := [⟨1, 0, 5, firstRow⟩]
    rdc.assemblies := [⟨1, 0, [], 5, 5, 0, .gathering, false, [0], 0⟩]
    marb.transfers := [⟨.rowIn, .rowStore, true, 1048576, 512, List.replicate 512 0⟩], marb.burst := some ⟨.rowIn, 512⟩ }

/-- A LOAD TAKEN whose rebuild reads wrap 0 at index 5. -/
def rebuildingWith (r : Rebuild) : State :=
  { taking (plainOrder 8) streaming with ord.stage := .loadMap, cml.rebuild := some r }

theorem rebuilding_of (r : Rebuild) : Rebuilding r ⟨0, 5, .forward⟩ (rebuildingWith r) :=
  ⟨⟨rfl, ⟨.inl rfl, .inl (by change StoreMode.idle ≠ .write; decide)⟩, ⟨.inl rfl, .inl rfl⟩, .inr (.inl ⟨rfl, rfl⟩), .inr ⟨rfl, rfl⟩⟩,
    ⟨rfl, rfl, rfl⟩, rfl, ⟨rfl, rfl, by change LockLevel.settled ≠ .unlocked; decide⟩, rfl, rfl, rfl, rfl⟩

/-- Row 0 of bundle 1 with its header. -/
def headerRow : TapeRow := { firstRow with header := some (headerOf 1) }

/-- Heads out of order; another state; UNLOCKED without a session and with one; no session; a session's first row; a row's last
burst; a header found, none found, the first and a further tally of a bundle. -/
theorem wit_ReadHeadsReport :
    (headsWf [(1, .absent), (0, .absent)] = false ∧ headsWf [(0, .unreadable)] = true ∧ loaded.mot.state ≠ .streamingRead
      ∧ (let s := { streaming with mot.lock := .unlocked }
         Idle s ∧ s.mot.lock = .unlocked)
      ∧ (let s := { inSession with mot.lock := .unlocked }
         Calm s ∧ portAtRest s ∧ sessionEmpty s ∧ s.mot.state = .streamingRead ∧ s.mot.lock = .unlocked
          ∧ s.mot.pos = some ⟨0, 5, .forward⟩ ∧ s.mot.locate = none ∧ s.cml.rebuild = none ∧ s.ord.find = none
          ∧ s.rdc.rowTime = none)
      ∧ (Idle streaming ∧ streaming.mot.pos = some ⟨0, 5, .forward⟩ ∧ streaming.mot.state = .streamingRead
        ∧ streaming.mot.lock ≠ .unlocked ∧ streaming.mot.locate = none ∧ streaming.cml.rebuild = none
        ∧ streaming.rdc.rowTime = none ∧ headsWf [(2, .absent)] = true ∧ headFails .absent = false)
      ∧ (Calm inSession ∧ portAtRest inSession ∧ sessionEmpty inSession ∧ inSession.rdc.inBuffer = []
        ∧ inSession.mot.pos = some ⟨0, 5, .forward⟩ ∧ inSession.mot.lock ≠ .unlocked ∧ inSession.mot.locate = none
        ∧ inSession.cml.rebuild = none ∧ inSession.ord.find = none ∧ inSession.rdc.rowTime = none
        ∧ inSession.rdc.next = some firstRow.ident.bundle ∧ inSession.rdc.onlyBundle = none
        ∧ inSession.rdc.frontier = some 5 ∧ 5 ≤ serpentine inSession 0 5 ∧ inSession.spm.next = inSession.mot.speed
        ∧ inSession.ord.append = none ∧ inSession.ord.record = none ∧ inSession.bsm.mode ≠ .write
        ∧ (∀ g ∈ inSession.bsm.frames, g.bundle ≠ some firstRow.ident.bundle)
        ∧ findFrame inSession (fun g => g.state = .free) = some 0 ∧ firstRow.wf = true ∧ firstRow.ident.row = 0
        ∧ (8 : BitVec 8).toNat ≤ 8 ∧ sameCartridge inSession firstRow = true))
    ∧ (findFrame storing (fun x => x.state = .filling && x.bundle = some 1) = some 0
      ∧ storing.bsm.frames[0]? = some ⟨.filling, some 1, some 0, none, []⟩
      ∧ storing.rdc.assemblies.find? (fun x => x.bundle = 1) = some ⟨1, 0, [], 5, 5, 0, .gathering, false, [0], 0⟩
      ∧ (List.replicate 512 (0 : Byte)).length = 512 ∧ storing.exu.work = []
      ∧ ∀ (m : Memory) (fs : List Frame), Steady { storing with
          marb.burst := none, marb.transfers := [], rdc.inBuffer := [], mem := m, bsm.frames := fs,
          rdc.assemblies := [⟨1, 0, [0], 5, 5, 0, .gathering, false, [0], 0⟩] })
    ∧ (headerRow.wf = true ∧ sameCartridge (rebuildingWith ⟨0, [], false, 0, 0, []⟩) headerRow = true
      ∧ headerRow.ident.row = 0 ∧ headerRow.header = some (headerOf 1)
      ∧ 0 + 1 < (geometry (rebuildingWith ⟨0, [], false, 0, 0, []⟩)).wraps ∧ firstRow.header = none
      ∧ ∀ r, Rebuilding r ⟨0, 5, .forward⟩ (rebuildingWith r) ∧ (rebuildingWith r).rdc.rowTime = none) :=
  ⟨⟨by decide, by decide, by decide, ⟨idle_of (by decide), rfl⟩,
    ⟨⟨rfl, ⟨.inl rfl, .inl (by decide)⟩, ⟨.inr (.inr ⟨rfl, rfl, rfl, by decide⟩), .inl rfl⟩, .inr (.inl ⟨rfl, rfl⟩), .inr ⟨rfl, rfl⟩⟩,
      ⟨rfl, rfl, rfl⟩, ⟨rfl, rfl, rfl, by decide⟩, rfl, rfl, rfl, rfl, rfl, rfl, rfl⟩,
    ⟨idle_of (by decide), rfl, rfl, by decide, rfl, rfl, rfl, by decide, rfl⟩,
    ⟨⟨rfl, ⟨.inl rfl, .inl (by decide)⟩, ⟨.inr (.inr ⟨rfl, rfl, rfl, by decide⟩), .inl rfl⟩, .inr (.inl ⟨rfl, rfl⟩), .inr ⟨rfl, rfl⟩⟩,
      ⟨rfl, rfl, rfl⟩, ⟨rfl, rfl, rfl, by decide⟩, rfl, rfl, by decide, rfl, rfl, rfl, rfl, rfl, rfl, rfl, by decide, rfl, rfl, rfl, by decide,
      by decide, by decide, firstRow_wf, rfl, by decide, by decide⟩⟩,
    ⟨by decide, rfl, by decide, List.length_replicate, rfl, fun _ _ => Calm.steady
      ⟨rfl, ⟨.inl rfl, .inl (by change StoreMode.read ≠ .write; decide)⟩, ⟨.inr (.inl ⟨.inl rfl, List.forall_mem_singleton.mpr ⟨rfl, .inr ⟨rfl, rfl⟩⟩⟩), .inl rfl⟩,
        .inr (.inl ⟨rfl, rfl⟩), .inr ⟨rfl, rfl⟩⟩⟩,
    ⟨firstRow_wf, by decide, rfl, rfl, by decide, rfl, fun r => ⟨rebuilding_of r, rfl⟩⟩⟩

/-- An unreadable row is counted and told as LOST_READ; with no good row the blank run rises. -/
theorem test_unreadable :
    let t := run (.readHeadOutcome [(2, .unreadable)]) streaming
    (t.rdc.unreadable, t.rdc.blankRun, t.hcm.channels.getD 2 ⟨0, true⟩) = (1, 1, ⟨8, true⟩) := by decide +kernel

/-- A locate whose scan has met 2,000 row times without a good row. -/
def lostLocate : State := { streaming with mot.locate := some ⟨1, 0, 0, 0, .scanning⟩, rdc.blankRun := 2000 }

/-- 2,000 row times without a header on wrap 1, one header found before. -/
def headerless : Rebuild := ⟨1, [(0, 0)], false, 5, 2000, []⟩

/-- An end scan that has met bundle 1 whole and one row of bundle 2. -/
def endScan : Rebuild := ⟨1, [(0, 0)], true, 5, 0, [⟨1, List.range 66, some 5, 300⟩, ⟨2, [0], none, 310⟩]⟩

/-- A locate below and at the limit; the scans of a rebuild below and at it, with and without a header, with a highest complete
bundle and without one. -/
theorem wit_BlankRunLimitFailsLocate :
    (Idle lostLocate ∧ lostLocate.mot.state = .streamingRead ∧ lostLocate.cml.rebuild = none ∧ 2000 ≤ lostLocate.rdc.blankRun
      ∧ lostLocate.mot.locate.isSome = true ∧ lostLocate.mot.pos = some ⟨0, 5, .forward⟩
      ∧ Idle streaming ∧ streaming.rdc.blankRun < 2000 ∧ Idle loaded ∧ loaded.mot.state ≠ .streamingRead)
    ∧ (∀ r n, let s := { rebuildingWith r with rdc.blankRun := n }
        Rebuilding r ⟨0, 5, .forward⟩ s ∧ s.ord.record = some (plainOrder 8) ∧ kindOfCode (plainOrder 8).kind = some .load
          ∧ s.exu.active.isSome = true ∧ noneWaits s ∧ s.rdc.blankRun = n)
    ∧ (headerless.endScan = false ∧ 2000 ≤ headerless.passed ∧ headerless.found ≠ [])
    ∧ (endScan.endScan = true ∧ endScan.found = [] ++ [(0, 0)]
      ∧ (∃ x ∈ endScan.tallies, tallyComplete x = true ∧ x.lastObject = some 5 ∧ 0 ≤ x.bundle
        ∧ ∀ y ∈ endScan.tallies, tallyComplete y = true → y = x ∨ y.bundle < x.bundle)
      ∧ ∀ x ∈ endScan.tallies.drop 1, tallyComplete x = false) :=
  ⟨⟨idle_of (by decide), rfl, rfl, by decide, rfl, rfl, idle_of (by decide), by decide, loaded_idle, by decide⟩,
    fun r _ => ⟨⟨⟨rfl, ⟨.inl rfl, .inl (by change StoreMode.idle ≠ .write; decide)⟩, ⟨.inl rfl, .inl rfl⟩, .inr (.inl ⟨rfl, rfl⟩),
      .inr ⟨rfl, rfl⟩⟩, ⟨rfl, rfl, rfl⟩, rfl, (rebuilding_of r).reads, rfl, rfl, rfl, rfl⟩, rfl, rfl, rfl, rfl, rfl⟩,
    by decide, by decide⟩

/-- A READ delivering from frame 0, at an entry of the position's object. -/
def decoding (e : IndexEntry) (stored : List Byte) : State :=
  { taking readOrder loaded with
    ord.stage := .reading, bsm.mode := .read
    bsm.frames := ⟨.draining, some 0, some 0, none, [e, begins .data 1]⟩ :: List.replicate 7 freeFrame
    dcp.phase := .ready, dcp.frame := some 0, dcp.next := some 0, dcp.stored := stored }

/-- A delivery of one byte with its last burst in hand, from a bundle of two entries. -/
def delivered (e next : IndexEntry) : State :=
  { decoding e [] with
    bsm.frames := ⟨.draining, some 0, some 0, none, [e, next]⟩ :: List.replicate 7 freeFrame
    dcp.phase := .delivering, dcp.record := some ⟨0, 1, 1⟩
    marb.transfers := [⟨.dcpOut, .deliver, true, 16777216, 1, [42]⟩], marb.burst := some ⟨.dcpOut, 1⟩ }

/-- A DATA and a MARK entry ready, no entry ready, and the last burst of a delivery within a record and at its end. -/
theorem wit_DecodedEntryDelivered :
    (let s := decoding (begins .data 0) [42]
     Calm s ∧ portAtRest s ∧ s.ord.record = some readOrder ∧ kindOfCode readOrder.kind = some .read ∧ s.ord.stage = .reading
      ∧ s.ord.find = none ∧ s.ord.append = none ∧ s.dcp.phase = .ready ∧ s.dcp.frame = some 0
      ∧ ((frameAt s 0).bind (fun f => f.index[s.dcp.entry]?)) = some (begins .data 0) ∧ (begins .data 0).kind = .data
      ∧ (begins .data 0).object = s.ord.position ∧ s.dcp.record = none
      ∧ decodeStored (begins .data 0) s.dcp.history s.dcp.produced s.dcp.stored = some [42]
      ∧ 1 ≤ (descriptor readOrder s.dcp.extent).length)
    ∧ (let s := decoding (begins .mark 0) []
       Calm s ∧ portAtRest s ∧ s.ord.record = some readOrder ∧ s.ord.stage = .reading ∧ s.ord.find = none ∧ s.ord.append = none
      ∧ s.dcp.phase = .ready ∧ s.dcp.frame = some 0
      ∧ ((frameAt s 0).bind (fun f => f.index[s.dcp.entry]?)) = some (begins .mark 0) ∧ (begins .mark 0).kind = .mark
      ∧ (begins .mark 0).object = s.ord.position ∧ s.dcp.waiting = false ∧ noneWaits s ∧ s.exu.active.isSome = true
      ∧ (∀ f, frameAt s 0 = some f → s.dcp.entry + 1 < f.index.length))
    ∧ (loaded.dcp.phase ≠ .ready ∧ portAtRest loaded)
    ∧ (let e : IndexEntry := ⟨.data, 0, true, false, .plain, 1, 1⟩
       let next : IndexEntry := ⟨.data, 0, false, true, .plain, 1, 1⟩
       let s := delivered e next
       Calm s ∧ s.ord.record = some readOrder ∧ s.ord.stage = .reading ∧ s.ord.find = none ∧ s.ord.append = none
        ∧ s.dcp.phase = .delivering ∧ s.dcp.frame = some 0 ∧ s.dcp.entry = 0
        ∧ s.bsm.frames[0]? = some ⟨.draining, some 0, some 0, none, [e, next]⟩ ∧ s.dcp.record = some ⟨0, 1, 1⟩
        ∧ s.dcp.extent < readOrder.count ∧ s.exu.work = [])
    ∧ (let s := delivered (begins .data 0) (begins .data 1)
       Calm s ∧ (begins .data 0).last = true ∧ s.dcp.extent + 1 = readOrder.count ∧ s.dcp.waiting = false ∧ noneWaits s
        ∧ s.exu.active.isSome = true) :=
  ⟨⟨calm_of (by decide), ⟨rfl, rfl, rfl⟩, rfl, rfl, rfl, rfl, rfl, rfl, rfl, rfl, rfl, rfl, rfl, rfl, by decide⟩,
    ⟨calm_of (by decide), ⟨rfl, rfl, rfl⟩, rfl, rfl, rfl, rfl, rfl, rfl, rfl, rfl, rfl, rfl, rfl, rfl,
      fun f h => by cases h; decide⟩, ⟨by decide, ⟨rfl, rfl, rfl⟩⟩,
    ⟨calm_of (by decide), rfl, rfl, rfl, rfl, rfl, rfl, rfl, rfl, rfl, by decide, rfl⟩,
    ⟨calm_of (by decide), rfl, rfl, rfl, rfl, rfl⟩⟩

/-! ### Witnesses: the tape and the cartridge -/

/-- STARTING with a lock level and count. -/
def lockAt (level : LockLevel) (count : Nat) : State :=
  { moving .streamingRead 5 with mot.lock := level, mot.lockCount := count }

theorem wit_ServoFramesMoveLock :
    Idle loaded ∧ loaded.mot.state ≠ .starting ∧ loaded.mot.state ≠ .streamingWrite ∧ loaded.mot.state ≠ .streamingRead
      ∧ (Idle (lockAt .unlocked 31) ∧ LockSound .unlocked 31) ∧ (Idle (lockAt .settled 32) ∧ LockSound .settled 32)
      ∧ (Idle (lockAt .settled 63) ∧ LockSound .settled 63) ∧ (Idle (lockAt .locked 64) ∧ LockSound .locked 64) :=
  ⟨loaded_idle, by decide, by decide, by decide, ⟨idle_of (by decide), by decide⟩, ⟨idle_of (by decide), by decide⟩,
    ⟨idle_of (by decide), by decide⟩, ⟨idle_of (by decide), by decide⟩⟩

/-- The 32nd and the 64th in-tolerance frame, and one out of tolerance at LOCKED (R91). -/
theorem test_lock_levels :
    ((run (.servoFrame true) (lockAt .unlocked 31)).mot.lock, (run (.servoFrame true) (lockAt .settled 63)).mot.lock,
      (run (.servoFrame false) (lockAt .locked 64)).mot.lockCount) = (.settled, .locked, 32) := by decide +kernel

/-- No timer, one before its time and one at it; no tension, and tension. -/
theorem wit_EmergencyStop :
    (Idle loaded ∧ loaded.mot.limitTimer = none ∧ loaded.mot.tension ≠ .off)
      ∧ (Idle State.reset ∧ State.reset.mot.tension = .off
        ∧ ¬(State.reset.mot.state = .threading ∧ State.reset.mot.threadPhase = .tensioning))
      ∧ (∀ x, Idle { loaded with mot.state := .starting, mot.limitTimer := some x })
      ∧ 2147483648 ≤ (loaded.timebase - 1).toNat ∧ (loaded.timebase - 0).toNat < 2147483648 :=
  ⟨⟨loaded_idle, rfl, by decide⟩, ⟨idle_of (by decide), rfl, by decide⟩,
    fun _ => ⟨rfl, rfl, .inl (by change StoreMode.idle ≠ .write; decide), rfl, rfl, rfl, rfl, rfl, rfl, ⟨rfl, rfl, rfl⟩⟩, by decide, by decide⟩

theorem wit_CartridgeSeatedAndGone :
    (Idle bound ∧ bound.mot.state = .empty) ∧ (Idle seated ∧ seated.mot.state = .seated ∧ seated.mot.ejecting = false)
      ∧ Idle { seated with mot.ejecting := true } ∧ (Idle loaded ∧ loaded.mot.state ≠ .empty ∧ loaded.mot.state ≠ .seated) :=
  ⟨⟨idle_of (by decide), rfl⟩, ⟨idle_of (by decide), rfl, rfl⟩, idle_of (by decide), ⟨loaded_idle, by decide, by decide⟩⟩

/-- THREADING in a phase at an attempt, its timer at its time. -/
def threading (p : ThreadPhase) (n : Nat) : State :=
  { seated with mot.state := .threading, mot.threadPhase := p, mot.attempt := n, mot.threadTimer := some 0 }

/-- A LOAD TAKEN whose tape comes under tension. -/
def tensioning (state : CartState) (stale : Option StaleReason) (readable : Bool) : State :=
  { taking (plainOrder 8) (threading .tensioning 1) with
    ord.stage := .loadThreading, cml.state := state, cml.readable := readable, cml.stale := stale, cml.copy := loaded.cml.copy
    cml.map := if state = .loaded then some ⟨10, 2, 0, 500⟩ else none }

theorem tensioning_calm (state : CartState) (stale : Option StaleReason) (readable : Bool) :
    Calm (tensioning state stale readable) ∧ portAtRest (tensioning state stale readable)
      ∧ noneWaits (tensioning state stale readable) :=
  ⟨⟨rfl, ⟨.inl rfl, .inl (by change StoreMode.idle ≠ .write; decide)⟩, ⟨.inl rfl, .inl rfl⟩, .inr (.inl ⟨rfl, rfl⟩),
    .inr ⟨rfl, rfl⟩⟩, ⟨rfl, rfl, rfl⟩, rfl⟩

/-- Working tension with a LOAD in hand, the copy held, the tape LOADED, the directory stale and the memory unreadable; each
phase of THREADING with its timer at its time, a timer before its time, no timer, and another state. -/
theorem wit_ThreadingEvents :
    (let s := tensioning .held none true
     (Calm s ∧ portAtRest s ∧ noneWaits s) ∧ s.fmt.phase = .stopped ∧ s.exu.active.isSome = true
      ∧ s.ord.record = some (plainOrder 8) ∧ kindOfCode (plainOrder 8).kind = some .load ∧ s.ord.stage = .loadThreading
      ∧ s.ord.loadAborted = false ∧ s.mot.state = .threading ∧ s.mot.threadPhase = .tensioning ∧ s.cml.state = .held
      ∧ s.cml.readable = true ∧ s.cml.stale = none ∧ s.cml.copy.isSome = true)
    ∧ ((tensioning .loaded none true).cml.map = some ⟨10, 2, 0, 500⟩ ∧ (tensioning .loaded none true).cml.state = .loaded
      ∧ (tensioning .held (some .dirty) true).cml.stale.isSome = true ∧ 0 < physicalEnd (tensioning .held (some .dirty) true)
      ∧ (tensioning .held (some .unreadable) false).cml.readable = false)
    ∧ (Idle (threading .capture 2) ∧ (threading .capture 2).mot.state = .threading
        ∧ (threading .capture 2).mot.threadPhase = .capture ∧ (threading .capture 2).mot.attempt < 3
        ∧ (threading .capture 2).mot.threadTimer = some 0 ∧ ((threading .capture 2).timebase - 0).toNat < 2147483648)
      ∧ (Idle (threading .capture 3) ∧ (threading .capture 3).mot.attempt = 3) ∧ Idle (threading .path 1)
      ∧ Idle (threading .tensioning 1) ∧ Idle { threading .path 1 with mot.threadTimer := some 1 }
      ∧ 2147483648 ≤ ((threading .path 1).timebase - 1).toNat
      ∧ (Idle loaded ∧ loaded.mot.state ≠ .threading ∧ loaded.mot.threadTimer = none ∧ loaded.mot.retension = false
        ∧ loaded.mot.recovering = false) :=
  ⟨⟨tensioning_calm _ _ _, rfl, rfl, rfl, rfl, rfl, rfl, rfl, rfl, rfl, rfl, rfl, rfl⟩, ⟨rfl, rfl, rfl, by decide, rfl⟩,
    ⟨idle_of (by decide), rfl, rfl, by decide, rfl, by decide⟩, ⟨idle_of (by decide), rfl⟩, idle_of (by decide),
    idle_of (by decide), idle_of (by decide), by decide, ⟨loaded_idle, by decide, rfl, rfl, rfl⟩⟩

/-- A WRITE of 40,000 bytes with its first chunk committed to the open bundle after an entry of another record. -/
def committed : State :=
  { inIntake with
    ord.record := some (orderOf 1 0 1 (toBytes 4 16777216 ++ toBytes 4 40000)), cmp.cursor := some ⟨0, 1, 0⟩
    cmp.index := [begins .data 8, ⟨.data, 9, true, false, .plain, 32768, 32768⟩], cmp.payloadFill := 32769
    cmp.rawCount := 32769 }

/-- A READ in a session at index 5 of wrap 0, bundle 1 being assembled. -/
def readingOn : State :=
  { taking readOrder { streaming with rdc.next := some 1, rdc.frontier := some 5, ord.position := 5 } with
    ord.stage := .reading, rdc.phase := .reading, bsm.mode := .read, dcp.next := some 0
    bsm.frames := [⟨.filling, some 1, some 0, none, []⟩, ⟨.decoded, some 0, some 0, none, []⟩] ++ List.replicate 6 freeFrame
    rdc.assemblies := [⟨1, 0, [0], 3, 5, 0, .gathering, false, [0], 0⟩] }

/-- A LOAD at a stage, TAKEN with ticket 1. -/
def loadAt (st : Stage) (s : State) : State := { taking (plainOrder 8) s with ord.stage := st }

/-- A WRITE with no chunk of the record committed, with its first, and with none of its chunks left in the open bundle; a READ;
a REWIND draining, a LOCATE reading and a REWIND travelling; a LOAD in each stage. -/
theorem wit_AbortOfWriteInIntake :
    (portAtRest inIntake ∧ noneWaits inIntake ∧ inIntake.exu.bind ≠ .unbound
      ∧ inIntake.exu.active = some (0, (1 : Word).setWidth 16) ∧ inIntake.ord.record = some writeOrder
      ∧ kindOfCode writeOrder.kind = some .write ∧ inIntake.ord.stage = .intake ∧ inIntake.cmp.cursor = some ⟨0, 0, 10⟩
      ∧ Calm inIntake)
    ∧ (Calm committed ∧ portAtRest committed ∧ committed.ord.stage = .intake ∧ committed.cmp.cursor = some ⟨0, 1, 0⟩
      ∧ committed.cmp.index = [begins .data 8] ++ [⟨.data, 9, true, false, .plain, 32768, 32768⟩]
      ∧ openFrame committed = some 0 ∧ committed.cmp.sealing = none ∧ committed.cml.map.isSome = true
      ∧ eodObject committed - 1 = 9
      ∧ (∀ e ∈ [(⟨.data, 9, true, false, .plain, 32768, 32768⟩ : IndexEntry)], e.kind = .data ∧ e.object = eodObject committed - 1)
      ∧ (∀ e ∈ [begins .data 8], e.kind = .data → e.object ≠ eodObject committed - 1)
      ∧ (∀ e ∈ ([] : List IndexEntry), e.kind = .data ∧ e.object = eodObject committed - 1))
    ∧ (portAtRest readingOn ∧ noneWaits readingOn ∧ readingOn.exu.active = some (0, (1 : Word).setWidth 16)
      ∧ readingOn.ord.record = some readOrder ∧ kindOfCode readOrder.kind = some .read ∧ readingOn.ord.stage = .reading
      ∧ readingOn.ord.find = none ∧ readingOn.rdc.phase.active = true ∧ readingOn.mot.state = .streamingRead
      ∧ readingOn.bsm.mode = .read ∧ readingOn.cmp.blocked = false ∧ readingOn.sig = [] ∧ fmtAtRest readingOn
      ∧ cmlAtRest readingOn)
    ∧ (kindOfCode (plainOrder 7).kind = some .rewind ∧ kindOfCode (locateOf 3 0).kind = some .locate
      ∧ kindOfCode (spaceOf 3).kind = some .space
      ∧ Calm { taking (plainOrder 7) writing with ord.stage := .draining }
      ∧ (let s := { taking (locateOf 3 0) streaming with ord.stage := .positioning }
         Calm s ∧ portAtRest s ∧ noneWaits s ∧ s.mot.pos = some ⟨0, 5, .forward⟩ ∧ s.mot.state = .streamingRead)
      ∧ (let s := { taking (plainOrder 7) (moving .travel 5) with ord.stage := .positioning }
         Calm s ∧ s.mot.state = .travel ∧ s.mot.dest = .bot)
      ∧ (let s := { taking (spaceOf 3) (moving .travel 5) with ord.stage := .positioning, mot.dest := .named 7 }
         Calm s ∧ s.mot.state = .travel ∧ s.mot.dest = .named 7))
    ∧ (kindOfCode (plainOrder 8).kind = some .load
      ∧ Calm { loadAt .loadMemory seated with cml.access := some ⟨.loadRead, 2, none, false⟩ }
      ∧ (let s := loadAt .loadThreading (threading .capture 1)
         Calm s ∧ portAtRest s ∧ noneWaits s ∧ s.exu.active = some (0, (1 : Word).setWidth 16) ∧ s.ord.loadAborted = false
          ∧ s.mot.state = .threading ∧ s.mot.threadPhase = .capture)
      ∧ (let s := loadAt .loadThreading (threading .path 1)
         Calm s ∧ s.mot.state = .threading ∧ s.mot.threadPhase ≠ .capture)
      ∧ (let s := loadAt .loadCleaning { loaded with cml.state := .held, cml.map := none }
         Calm s ∧ s.ord.stage = .loadCleaning ∧ s.mot.state = .threadedIdle ∧ atBot s = true)
      ∧ (let s := loadAt .loadMap { streaming with cml.state := .rebuilding, cml.map := none,
                                                   cml.rebuild := some ⟨0, [], false, 0, 0, []⟩ }
         Calm s ∧ s.ord.stage = .loadMap ∧ s.cml.state = .rebuilding ∧ s.mot.state = .streamingRead)) :=
  ⟨⟨⟨rfl, rfl, rfl⟩, rfl, by decide, rfl, rfl, rfl, rfl, rfl, calm_of (by decide)⟩,
    ⟨calm_of (by decide), ⟨rfl, rfl, rfl⟩, rfl, rfl, rfl, by decide, rfl, rfl, rfl, by decide, by decide, nofun⟩,
    ⟨⟨rfl, rfl, rfl⟩, rfl, rfl, rfl, rfl, rfl, rfl, rfl, rfl, rfl, rfl, rfl, ⟨.inl rfl, .inl (by decide)⟩, .inr ⟨rfl, rfl⟩⟩,
    ⟨rfl, rfl, rfl, calm_of (by decide), ⟨calm_of (by decide), ⟨rfl, rfl, rfl⟩, rfl, rfl, rfl⟩, ⟨calm_of (by decide), rfl, rfl⟩,
      ⟨calm_of (by decide), rfl, rfl⟩⟩,
    ⟨rfl, calm_of (by decide), ⟨calm_of (by decide), ⟨rfl, rfl, rfl⟩, rfl, rfl, rfl, rfl, rfl⟩,
      ⟨calm_of (by decide), rfl, by decide⟩, ⟨calm_of (by decide), rfl, rfl, by decide⟩,
      ⟨calm_of (by decide), rfl, rfl, rfl⟩⟩⟩

/-- UNTHREADING for each reason, its timer at its time and before it, and another state. -/
theorem wit_UnthreadingEvents :
    (Idle (moving .unthreading 0) ∧ (moving .unthreading 0).mot.unthreadWhy ≠ .pathFault)
      ∧ Idle { moving .unthreading 0 with mot.unthreadWhy := .pathFault }
      ∧ Idle { moving .unthreading 0 with mot.threadTimer := some 0 }
      ∧ Idle { moving .unthreading 0 with mot.threadTimer := some 1 }
      ∧ ((moving .unthreading 0).timebase - 0).toNat < 2147483648
      ∧ 2147483648 ≤ ((moving .unthreading 0).timebase - 1).toNat
      ∧ (Idle loaded ∧ loaded.mot.state ≠ .unthreading) :=
  ⟨⟨moving_idle _ _, by decide⟩, idle_of (by decide), idle_of (by decide), idle_of (by decide), by decide, by decide,
    ⟨loaded_idle, by decide⟩⟩

/-- Tape at rest after a stop, its splice point at index 300: the run-up point lies at index 200. -/
def atRestAt (m : MotionState) (i : Nat) : State := { moving m i with mot.splice := some 300, mot.afterRest := .runUp }

theorem wit_StopAndBackhitch :
    (Idle { loaded with mot.dwellTimer := some 0 } ∧ Idle { loaded with mot.dwellTimer := some 1 }
        ∧ (loaded.timebase - 0).toNat < 2147483648 ∧ 2147483648 ≤ (loaded.timebase - 1).toNat
        ∧ loaded.mot.state = .threadedIdle ∧ loaded.mot.dwellTimer = none)
      ∧ (Idle (atRestAt .stopping 201) ∧ (atRestAt .stopping 201).mot.splice = some 300
        ∧ runUpPoint (atRestAt .stopping 201) 300 = (0, 200))
      ∧ (Idle (atRestAt .stopping 200) ∧ runUpPoint (atRestAt .stopping 200) 300 = (0, 200))
      ∧ (Idle (atRestAt .repositioning 200) ∧ (atRestAt .repositioning 200).mot.held = none
        ∧ (atRestAt .repositioning 200).mot.locate = none) :=
  ⟨⟨idle_of (by decide), idle_of (by decide), by decide, by decide, rfl, rfl⟩, ⟨idle_of (by decide), rfl, by decide⟩,
    ⟨idle_of (by decide), by decide⟩, ⟨idle_of (by decide), rfl, rfl⟩⟩

theorem wit_TravelArrives :
    (let s := { moving .travel 7 with mot.dest := .named 8000 }
     Idle s ∧ s.mot.held = none ∧ s.mot.state = .travel ∧ s.mot.dest = .named 8000 ∧ physicalEnd s = 8000)
      ∧ (let s := { moving .travel 7 with mot.dest := .named 7999 }
         Idle s ∧ s.mot.held = none ∧ s.mot.dest = .named 7999 ∧ 7999 < physicalEnd s)
      ∧ (Idle (moving .travel 7) ∧ (moving .travel 7).mot.dest = .bot ∧ (moving .travel 7).mot.afterRewind = .nothing)
      ∧ (Idle { moving .travel 7 with mot.dest := .recovery } ∧ Idle loaded ∧ loaded.mot.state ≠ .travel) :=
  ⟨⟨idle_of (by decide), rfl, rfl, rfl, by decide⟩, ⟨idle_of (by decide), rfl, rfl, by decide⟩, ⟨moving_idle _ _, rfl, rfl⟩,
    ⟨idle_of (by decide), loaded_idle, by decide⟩⟩

theorem wit_TurnEndsOnNextWrap :
    Idle (moving .turning 999) ∧ (moving .turning 999).mot.held = none
      ∧ (moving .turning 999).mot.pos = some ⟨0, 999, .forward⟩ ∧ Idle loaded ∧ loaded.mot.state ≠ .turning :=
  ⟨moving_idle _ _, rfl, rfl, loaded_idle, by decide⟩

/-- Contents of cartridge memory that pass the first class. -/
def contents : CmContents :=
  ⟨7, some .data, ⟨8, 1000, 100⟩, 3, false, ⟨0, 0, 0, 0⟩, (List.range 8).map (fun i => ⟨i, none⟩), 0, 0, 0⟩

/-- The read of a LOAD in its attempt `n`. -/
def readingMemory (n : Nat) : State :=
  { taking (plainOrder 8) seated with ord.stage := .loadMemory, cml.access := some ⟨.loadRead, n, none, false⟩ }

theorem contents_first : FirstClass contents :=
  ⟨by decide, by decide, by decide, by decide, by decide⟩

theorem part_none (i : Nat) : partAt contents i = none := by
  unfold partAt contents
  rcases Nat.lt_or_ge i 8 with h | h
  · simp [List.getElem?_map, List.getElem?_range h]
  · rw [List.getElem?_eq_none (by exact h)]
    rfl

theorem contents_second : SecondClass contents :=
  ⟨by decide, by simp [part_none], by simp [part_none], by simp [part_none], by simp [part_none], fun _ => ⟨rfl, rfl⟩, by decide⟩

/-- No access; contents of both classes, of the first alone and of neither for the LOAD in hand; the second attempt of an
access; the third with no order; and a stored acknowledgement. -/
theorem wit_CartridgeMemoryAnswers :
    (let s := readingMemory 2
     Calm s ∧ portAtRest s ∧ s.rdc.phase = .none ∧ s.cml.access = some ⟨.loadRead, 2, none, false⟩
      ∧ s.ord.record = some (plainOrder 8) ∧ kindOfCode (plainOrder 8).kind = some .load ∧ s.ord.stage = .loadMemory
      ∧ s.ord.loadAborted = false ∧ s.mot.state = .seated ∧ FirstClass contents ∧ contents.type ≠ some .cleaning
      ∧ contents.dirty = false ∧ SecondClass contents ∧ ¬SecondClass { contents with directory := [] }
      ∧ ¬FirstClass { contents with type := none })
    ∧ (let s := { seated with cml.access := some ⟨.loadRead, 3, none, false⟩ }
       Calm s ∧ portAtRest s ∧ s.rdc.phase = .none ∧ s.ord.record = none ∧ s.mot.state = .seated)
    ∧ (let s := { loaded with cml.access := some ⟨.unloadWrite, 1, none, false⟩ }
       Calm s ∧ portAtRest s ∧ s.rdc.phase = .none ∧ s.ord.record = none)
    ∧ (Calm loaded ∧ loaded.cml.access = none) :=
  ⟨⟨calm_of (by decide), ⟨rfl, rfl, rfl⟩, rfl, rfl, rfl, rfl, rfl, rfl, rfl, contents_first, by decide, rfl, contents_second,
      fun h => absurd h.wraps (by decide), fun h => h.type rfl⟩,
    ⟨calm_of (by decide), ⟨rfl, rfl, rfl⟩, rfl, rfl, rfl⟩, ⟨calm_of (by decide), ⟨rfl, rfl, rfl⟩, rfl, rfl⟩, ⟨loaded_idle.calm, rfl⟩⟩

theorem wit_MotionSecondCounts :
    Idle (moving .travel 5) ∧ (moving .travel 5).mot.state.moving = true := ⟨moving_idle _ _, rfl⟩

/-! ### Witnesses: rates, scores, compression -/

/-- Differences of 7 and of 8, either way, and the ends of the range. -/
theorem wit_RateIsSmoothed :
    (100 ≤ 93 + 7 ∧ 93 ≤ 100 + 7) ∧ 100 + 8 ≤ 108 ∧ 92 + 8 ≤ 100 ∧ 1024000 ≤ 1024000 ∧ Sound loaded ∧ 1048576 ≤ 1048576
      ∧ 1 ≤ 1 := ⟨by decide, by decide, by decide, by decide, sound_of (by decide), by decide, by decide⟩

/-- Speeds below, at and above the choice, with a vote held and without. -/
theorem wit_SpeedIsChosen :
    let s := { loaded with mot.speed := 3, spm.next := 3, spm.vote := some 1 }
    Sound s ∧ Sound { s with spm.vote := none } ∧ s.mot.speed < 5 ∧ 2 < s.mot.speed ∧ s.spm.vote = some 1
      ∧ 112640 ≤ effectiveRate s 5 ∧ effectiveRate s 5 < 112641 :=
  ⟨sound_of (by decide), sound_of (by decide), by decide, by decide, rfl, by decide, by decide⟩

/-- No channel at the retire threshold, one at it with 12 ACTIVE, and one above it with 16. -/
theorem wit_ScoresWearAndEase :
    HeadCareSound exampleHead.hcm ∧ HeadCareSound fencedHead.hcm
      ∧ (∀ j, j < 16 → ((exampleHead.hcm.channels.getD j ⟨0, false⟩).active
          && decide (exampleHead.hcm.retire ≤ (exampleHead.hcm.channels.getD j ⟨0, false⟩).score)) = true → j = 9)
      ∧ (let h := { fencedHead.hcm with retire := 6100 }
         HeadCareSound h ∧ ∀ j, j < 16 → ((h.channels.getD j ⟨0, false⟩).active
          && decide (h.retire ≤ (h.channels.getD j ⟨0, false⟩).score)) = true → j = 5)
      ∧ (let h := { exampleHead.hcm with retire := 5990 }
         HeadCareSound h ∧ h.n = 16 ∧ ∀ j, j < 16 → ((h.channels.getD j ⟨0, false⟩).active
          && decide (h.retire ≤ (h.channels.getD j ⟨0, false⟩).score)) = true → j = 9) :=
  ⟨by decide, by decide, by decide, ⟨by decide, by decide⟩, by decide, rfl, by decide⟩

/-! ### Tests of points of the motion and the orders -/

/-- R90, R107: an unthread of RELAXED tape at BOT is held while the tension is raised, and then carried out. -/
theorem test_unthread_of_relaxed :
    let s := requestUnthread .asked { loaded with mot.state := .relaxed, mot.tension := .relaxed }
    let t := run (.workingTension ⟨8, 1000, 100⟩) s
    (s.mot.state, s.mot.held, s.mot.retension, t.mot.state, t.mot.held) =
      (.relaxed, some (.unthread .asked), true, .unthreading, none) := by decide +kernel

/-- R92, R93: outside the streaming states a bundle boundary adopts no speed and starts no timer. -/
theorem test_boundary_while_stopping :
    let s := adoptAtBoundary { moving .stopping 5 with spm.next := 1 }
    let t := adoptAtBoundary { moving .streamingRead 5 with spm.next := 1 }
    (s.mot.speed, s.mot.limitTimer, t.mot.speed, t.mot.limitTimer) = (0, none, 1, some 2000) := by decide +kernel

/-- R190: the examining scan of a SPACE that fails leaves the tape to be POSITIONED at the last bundle whose header was read. -/
theorem test_failed_space :
    let s := { taking (spaceOf 3) { streaming with ord.position := 5 } with
                 ord.stage := .positioning, ord.find := some ⟨9, 1, 0, .examining, none, [], none, none⟩,
                 ord.lastHeader := some 5, ord.lastPlace := some 250 }
    let t := failFind s
    (t.mot.state, t.mot.splice, slotState t 0, memReadN t.mem (slotAddress 8192 0 + 144) 1) =
      (.stopping, some 250, 3, [15]) := by decide +kernel

/-- R43: while the burst of a row abandoned holds the port, FMT chooses no next row. -/
theorem test_abandoned_burst :
    let s := { writing with fmt.reading := none, fmt.cursor := some ⟨2, 0, 5⟩, fmt.phase := .emitting
                            marb.burst := some ⟨.rowOut, 0⟩ }
    ((fetchRow s).fmt.reading, (fetchRow { s with marb.burst := none }).fmt.reading) = (none, some ⟨2, 0, 5, 1, []⟩) := by
  decide +kernel

/-- R130: the geometry of a threaded tape whose memory turns out unreadable is that of the word MOT read. -/
theorem test_word_kept :
    let s := takeUnreadable { loaded with cml.copy := none, mot.word := some ⟨4, 2000, 50⟩ }
    (s.cml.copy.map (fun c => c.geometry), s.cml.stale) = (some ⟨8, 2000, 50⟩, some .unreadable) := by decide +kernel

theorem wit_CompressionRoundTrip :
    exampleChunk.chunk.length ≤ 32768 ∧ exampleChunk.history.length = min exampleChunk.rawCount 8192
      ∧ (⟨.data, 0, true, true, .packed, 10, 9⟩ : IndexEntry).form = (exampleChunk.candidate [] false).form
      ∧ (⟨.data, 0, true, true, .packed, 10, 9⟩ : IndexEntry).rawLen = exampleChunk.chunk.length := by decide +kernel

end Sys2Proof.Tests
end

section
/-! SUPPORT. The speed matcher (chapter 6): how the smoothed rate, the demand, the effective rates and the choice behave,
and the statements about them. -/

namespace Sys2Proof.Machine

/-! ### The smoothed rate (R116, R118) -/

/-- A sample at or above the rate raises it by an eighth of the difference. -/
theorem smooth_of_le {r x : Nat} (h : r ≤ x) : smooth r x = r + (x - r) / 8 := by
  obtain ⟨d, rfl⟩ := Nat.exists_eq_add_of_le h
  have hd : ((r + d : Nat) : Int) - r = (d : Int) := by omega
  rw [smooth, trunc, hd, Int.tdiv_eq_ediv_of_nonneg (by omega)]
  omega

/-- A sample at or below the rate lowers it by an eighth of the difference: the truncation is toward zero from both sides. -/
theorem smooth_of_ge {r x : Nat} (h : x ≤ r) : smooth r x = r - (r - x) / 8 := by
  obtain ⟨d, rfl⟩ := Nat.exists_eq_add_of_le h
  have hd : (x : Int) - ((x + d : Nat) : Int) = -(d : Int) := by omega
  rw [smooth, trunc, hd, Int.neg_tdiv, Int.tdiv_eq_ediv_of_nonneg (by omega)]
  omega

/-- The rate before it is taken as a natural number is never negative, so that nothing is cut off there. -/
theorem smoothed_nonneg (r x : Nat) : 0 ≤ (r : Int) + Int.tdiv ((x : Int) - r) 8 := by
  rcases Nat.le_total r x with h | h
  · have := Int.tdiv_nonneg (a := (x : Int) - r) (b := 8) (by omega) (by omega)
    omega
  · have hd : (x : Int) - r = -((r - x : Nat) : Int) := by omega
    rw [hd, Int.neg_tdiv, Int.tdiv_eq_ediv_of_nonneg (by omega)]
    omega

theorem smooth_of_near {r x : Nat} (h : r ≤ x + 7) (h' : x ≤ r + 7) : smooth r x = r := by
  rcases Nat.le_total r x with hx | hx
  · rw [smooth_of_le hx]; omega
  · rw [smooth_of_ge hx]; omega

theorem smooth_rises {r x : Nat} (h : r + 8 ≤ x) : r + 1 ≤ smooth r x ∧ smooth r x ≤ x := by
  rw [smooth_of_le (by omega)]; omega

theorem smooth_falls {r x : Nat} (h : x + 8 ≤ r) : smooth r x + 1 ≤ r ∧ x ≤ smooth r x := by
  rw [smooth_of_ge (by omega)]; omega

theorem smooth_le_max (r x : Nat) : smooth r x ≤ max r x := by
  rcases Nat.le_total r x with h | h
  · rw [smooth_of_le h]; omega
  · rw [smooth_of_ge h]; omega

/-- The largest payload in the shortest time gives the largest sample (R116). -/
theorem sampleOf_le {p t : Nat} (hp : p ≤ 1048576) (ht : 1 ≤ t) : sampleOf p t ≤ 1024000 :=
  calc p * 1000 / (t * 1024)
    _ ≤ 1048576 * 1000 / (1 * 1024) := Nat.div_le_div (Nat.mul_le_mul_right _ hp) (Nat.mul_le_mul_right _ ht) (by decide)
    _ = 1024000 := by decide

/-! ### The demand (R119) -/

theorem demand_write (r waiting frames : Nat) :
    demand .write r waiting frames =
      (if frames * 3 ≤ waiting * 4 then r + r / 4 else if waiting * 8 ≤ frames then r - r / 4 else r) := rfl

theorem demand_read (r waiting frames : Nat) :
    demand .read r waiting frames =
      (if frames * 3 ≤ waiting * 4 then r - r / 4 else if waiting * 8 ≤ frames then r + r / 4 else r) := rfl

/-! ### The effective rates (R112, R113) -/

theorem activeCount_le_length (cs : List Channel) : activeCount cs ≤ cs.length := List.length_filter_le _ _

theorem Sound.channels_le {s : State} (h : Sound s) : s.hcm.n ≤ 16 := by
  obtain ⟨hlen, hn, -⟩ := h.head
  rw [hn, ← hlen]
  exact activeCount_le_length _

theorem effectiveRate_le {s : State} (h : Sound s) (k : Nat) : effectiveRate s k ≤ 262144 := by
  obtain ⟨-, hrange, -⟩ := h.speeds
  have hentry : s.spm.table.getD k 0 ≤ 262144 := by
    rw [List.getD_eq_getElem?_getD]
    cases hk : s.spm.table[k]? with
    | none => exact Nat.zero_le _
    | some v => exact (hrange v (List.mem_of_getElem? hk)).2
  calc s.spm.table.getD k 0 * s.hcm.n / 16
    _ ≤ 262144 * 16 / 16 := Nat.div_le_div_right (Nat.mul_le_mul hentry h.channels_le)
    _ = 262144 := by decide

theorem tableAscends_step {t : List Nat} (h : tableAscends t = true) {k : Nat} (hk : k + 1 ≤ 5) :
    t.getD k 0 < t.getD (k + 1) 0 := by
  have := List.all_eq_true.1 h (k + 1) (List.mem_range.2 (by omega))
  simpa [notAbove] using this

theorem effectiveRate_mono {s : State} (h : Sound s) {i j : Nat} (hij : i ≤ j) (hj : j ≤ 5) :
    effectiveRate s i ≤ effectiveRate s j := by
  obtain ⟨-, -, hasc, -⟩ := h.speeds
  induction j, hij using Nat.le_induction with
  | base => exact Nat.le_refl _
  | succ j _ ih =>
    have hstep := Nat.le_of_lt (tableAscends_step hasc hj)
    exact (ih (by omega)).trans (Nat.div_le_div_right (Nat.mul_le_mul_right _ hstep))

/-- With the default table every entry is a multiple of 16, and the rates are the rows of R113's table. -/
theorem effectiveRate_default {s : State} (ht : s.spm.table = [40960, 51200, 61440, 76800, 92160, 112640])
    (hlo : 12 ≤ s.hcm.n) (hhi : s.hcm.n ≤ 16) :
    (List.range 6).map (effectiveRate s) =
      (if s.hcm.n = 16 then [40960, 51200, 61440, 76800, 92160, 112640]
       else if s.hcm.n = 15 then [38400, 48000, 57600, 72000, 86400, 105600]
       else if s.hcm.n = 14 then [35840, 44800, 53760, 67200, 80640, 98560]
       else if s.hcm.n = 13 then [33280, 41600, 49920, 62400, 74880, 91520]
       else [30720, 38400, 46080, 57600, 69120, 84480]) := by
  unfold effectiveRate
  rw [ht]
  generalize s.hcm.n = n at hlo hhi ⊢
  interval_cases n <;> rfl

/-! ### The choice (R120) -/

/-- The choice is the first speed whose effective rate reaches the demand; where none does, it is 5. -/
theorem chooseSpeed_spec (s : State) (d : Nat) :
    (d ≤ effectiveRate s (chooseSpeed s d) ∧ ∀ j, j < chooseSpeed s d → effectiveRate s j < d)
      ∨ (chooseSpeed s d = 5 ∧ ∀ j, j ≤ 5 → effectiveRate s j < d) := by
  unfold chooseSpeed
  cases h : (List.range 6).find? (fun k => decide (d ≤ effectiveRate s k)) with
  | none =>
    refine .inr ⟨rfl, fun j hj => ?_⟩
    simpa using List.find?_eq_none.1 h j (List.mem_range.2 (by omega))
  | some k =>
    obtain ⟨hk, -, hlower⟩ := List.find?_range_eq_some.1 h
    exact .inl ⟨by simpa using hk, fun j hj => by simpa using hlower j hj⟩

theorem effectiveRate_lt_of_lt_chooseSpeed {s : State} {d j : Nat} (hj : j < chooseSpeed s d) : effectiveRate s j < d := by
  rcases chooseSpeed_spec s d with ⟨-, hlower⟩ | ⟨-, hnone⟩
  · exact hlower j hj
  · exact hnone j (hj.le.trans (chooseSpeed_le s d))

theorem le_effectiveRate_chooseSpeed {s : State} {d j : Nat} (hj : j ≤ 5) (hd : d ≤ effectiveRate s j) :
    d ≤ effectiveRate s (chooseSpeed s d) := by
  rcases chooseSpeed_spec s d with ⟨hreach, -⟩ | ⟨-, hnone⟩
  · exact hreach
  · exact absurd (hnone j hj) (Nat.not_lt.2 hd)

theorem chooseSpeed_of_none_reaches {s : State} {d : Nat} (h : ∀ j, j ≤ 5 → effectiveRate s j < d) :
    chooseSpeed s d = 5 := by
  rcases chooseSpeed_spec s d with ⟨hreach, -⟩ | ⟨hfive, -⟩
  · exact absurd (h _ (chooseSpeed_le s d)) (Nat.not_lt.2 hreach)
  · exact hfive

theorem chooseSpeed_zero (s : State) : chooseSpeed s 0 = 0 :=
  Nat.eq_zero_of_not_pos fun hpos => Nat.not_lt_zero _ (effectiveRate_lt_of_lt_chooseSpeed hpos)

/-! ### The next speed and the down vote (R121) -/

theorem applyChoice_above {k : Nat} {s : State} (h : s.mot.speed < k) :
    applyChoice k s = { s with spm.lastChoice := some k, spm.next := k, spm.vote := none,
                               spm.rises := min (s.spm.rises + 1) 4294967295 } := if_pos h

theorem applyChoice_same {k : Nat} {s : State} (h : k = s.mot.speed) :
    applyChoice k s = { s with spm.lastChoice := some k, spm.next := s.mot.speed, spm.vote := none } := by
  have hle : ¬ s.mot.speed < k := by omega
  simp only [applyChoice, if_neg hle, if_pos h]

theorem applyChoice_below_first {k : Nat} {s : State} (h : k < s.mot.speed) (hv : s.spm.vote = none) :
    applyChoice k s = { s with spm.lastChoice := some k, spm.next := s.mot.speed, spm.vote := some k } := by
  have hle : ¬ s.mot.speed < k := by omega
  simp only [applyChoice, if_neg hle, if_neg (Nat.ne_of_lt h), hv]

theorem applyChoice_below_again {k v : Nat} {s : State} (h : k < s.mot.speed) (hv : s.spm.vote = some v) :
    applyChoice k s = { s with spm.lastChoice := some k, spm.next := max k v, spm.vote := none,
                               spm.falls := min (s.spm.falls + 1) 4294967295 } := by
  have hle : ¬ s.mot.speed < k := by omega
  simp only [applyChoice, if_neg hle, if_neg (Nat.ne_of_lt h), hv, bump]

/-- The four rows of R121's table: what a choice makes of the next speed and the vote; the rate and MOT's speed stay. -/
theorem applyChoice_cases (k : Nat) (s : State) :
    (applyChoice k s).spm.rate = s.spm.rate ∧ (applyChoice k s).mot = s.mot
      ∧ ((s.mot.speed < k ∧ (applyChoice k s).spm.next = k ∧ (applyChoice k s).spm.vote = none)
        ∨ (k = s.mot.speed ∧ (applyChoice k s).spm.next = s.mot.speed ∧ (applyChoice k s).spm.vote = none)
        ∨ (k < s.mot.speed ∧ (applyChoice k s).spm.next = s.mot.speed ∧ (applyChoice k s).spm.vote = some k)
        ∨ (k < s.mot.speed ∧ (applyChoice k s).spm.vote = none
            ∧ ∃ v, s.spm.vote = some v ∧ (applyChoice k s).spm.next = max k v)) := by
  rcases Nat.lt_trichotomy s.mot.speed k with h | h | h
  · rw [applyChoice_above h]
    exact ⟨rfl, rfl, .inl ⟨h, rfl, rfl⟩⟩
  · rw [applyChoice_same h.symm]
    exact ⟨rfl, rfl, .inr (.inl ⟨h.symm, rfl, rfl⟩)⟩
  · cases hv : s.spm.vote with
    | none =>
      rw [applyChoice_below_first h hv]
      exact ⟨rfl, rfl, .inr (.inr (.inl ⟨h, rfl, rfl⟩))⟩
    | some v =>
      rw [applyChoice_below_again h hv]
      exact ⟨rfl, rfl, .inr (.inr (.inr ⟨h, rfl, v, rfl, rfl⟩))⟩

@[simp] theorem applyChoice_rate (k : Nat) (s : State) : (applyChoice k s).spm.rate = s.spm.rate :=
  (applyChoice_cases k s).1

@[simp] theorem applyChoice_mot (k : Nat) (s : State) : (applyChoice k s).mot = s.mot := (applyChoice_cases k s).2.1

theorem applyChoice_next_le {k : Nat} {s : State} (h : Sound s) (hk : k ≤ 5) : (applyChoice k s).spm.next ≤ 5 := by
  obtain ⟨-, -, -, -, hnext, -⟩ := ((applyChoice_kept (Kept.refl s) k hk).sound h).speeds
  exact hnext

theorem applyChoice_vote_lt {k v : Nat} {s : State} (hv : (applyChoice k s).spm.vote = some v) : v < s.mot.speed := by
  obtain ⟨-, -, ⟨-, -, h⟩ | ⟨-, -, h⟩ | ⟨hk, -, h⟩ | ⟨-, h, -⟩⟩ := applyChoice_cases k s
  · exact absurd (h.symm.trans hv) nofun
  · exact absurd (h.symm.trans hv) nofun
  · exact Option.some.inj (h.symm.trans hv) ▸ hk
  · exact absurd (h.symm.trans hv) nofun

/-! ### A sample used -/

/-- The choice is made on the state before the sample: what the sample changes, no effective rate reads. -/
theorem useSample_eq (sample waiting : Nat) (s : State) :
    let r := smooth s.spm.rate sample
    let x := demand s.spm.session r waiting s.bsm.frames.length
    useSample sample waiting s =
      applyChoice (chooseSpeed s x) { s with spm.rate := r, spm.lastSample := some sample, spm.lastDemand := some x } := rfl

@[simp] theorem useSample_rate (sample waiting : Nat) (s : State) :
    (useSample sample waiting s).spm.rate = smooth s.spm.rate sample := by
  rw [useSample_eq, applyChoice_rate]

/-! ### What the head care evaluation leaves of the speed matcher -/

@[simp] theorem retireOrFence_spm (c score : Nat) (s : State) : (retireOrFence c score s).spm = s.spm := by
  unfold retireOrFence retireChannel fenceHead
  split
  · exact raise_spm ..
  · split
    · rfl
    · exact raise_spm ..

@[simp] theorem retirementTest_spm (cs : List (Nat × Channel)) (s : State) : (retirementTest cs s).spm = s.spm := by
  induction cs generalizing s with
  | nil => rfl
  | cons c cs ih => exact (ih _).trans (retireOrFence_spm ..)

@[simp] theorem wornTest_spm (s : State) : (wornTest s).spm = s.spm := by
  unfold wornTest
  split
  · exact raise_spm ..
  · rfl

@[simp] theorem raiseCall_spm (call : CleanCall) (cause : Nat) (s : State) : (raiseCall call cause s).spm = s.spm :=
  raise_spm ..

@[simp] theorem callTest_spm (s : State) : (callTest s).spm = s.spm := by
  unfold callTest
  split
  · split
    · split
      · exact (wornTest_spm _).trans (raiseCall_spm ..)
      · exact raiseCall_spm ..
    · rfl
  · rfl

@[simp] theorem evaluate_spm (s : State) : (evaluate s).spm = s.spm :=
  (callTest_spm _).trans (retirementTest_spm _ s)

@[simp] theorem applyCleaning_spm (s : State) : (applyCleaning s).spm = s.spm := evaluate_spm _

/-! ### The statements -/

/-- Settles O57, by the two forms of the smoothing, for a sample above the rate and for one below it. -/
theorem rateIsSmoothed : Obligations.RateIsSmoothed := by
  refine ⟨fun sample waiting s => ?_, fun kind s h => ⟨rfl, effectiveRate_le h _⟩, fun p t => sampleOf_le⟩
  rw [useSample_rate]
  exact ⟨rfl, smoothed_nonneg _ _, smooth_of_near, smooth_rises, smooth_falls,
    fun hr hx => (smooth_le_max _ _).trans (max_le hr hx), min_le_left _ _⟩

/-- Settles O58, by the facts about the demand, the effective rates, the choice and R121's table above. -/
theorem speedIsChosen : Obligations.SpeedIsChosen := by
  intro k d s h
  obtain ⟨-, hn, hlo, -⟩ := h.head
  have hhi := h.channels_le
  refine ⟨fun sample waiting => useSample_eq sample waiting s,
    fun r waiting => ⟨demand_write r waiting _, demand_read r waiting _⟩, fun _ => rfl, hn, hlo, hhi,
    fun _ _ => effectiveRate_mono h, fun _ _ => rfl, fun _ => rfl, rfl, evaluate_spm s, applyCleaning_spm s,
    fun ht => effectiveRate_default ht hlo hhi, chooseSpeed_le s d, fun _ => effectiveRate_lt_of_lt_chooseSpeed,
    fun ⟨_, hj, hd⟩ => le_effectiveRate_chooseSpeed hj hd, chooseSpeed_of_none_reaches,
    fun hd => hd ▸ chooseSpeed_zero s, applyChoice_above, applyChoice_same, applyChoice_below_first,
    fun _ => applyChoice_below_again, applyChoice_next_le h, fun _ hv => ?_⟩
  rw [applyChoice_mot]
  exact applyChoice_vote_lt hv

end Sys2Proof.Machine
end

section
/-! SUPPORT. The two lines (R175): their bits and those of the alert set, what a soft reset leaves of EXU and of its alert
set, and the statement about them. -/

namespace Sys2Proof.Machine

/-! ### The lines bit by bit -/

theorem bne_zero_iff_exists_getLsbD {w : Nat} {v : BitVec w} : (v != 0) = true ↔ ∃ i : Nat, i < w ∧ v.getLsbD i = true := by
  simp [BitVec.eq_of_getLsbD_eq_iff]

theorem alert_iff (s : State) :
    alert s = true ↔ ∃ i : Nat, i < 15 ∧ s.exu.cond.getLsbD i = true ∧ s.exu.alertSet.getLsbD i = true := by
  unfold alert
  rw [bne_zero_iff_exists_getLsbD]
  simp only [BitVec.getLsbD_and, Bool.and_eq_true]

theorem attn_iff (s : State) :
    attn s = true ↔ ∃ i : Nat, i < 15 ∧ s.exu.cond.getLsbD i = true ∧ s.exu.alertSet.getLsbD i = false := by
  unfold attn
  rw [bne_zero_iff_exists_getLsbD]
  refine exists_congr fun i => and_congr_right fun hi => ?_
  simp [hi]

/-! ### The bits of the alert set (R163) -/

/-- Halving and doubling a value clears its bit 0 and no other. -/
theorem testBit_div_two_mul_two (v i : Nat) : (v / 2 * 2).testBit i = (decide (0 < i) && v.testBit i) := by
  cases i with
  | zero => simp
  | succ i => rw [Nat.testBit_succ, Nat.mul_div_cancel _ (by decide), Nat.testBit_div_two]; simp

theorem alertSetOf_getLsbD (v i : Nat) :
    (alertSetOf v).getLsbD i = (decide (i < 15) && (decide (0 < i) && v.testBit i)) := by
  rw [alertSetOf, BitVec.getLsbD_ofNat, testBit_div_two_mul_two]

/-- COMPLETIONS is in no alert set given. -/
theorem alertSetOf_completions (v : Nat) : (alertSetOf v).getLsbD 0 = false := by
  rw [alertSetOf_getLsbD]; rfl

theorem alertSetOf_condition (v : Nat) {i : Nat} (h0 : 0 < i) (h : i < 15) : (alertSetOf v).getLsbD i = v.testBit i := by
  rw [alertSetOf_getLsbD, decide_eq_true h, decide_eq_true h0, Bool.true_and, Bool.true_and]

/-! ### A TUNE (R194) -/

@[simp] theorem applyTunables_cond (n : Named) (frames : Nat) (s : State) :
    (applyTunables n frames s).exu.cond = s.exu.cond := rfl

theorem applyTunables_alertSet_of_named {n : Named} {v : Nat} (h : namedAt n 10 = some v) (frames : Nat) (s : State) :
    (applyTunables n frames s).exu.alertSet = alertSetOf v := by
  simp only [applyTunables, setThresholds, h]

/-! ### A soft reset (R177): of EXU, the other blocks change what a raise of DATA_DISCARDED changes alone -/

@[simp] theorem exclusionEnd_exu (s : State) : (exclusionEnd s).exu = s.exu := by
  unfold exclusionEnd
  split <;> rfl

@[simp] theorem cmpLose_exu (s : State) : (cmpLose s).exu = s.exu := by
  unfold cmpLose
  split
  · exact exclusionEnd_exu s
  · rfl

@[simp] theorem beginWriteSession_exu (s : State) : (beginWriteSession s).exu = s.exu := by
  unfold beginWriteSession
  split <;> rfl

@[simp] theorem openFrameAt_exu (i : Nat) (s : State) : (openFrameAt i s).exu = s.exu := by
  unfold openFrameAt
  rw [beginWriteSession_exu]
  by_cases h : s.bsm.mode = .write
  · rw [if_pos h]; rfl
  · rw [if_neg h]; rfl

@[simp] theorem handFrame_exu (i : Nat) (s : State) : (handFrame i s).exu = s.exu := by
  unfold handFrame
  split
  · rfl
  · rw [emit_exu, openFrameAt_exu, exclusionEnd_exu]

@[simp] theorem tellRdc_exu (s : State) : (tellRdc s).exu = s.exu := by
  unfold tellRdc
  split <;> rfl

@[simp] theorem serveCmp_exu (s : State) : (serveCmp s).exu = s.exu := by
  unfold serveCmp
  split
  · split
    · exact handFrame_exu ..
    · rfl
  · rfl

@[simp] theorem settleMode_exu (s : State) : (settleMode s).exu = s.exu := by
  unfold settleMode
  split
  · split
    · rfl
    · exact tellRdc_exu _
  · split
    · rfl
    · exact serveCmp_exu _
  · rfl

@[simp] theorem discardReport_alertSet (lost : List Frame) (s : State) :
    (discardReport lost s).exu.alertSet = s.exu.alertSet := by
  unfold discardReport
  split
  · rfl
  · exact raise_exu_alertSet ..

@[simp] theorem discardAll_alertSet (s : State) : (discardAll s).exu.alertSet = s.exu.alertSet := by
  unfold discardAll
  rw [settleMode_exu, cmpLose_exu, discardReport_alertSet]

@[simp] theorem endWait_exu (s : State) : (endWait s).exu = s.exu := by
  unfold endWait
  split
  · exact exclusionEnd_exu _
  · rfl

@[simp] theorem dcpClear_exu (s : State) : (dcpClear s).exu = s.exu := endWait_exu s

@[simp] theorem dropRebuild_exu (s : State) : (dropRebuild s).exu = s.exu := by
  unfold dropRebuild
  split <;> rfl

@[simp] theorem abandonThreading_exu (s : State) : (abandonThreading s).exu = s.exu := by
  unfold abandonThreading
  split <;> rfl

@[simp] theorem motSoftReset_exu (s : State) : (motSoftReset s).exu = s.exu := by
  unfold motSoftReset
  dsimp only
  cases (motRelease s).mot.state with
  | travel => dsimp only; split <;> rfl
  | threading => exact abandonThreading_exu _
  | _ => rfl

/-- After EXU's own reset only the discard of the store changes EXU. -/
theorem softResetState_exu (s : State) :
    (softResetState s).exu = (bsmSoftReset (ordSoftReset (exuSoftReset s))).exu :=
  calc (softResetState s).exu
    _ = (cmlSoftReset (spmSessionReset (dcpClear (rdcClear (fmtReset
          (marbSoftReset (bsmSoftReset (ordSoftReset (exuSoftReset s))))))))).exu := motSoftReset_exu _
    _ = (dcpClear (rdcClear (fmtReset
          (marbSoftReset (bsmSoftReset (ordSoftReset (exuSoftReset s))))))).exu := dropRebuild_exu _
    _ = (bsmSoftReset (ordSoftReset (exuSoftReset s))).exu := dcpClear_exu _

theorem softResetState_alertSet (s : State) : (softResetState s).exu.alertSet = s.exu.alertSet := by
  rw [softResetState_exu]
  exact discardAll_alertSet _

/-! ### The statement -/

/-- Settles O25, by the bits of the two lines and of the alert set, and by what a TUNE and the resets make of it. -/
theorem linesFollowCond : Obligations.LinesFollowCond := by
  intro x s
  exact ⟨alert_iff s, attn_iff s, fun v => ⟨alertSetOf_completions v, fun _ => alertSetOf_condition v⟩,
    fun hroute hset => (attn_iff s).2 ⟨0, by decide, hset, hroute⟩,
    fun n frames v h => ⟨applyTunables_alertSet_of_named h frames s, applyTunables_cond n frames s⟩,
    softResetState_alertSet s, rfl⟩

end Sys2Proof.Machine
end

section
/-! SUPPORT. Every command but the two hard resets keeps structural soundness, the queue and the timebase; a hard reset
keeps the first two. From this: what every step keeps. -/

namespace Sys2Proof.Machine

/-! ### The hard resets and the passing of time -/

/-- After a hard reset only memory, which is kept, and MOT, unlocked at speed 0 whatever the sensors give, are not those of
the state after reset. -/
theorem sound_hardReset {s : State} (sensors : Sensors) (h : Memory.wf s.mem = true) :
    Sound (hardResetState sensors s) where
  memory := h
  head := by change HeadCareSound Hcm.hardReset; decide
  speeds := by change SpeedSound Spm.hardReset.table 0 Spm.hardReset.next Spm.hardReset.vote; decide
  lock := by change LockSound .unlocked 0; decide
  buffers := by change BuffersSound [] none [] 0; decide
  grants := by change GrantsSound Marb.hardReset.lastTape Marb.hardReset.lastGeneral; decide
  store := storeSound_nil _

/-- A millisecond that passes changes nothing that soundness speaks of. -/
theorem sound_tick {s : State} (h : Sound s) : Sound (tick s) := h

/-! ### Each command keeps what `Kept` says -/

section
variable {s t : State}

/-- The state that a command leaves which never stops. -/
theorem next_kept {x : State} (h : (.next x : Host.Outcome State Fault Refusal) = .next t) (hx : Kept s x) : Kept s t := by
  cases h; exact hx

/-- An event of a guarded command: nothing out of its guard. -/
theorem guarded_kept {c : Prop} [Decidable c] {x : State} (hx : Kept s x) : Kept s (if c then finish x else s) :=
  kept_ite (finish_kept hx) (.refl s)

theorem execBinding_kept {v : Word} (h : execBinding v s = .next t) : Kept s t :=
  next_kept h (kept_ite (raise_kept (.refl s) _ _ _ _) (kept_ite (.refl s)
    (kept_ite (grant_kept (beginBinding_kept (.refl s) _)) (.refl s))))

theorem execSetupRecordRead_kept (h : execSetupRecordRead s = .next t) : Kept s t := by
  unfold execSetupRecordRead at h
  split at h
  · split at h
    · exact next_kept h (setupBad_kept (.refl s) _ _)
    · rename_i hf
      exact next_kept h (finish_kept (completeBinding_kept (.refl s) _ _ hf))
  · exact next_kept h (.refl s)
  · exact next_kept h (.refl s)

theorem execPost_kept {v : Word} (h : execPost v s = .next t) : Kept s t :=
  next_kept h (kept_ite (.refl s) (kept_ite (raise_kept (.refl s) _ _ _ _) (lookForOrder_kept (s0 := s) (.refl s))))

theorem execQuietTimerExpiry_kept (h : execQuietTimerExpiry s = .next t) : Kept s t :=
  next_kept h (kept_ite (.refl s)
    (kept_ite (a := { s with exu.quietTimer := none }) (.refl s) (raiseCompletions_kept (.refl s))))

theorem execAbort_kept {v : Word} (h : execAbort v s = .next t) : Kept s t :=
  next_kept h (kept_ite (.refl s) (finish_kept (abortTicket_kept (s0 := s) (s := { s with exu.lastAbort := v.setWidth 16 }) (.refl s) _)))

theorem execWindowAccess_kept {addr : Word} {len : AccessLen} {w : Option Word}
    (h : execWindowAccess addr len w s = .next t) : Kept s t := by
  unfold execWindowAccess at h
  split at h
  · split at h
    · cases h
    · cases w with
      | none => exact next_kept h (grant_kept (raiseRead_kept (.refl s) _ _ _ _))
      | some v => exact next_kept h (grant_kept (raiseWrite_kept (.refl s) _ _ _ _))
  · cases w with
    | none => exact next_kept h (.refl s)
    | some v => cases h

theorem execBurstDone_kept (h : execBurstDone s = .next t) : Kept s t := by
  unfold execBurstDone at h
  split at h
  · exact next_kept h (finish_kept (endBurst_kept (.refl s) _))
  · exact next_kept h (.refl s)

theorem execRowTimeBoundary_kept (h : execRowTimeBoundary s = .next t) : Kept s t := by
  unfold execRowTimeBoundary at h
  split at h
  · exact next_kept h (finish_kept (rowBoundary_kept (.refl s) _))
  · exact next_kept h (.refl s)

theorem execVerifyResult_kept {r : VerifyOutcome} (h : execVerifyResult r s = .next t) : Kept s t :=
  next_kept h (kept_ite (.refl s) (finish_kept (afterResult_kept (takeResult_kept (.refl s) r))))

theorem execReadHeadOutcome_kept {heads : List (Fin 16 × HeadOutcome)} (h : execReadHeadOutcome heads s = .next t) :
    Kept s t := by
  unfold execReadHeadOutcome at h
  split at h
  · split at h
    · split at h
      · refine next_kept h (finish_kept (kept_ite ?_ (.refl s)))
        exact sessionRowTime_kept (noteRowTime_kept (.refl s) _) _ _ _
      · exact next_kept h (finish_kept (readRowTime_kept (countRows_kept (countUnreadable_kept (.refl s) _) _ _) _ _ _))
    · exact next_kept h (.refl s)
  · cases h

theorem execServoFrame_kept {good : Bool} (h : execServoFrame good s = .next t) : Kept s t :=
  next_kept h (guarded_kept (kept_ite (inTolerance_kept (.refl s)) (outOfTolerance_kept (.refl s))))

theorem execWorkingTension_kept {g : Geometry} (h : execWorkingTension g s = .next t) : Kept s t :=
  next_kept h (kept_ite (finish_kept (threadingDone_kept (.refl s) g)) (kept_ite (finish_kept (retensioned_kept (.refl s)))
    (kept_ite (recoveryRewind_kept (.refl s) g) (.refl s))))

theorem execCmAttemptTimeout_kept (h : execCmAttemptTimeout s = .next t) : Kept s t := by
  unfold execCmAttemptTimeout at h
  split at h
  · exact next_kept h (finish_kept (failAttempt_kept (.refl s) _))
  · exact next_kept h (.refl s)

/-- An order's command: the checks of R179 on an order of its kind, and its beginning. -/
theorem order_kept {k : Kind} {begin' : OrderRec → State → State}
    (h : (.next (finish (runOrder k begin' s)) : Host.Outcome State Fault Refusal) = .next t)
    (hb : ∀ r {x : State}, Kept s x → Kept s (begin' r x)) : Kept s t :=
  next_kept h (finish_kept (runOrder_kept (.refl s) k hb))

/-- What each command keeps that is no hard reset: soundness, the queue behind it and the timebase. -/
theorem exec_kept {c : Instr} (hr : ¬∃ x, c = .powerOnReset x ∨ c = .hardReset x) (h : exec c s = .next t) :
    Kept s t := by
  cases c with
  | powerOnReset x => exact absurd ⟨x, .inl rfl⟩ hr
  | hardReset x => exact absurd ⟨x, .inr rfl⟩ hr
  | softReset => exact next_kept h (finish_kept (softResetState_kept (.refl s)))
  | registerWriteIgnored addr len v =>
    change execRegisterWriteIgnored addr len v s = _ at h
    unfold execRegisterWriteIgnored at h
    split at h
    · exact next_kept h (.refl s)
    · cases h
  | binding v => exact execBinding_kept h
  | setupRecordRead => exact execSetupRecordRead_kept h
  | post v => exact execPost_kept h
  | quietTimerExpiry => exact execQuietTimerExpiry_kept h
  | cond v => exact next_kept h (.refl s)
  | abort v => exact execAbort_kept h
  | windowAccess addr len w => exact execWindowAccess_kept h
  | burstDone => exact execBurstDone_kept h
  | write => exact order_kept h fun r _ hx => beginWriting_kept hx r
  | mark => exact order_kept h fun r _ hx => beginWriting_kept hx r
  | flush => exact order_kept h fun r _ hx => beginFlush_kept hx r
  | read => exact order_kept h fun r _ hx => beginRead_kept hx r
  | space => exact order_kept h fun r _ hx => beginPositioning_kept hx r
  | locate => exact order_kept h fun r _ hx => beginPositioning_kept hx r
  | rewind => exact order_kept h fun r _ hx => beginPositioning_kept hx r
  | load => exact order_kept h fun r _ hx => beginLoad_kept hx r
  | unload => exact order_kept h fun r _ hx => beginUnload_kept hx r
  | tune => exact order_kept h fun r _ hx => beginTune_kept hx r
  | report => exact order_kept h fun r _ hx => beginReport_kept hx r
  | check => exact order_kept h fun r _ hx => beginCheck_kept hx r
  | chunkCommit => exact next_kept h (finish_kept (commitCandidate_kept (.refl s)))
  | idleTimerExpiry => exact next_kept h (finish_kept (idleExpiry_kept (.refl s)))
  | rowTimeBoundary => exact execRowTimeBoundary_kept h
  | verifyResult r => exact execVerifyResult_kept h
  | readHeadOutcome heads => exact execReadHeadOutcome_kept h
  | blankRunLimit => exact next_kept h (guarded_kept (blankLimit_kept (.refl s)))
  | decodeEntry => exact next_kept h (finish_kept (decodeEntryNow_kept (.refl s)))
  | servoFrame good => exact execServoFrame_kept h
  | lockLimitTimerExpiry => exact next_kept h (guarded_kept (emergencyStop_kept (.refl s) _ _ _))
  | cartridgeSeated tab => exact next_kept h (kept_ite (seatCartridge_kept (.refl s) tab) (.refl s))
  | cartridgeRemoved =>
    exact next_kept h (guarded_kept (kept_ite (cartridgeEjected_kept (.refl s)) (cartridgeTaken_kept (.refl s))))
  | leaderCaptured => exact next_kept h (kept_ite (enterPath_kept (.refl s)) (.refl s))
  | captureTimerExpiry => exact next_kept h (guarded_kept (captureOver_kept (.refl s)))
  | leaderAttached => exact next_kept h (kept_ite (enterTensioning_kept (.refl s)) (.refl s))
  | pathTimerExpiry => exact next_kept h (kept_ite (enterUnthreading_kept (.refl s) _) (.refl s))
  | workingTension g => exact execWorkingTension_kept h
  | leaderHome => exact next_kept h (guarded_kept (leaderIsHome_kept (.refl s)))
  | unthreadTimerExpiry => exact next_kept h (guarded_kept (unthreadFailed_kept (.refl s)))
  | tensionFault => exact next_kept h (guarded_kept (emergencyStop_kept (.refl s) _ _ _))
  | dwellTimerExpiry => exact next_kept h (kept_ite (relaxTape_kept (.refl s)) (.refl s))
  | tapeAtRest => exact next_kept h (guarded_kept (atRest_kept (.refl s)))
  | runUpPointReached => exact next_kept h (guarded_kept (arriveRunUp_kept (.refl s) _))
  | travelArrival => exact next_kept h (guarded_kept (travelArrives_kept (.refl s)))
  | turnDone => exact next_kept h (guarded_kept (turnEnds_kept (turnedHeads_kept (.refl s))))
  | botSensor => exact next_kept h (guarded_kept (recoveryEnds_kept (.refl s)))
  | cmAnswer r => exact next_kept h (guarded_kept (answerAccess_kept (.refl s) r))
  | cmAttemptTimeout => exact execCmAttemptTimeout_kept h
  | motionSecond => exact next_kept h (guarded_kept (takeSecond_kept (.refl s)))

end

/-! ### The statements -/

/-- Every command keeps soundness, the hard resets too. -/
theorem exec_sound {c : Instr} {s t : State} (h0 : Sound s) (h : exec c s = .next t) : Sound t := by
  by_cases hr : ∃ x, c = .powerOnReset x ∨ c = .hardReset x
  · obtain ⟨x, rfl | rfl⟩ := hr <;> cases h <;> exact sound_hardReset x h0.memory
  · exact (exec_kept hr h).sound h0

/-- Settles O4: a step is a command on the state with the queue's rest, which is as sound, or a millisecond. -/
theorem stepKeepsSound : Obligations.StepKeepsSound := by
  intro s t h0 h
  cases hq : s.pending with
  | nil =>
    rw [step, hq] at h
    cases h
    exact sound_tick h0
  | cons c rest =>
    rw [step, hq] at h
    exact exec_sound (s := { s with pending := rest }) h0 h

/-- Settles O5: a hard reset leaves the queue as it was; every other command keeps both, by `exec_kept`. -/
theorem commandsKeepQueueAndTimebase : Obligations.CommandsKeepQueueAndTimebase := by
  intro c s t h
  by_cases hr : ∃ x, c = .powerOnReset x ∨ c = .hardReset x
  · obtain ⟨x, rfl | rfl⟩ := hr
    · cases h
      exact ⟨rfl, fun hp => absurd rfl (hp x)⟩
    · cases h
      exact ⟨rfl, fun _ hh => absurd rfl (hh x)⟩
  · exact ⟨(exec_kept hr h).queue, fun _ _ => (exec_kept hr h).clock⟩

/-- Settles O3: the state after reset is one that a hard reset leaves, without a cartridge. -/
theorem resetIsSound : Obligations.ResetIsSound := sound_hardReset (s := State.reset) ⟨false, false, false, false⟩ rfl

/-- Settles O1, by the definition of a step. -/
theorem stepRunsFrontCommand : Obligations.StepRunsFrontCommand := fun _ _ _ => rfl

/-- Settles O2: with an empty queue a step is a tick. -/
theorem idleStepCountsMillisecond : Obligations.IdleStepCountsMillisecond := by
  intro s hq
  exact ⟨tick s, by rw [step, hq], rfl, rfl, rfl, rfl⟩

end Sys2Proof.Machine
end

section
/-! SUPPORT. Calm states and states at rest over the changes that EXU's accesses make; a raise and a completion of the TAKEN
order at a memory port at rest, as all that an event brings. -/

namespace Sys2Proof.Machine

variable {s : State}

/-! ### What calm states are indifferent to -/

/-- Calm does not look at memory, at EXU, or at the last grants. -/
theorem Calm.exchange (h : Calm s) (m : Memory) (e : Exu) (g1 : Requester) (g2 : Group) :
    Calm { s with mem := m, exu := e, marb.lastGeneral := g1, marb.lastGroup := g2 } :=
  ⟨h.sig, h.fmt, h.rdc, h.dcp, h.cml⟩

theorem Calm.raise (h : Calm s) (c : Condition) (a b d : Nat) : Calm (raise c a b d s) := by
  obtain ⟨m, e, g1, g2, hr⟩ := raise_frame c a b d s
  rw [hr]
  exact h.exchange m e g1 g2

/-- EXU has no access that waits after a raise at a port at rest, and the port is at rest. -/
theorem portAtRest_raise (h : portAtRest s) (c : Condition) (a b d : Nat) : portAtRest (raise c a b d s) := by
  refine ⟨by rw [raise_marb_transfers]; exact h.1, by rw [raise_marb_burst]; exact h.2.1, ?_⟩
  by_cases hb : s.exu.bind = .unbound
  · rw [raise_unbound hb, noteRaise_unbound_work hb]; exact h.2.2
  · rw [raise_rest h hb]
    unfold counted keepLatest setCond writeCell recordExuGrant
    split_ifs <;> exact h.2.2

theorem finish_raise (h : Calm s) (hp : portAtRest s) (c : Condition) (a b d : Nat) :
    finish (raise c a b d s) = raise c a b d s := by
  rw [finish_calm (h.raise c a b d), grant_atRest (portAtRest_raise hp c a b d)]

/-- A raise noted at a port at rest has its cell written as soon as EXU's accesses are done. -/
theorem serveFree_noteRaise (h : portAtRest s) (c : Condition) (a b d : Nat) :
    serveFree (noteRaise c a b d s) = raise c a b d s := by
  by_cases hb : s.exu.bind = .unbound
  · rw [raise_unbound hb, serveFree_none ((noteRaise_unbound_work hb).trans h.2.2)]
  · have hn : raise c a b d s = serveOne (noteRaise c a b d s) := by
      unfold raise; rw [if_pos (by simp [portFree_rest h, exuWaits, h.2.2])]
    obtain ⟨w, hw⟩ : ∃ w, (noteRaise c a b d s).exu.work = [w] := by
      rw [noteRaise_bound_eq hb]
      unfold queueWork counted keepLatest
      split_ifs <;> exact ⟨_, congrArg (· ++ _) h.2.2⟩
    have hf : portFree (noteRaise c a b d s) = true := by
      obtain ⟨e, he⟩ := noteRaise_frame c a b d s
      rw [he]
      exact (portFree_marb (y := s) rfl rfl).trans (portFree_rest h)
    have he : serveOne (noteRaise c a b d s)
        = perform w (recordExuGrant { noteRaise c a b d s with exu.work := [] }) := by
      unfold serveOne; rw [hw]
    rw [hn, serveFree_step hf hw, ← he, serveFree_none]
    rw [← hn]; exact (portAtRest_raise h c a b d).2.2

/-- A grant to EXU recorded before a raise is the one that the raise records. -/
theorem raise_recordExuGrant (h : portAtRest s) (hb : s.exu.bind ≠ .unbound) (c : Condition) (a b d : Nat) :
    raise c a b d (recordExuGrant s) = raise c a b d s := by
  rw [raise_rest h hb, raise_rest (s := recordExuGrant s) h hb]
  unfold counted keepLatest
  split_ifs <;> rfl

end Sys2Proof.Machine
end

section
/-! SUPPORT. The processor port and the exchange unit's registers: resets, binding requests, POST, ABORT, COND, the quiet
timer, register reads and window accesses. -/

namespace Sys2Proof.Machine

/-! ### Resets and writes that are disregarded -/

/-- Settles O6: each block's hard reset value, read off field by field. -/
theorem Statements.hardResetState : Obligations.HardResetState := by
  intro x s
  refine ⟨Machine.hardResetState x s, rfl, rfl, rfl, rfl, rfl, rfl, rfl, rfl, rfl, ?_, ?_,
    rfl, rfl, rfl, rfl, rfl, rfl, rfl, rfl, rfl, rfl, rfl, rfl, rfl, rfl, rfl, ?_, ?_, rfl, rfl, rfl, rfl, rfl, rfl, rfl, rfl⟩
  · change (Exu.hardReset.cond &&& Exu.hardReset.alertSet != 0) = false
    decide
  · change (Exu.hardReset.cond &&& ~~~Exu.hardReset.alertSet != 0) = false
    decide
  · obtain ⟨present, home, attached, tab⟩ := x
    cases present <;> rfl
  · obtain ⟨present, home, attached, tab⟩ := x
    cases present <;> rfl

/-- Settles O8, by the cases of an address below memory's end, of a register that takes a write, and of the others. -/
theorem ignoredWriteChangesNothing : Obligations.IgnoredWriteChangesNothing := by
  intro addr len v s
  have hm : memoryBytes = 1073741824 := rfl
  change (_ → _ → execRegisterWriteIgnored addr len v s = _) ∧ (_ → execRegisterWriteIgnored addr len v s = _)
  unfold execRegisterWriteIgnored
  refine ⟨fun ha h => if_pos ?_, fun h => if_neg ?_⟩
  · simp only [ignoredWrite, Bool.and_eq_true, decide_eq_true_eq, Bool.or_eq_true, Bool.not_eq_true', Bool.or_eq_false_iff,
      decide_eq_false_iff_not, Bool.and_eq_false_iff]
    by_cases hl : len = .four
    · by_cases hv : v = 1 ∨ v = 2
      · have h5 : ¬(addr.toNat = 1073741844 ∧ v ≠ 1 ∧ v ≠ 2) := fun hx => hv.elim hx.2.1 hx.2.2
        simp only [hl, ne_eq, not_true_eq_false, false_or, h5, or_false] at h
        exact ⟨ha, .inr (by omega)⟩
      · refine ⟨ha, .inr ?_⟩
        simp only [hl, ne_eq, not_true_eq_false, false_or] at h
        rw [not_or] at hv
        simp only [hv.1, hv.2, not_false_eq_true, and_self, or_true, and_true]
        omega
    · exact ⟨ha, .inl hl⟩
  · simp only [ignoredWrite, Bool.and_eq_true, decide_eq_true_eq, Bool.or_eq_true, Bool.not_eq_true', Bool.or_eq_false_iff,
      decide_eq_false_iff_not, Bool.and_eq_false_iff]
    rintro ⟨ha, hx⟩
    rcases h with h | ⟨hl, h⟩
    · omega
    · simp only [hl, ne_eq, not_true_eq_false, false_or] at hx
      obtain ⟨⟨⟨⟨h1, h2⟩, h3⟩, h4⟩, h5⟩ := hx
      rcases h with h | h | h | h | ⟨h, hv⟩
      · exact h1 h
      · exact h2 h
      · exact h3 h
      · exact h4 h
      · exact h5.elim (fun hn => hn h) fun hn => hv.elim hn.1 hn.2

/-! ### Binding requests -/

theorem baseOk_iff (a : Nat) : baseOk a = true ↔ a % 4096 = 0 ∧ a + 8192 ≤ 1073741824 := by
  have hm : exchangeBytes = 8192 ∧ memoryBytes = 1073741824 := ⟨rfl, rfl⟩
  simp only [baseOk, Bool.and_eq_true, decide_eq_true_eq, hm.1, hm.2]

/-- Settles O9: the cases of a write to EXBASE; a reading begun at a port at rest is granted its first burst, of all 512
bytes, the address being a multiple of 512. -/
theorem bindingRequest : Obligations.BindingRequest := by
  intro v s
  refine ⟨fun h => ?_, fun h hb => ?_, fun h hb ha => ?_, fun h hb h1 h2 hp => ?_⟩ <;>
    change execBinding v s = _ <;> unfold execBinding
  · rw [if_pos h]
  · rw [if_neg (not_not.2 h), if_pos hb]
  · rw [if_neg (not_not.2 h), if_neg (by simp [hb]), if_neg (fun hx => ha ((baseOk_iff _).1 hx))]
  · rw [if_neg (not_not.2 h), if_neg (by simp [hb]), if_pos ((baseOk_iff _).2 ⟨h1, h2⟩)]
    obtain ⟨ht, hn, hw⟩ := hp
    have hg : grant (beginBinding v.toNat s)
        = portServes ⟨.exu, .setupRecord, false, v.toNat, 512, []⟩ (beginBinding v.toNat s) :=
      grant_single (by simp [beginBinding, raiseRead, addTransfer, ht]) hn hw rfl
    have hl : burstLength ⟨.exu, .setupRecord, false, v.toNat, 512, []⟩ = 512 := by
      simp only [burstLength]; omega
    rw [hg, portServes, hl]
    rfl

/-! ### POST, COND, ABORT, the quiet timer -/

/-- Settles O12, by the first two tests of a write to POST. -/
theorem postOutOfRangeRefused : Obligations.PostOutOfRangeRefused := by
  intro v s
  refine ⟨fun h => ?_, fun h hd => ?_⟩ <;> change execPost v s = _ <;> unfold execPost <;> dsimp only
  · rw [if_pos h]
  · rw [if_neg h, if_pos (c := 16 < ticketDistance s _) hd]

/-- The post mark set, and EXU BOUND (R166). -/
def posted (p : Ticket) (s : State) : State := { s with exu.postMark := p, exu.bind := .bound }

/-- A POST in range sets the post mark and looks for the next order. -/
theorem exec_post {v : Word} {s : State} (hb : s.exu.bind ≠ .unbound)
    (hd : ((v.setWidth 16 : BitVec 16) - s.exu.takenMark).toNat ≤ 16) :
    exec (.post v) s = .next (lookForOrder (posted (v.setWidth 16) s)) := by
  change execPost v s = _
  unfold execPost
  dsimp only
  rw [if_neg hb, if_neg (c := 16 < ticketDistance s _) (Nat.not_lt.2 hd)]
  rfl

/-- No access queued. -/
theorem queueWork_nil (s : State) : queueWork [] s = s := by unfold queueWork; rw [List.append_nil]

/-- At a port at rest the look that is wanted finds the slots POSTED with the ticket after the taken mark. -/
theorem lookForOrder_rest {x : State} (hp : portAtRest x) (hw : lookWanted x = true) :
    lookForOrder x = serveFree (lookScanned (x.exu.takenMark + 1) (postedSlots x (x.exu.takenMark + 1))
      (recordExuGrant x)) := by
  obtain ⟨ht, hn, hx⟩ := hp
  have hl : lookWork x = [.scan .look (x.exu.takenMark + 1) 0 []] := by simp [lookWork, hw, hx]
  unfold lookForOrder
  rw [hl, scan_whole .look (x.exu.takenMark + 1) [] (by simp [portFree, queueWork, ht, hn]) (by simp [queueWork, hx]), queueWork_again hx,
    queueWork_nil]
  rfl

theorem lookWanted_posted {p : Ticket} {s : State} (ha : s.exu.active = none) (hv : p ≠ s.exu.takenMark) :
    lookWanted (posted p s) = true := by
  simp [lookWanted, posted, ha, hv]

/-- A look for the next ticket, not passed over, that no slot holds POSTED stalls EXU. -/
theorem lookScanned_missing {x : State} (hw : lookWanted x = true)
    (hp : x.exu.passedOver.contains (x.exu.takenMark + 1) = false) :
    lookScanned (x.exu.takenMark + 1) [] x = stall (x.exu.takenMark + 1) x := by
  unfold lookScanned
  simp [lookStands, hw, by simpa using hp]

/-- Settles O14: the look finds no slot and stalls EXU, whose EXCHANGE_FAULT is written at the free port. -/
theorem postOfMissingTicketStalls : Obligations.PostOfMissingTicketStalls := by
  intro v s hp hb ha hd hv hpass hnone
  have hw : lookWanted (posted (v.setWidth 16) s) = true := lookWanted_posted ha hv
  have hstalled := raise_recordExuGrant (s := { s with exu.postMark := v.setWidth 16, exu.bind := .stalled }) hp
    (fun h => by cases h) .exchangeFault (s.exu.takenMark + 1).toNat 2 0
  rw [exec_post hb hd, lookForOrder_rest (x := posted (v.setWidth 16) s) hp hw]
  refine congrArg _ (Eq.trans ?_ hstalled)
  rw [← serveFree_noteRaise (s := recordExuGrant { s with exu.postMark := v.setWidth 16, exu.bind := .stalled }) hp]
  refine congrArg serveFree ?_
  have hnone : postedSlots (posted (v.setWidth 16) s) (s.exu.takenMark + 1) = [] := hnone
  exact (congrArg (lookScanned _ · _) hnone).trans
    (lookScanned_missing (x := recordExuGrant (posted (v.setWidth 16) s)) hw hpass)

/-- Settles O15, bit by bit. -/
theorem condWriteClearsBits : Obligations.CondWriteClearsBits := by
  intro v s
  refine ⟨_, rfl, fun i hi => ?_, rfl, rfl⟩
  simp only [BitVec.getLsbD_and, BitVec.getLsbD_not, BitVec.getLsbD_setWidth, hi, decide_true, Bool.true_and]

/-- Settles O16, by the cases of a timer stopped, not yet due, and due. -/
theorem quietTimerExpiry : Obligations.QuietTimerExpiry := by
  intro s
  have hx : exec .quietTimerExpiry s = .next (if !expired s.exu.quietTimer s then s
      else if s.exu.count = 0 then { s with exu.quietTimer := none } else raiseCompletions s) := rfl
  refine ⟨fun h => ?_, fun t h => ?_⟩
  · rw [hx, h]
    rfl
  · have he : expired s.exu.quietTimer s = decide ((s.timebase - t).toNat < 2147483648) := by rw [h]; rfl
    rw [hx, he]
    refine ⟨fun hd => ?_, fun hd hc => ?_, fun hd hc => ?_⟩
    · rw [decide_eq_false (Nat.not_lt.2 hd)]; rfl
    · rw [decide_eq_true hd, if_neg (by decide), if_pos hc]
    · rw [decide_eq_true hd, if_neg (by decide), if_neg (Nat.pos_iff_ne_zero.1 hc)]
      rfl

/-- With no order TAKEN that the ticket may end, the first case of an abort does not hold. -/
theorem abortableKind_none {s : State} {t : Ticket} (h : (∀ slot, s.exu.active ≠ some (slot, t))
    ∨ takenKind s ∈ [none, some .flush, some .unload, some .tune, some .report, some .check]) :
    abortableKind s t = none := by
  unfold abortableKind
  split
  · rename_i slot u hu
    split_ifs with ht
    · subst ht
      rcases h with h | h
      · exact absurd hu (h slot)
      · simp only [List.mem_cons, List.not_mem_nil, or_false] at h
        rcases h with h | h | h | h | h | h <;> rw [h] <;> rfl
    · rfl
  · rfl

/-- At a port at rest the slots of an abort are read at once. -/
theorem serveFree_queueAbort {s : State} (hp : portAtRest s) (t : Ticket) :
    serveFree (queueAbort t s) = serveFree (abortScanned t (postedSlots s t) (recordExuGrant s)) := by
  obtain ⟨ht, hn, hw⟩ := hp
  have hq : queueAbort t s = queueWork [.scan .abort t 0 []] s := by
    unfold queueAbort queueWork; rw [hw]; rfl
  rw [hq, scan_whole .abort t [] (by simp [portFree, queueWork, ht, hn]) (by simp [queueWork, hw]), queueWork_again hw,
    queueWork_nil]
  rfl

/-- At a port at rest an abort of a ticket that no order TAKEN or POSTED ahead has is unmatched. -/
theorem abortTicket_unmatched {s : State} {t : Ticket} (hp : portAtRest s) (hb : s.exu.bind ≠ .unbound)
    (hk : abortableKind s t = none) (hr : aheadOfTaken s t = false ∨ postedSlots s t = []) :
    abortTicket t s = raise .exchangeFault t.toNat 4 0 { s with exu.abortOutcome := 3 } := by
  have hq : serveFree (abortUnmatched t s) = raise .exchangeFault t.toNat 4 0 { s with exu.abortOutcome := 3 } :=
    serveFree_noteRaise (s := { s with exu.abortOutcome := 3 }) hp _ _ _ _
  unfold abortTicket
  rw [hk]
  dsimp only
  split_ifs with ha
  · rw [serveFree_queueAbort hp, hr.resolve_left (by simp [ha])]
    exact (serveFree_noteRaise (s := recordExuGrant { s with exu.abortOutcome := 3 }) hp _ _ _ _).trans
      (raise_recordExuGrant (s := { s with exu.abortOutcome := 3 }) hp hb _ _ _ _)
  · exact hq

/-- A ticket not 1 to 16 ahead of the taken mark. -/
theorem aheadOfTaken_false {s : State} {t : Ticket} (h : t = s.exu.takenMark ∨ 16 < (t - s.exu.takenMark).toNat) :
    aheadOfTaken s t = false := by
  rw [aheadOfTaken, ticketDistance, Bool.and_eq_false_iff]
  rcases h with rfl | h
  · exact .inl (by simp)
  · exact .inr (decide_eq_false (Nat.not_le.2 h))

/-- Settles O17: the abort is unmatched at once, or after slots are read of which none is POSTED with the ticket. -/
theorem abortOfNothing : Obligations.AbortOfNothing := by
  intro v s
  refine ⟨fun h => congrArg _ (if_pos h), fun hc hp hb hk hr => ?_⟩
  have hr' : aheadOfTaken s (v.setWidth 16) = false ∨ postedSlots s (v.setWidth 16) = [] := by
    rcases hr with hr | hr | hr
    · exact .inl (aheadOfTaken_false (.inl hr))
    · exact .inl (aheadOfTaken_false (.inr hr))
    · exact .inr hr
  have hu := abortTicket_unmatched (s := { s with exu.lastAbort := v.setWidth 16 }) hp hb (abortableKind_none hk) hr'
  have hx : Calm { s with exu.lastAbort := v.setWidth 16, exu.abortOutcome := 3 } :=
    hc.exchange s.mem _ s.marb.lastGeneral s.marb.lastGroup
  change execAbort v s = _
  unfold execAbort
  rw [if_neg hb, hu, finish_raise hx hp]

/-! ### Register reads and window accesses -/

/-- A register's value has 32 bits. -/
theorem registerValue_lt (s : State) (addr : Nat) : registerValue s addr < 4294967296 := by
  have h1 := s.exu.postMark.isLt
  have h2 := s.exu.takenMark.isLt
  have h3 := s.exu.lastAbort.isLt
  have h4 := s.exu.cond.isLt
  have h5 : s.exu.outcome.code ≤ 4 := by cases s.exu.outcome <;> simp [BindOutcome.code]
  have h6 : s.exu.bind.code ≤ 2 := by cases s.exu.bind <;> simp [BindState.code]
  have h7 : exbaseValue s < 4294967296 := by
    unfold exbaseValue
    split_ifs <;> omega
  unfold registerValue identValue
  split_ifs <;> omega

/-- The bytes that a read takes of a register fit a word. -/
theorem registerRead_toNat (s : State) (addr : Nat) (len : AccessLen) :
    (registerRead s addr len).toNat = registerValue s (addr / 4 * 4) / 256 ^ (addr % 4) % 256 ^ len.bytes := by
  rw [registerRead, BitVec.toNat_ofNat]
  refine Nat.mod_eq_of_lt (lt_of_lt_of_le (Nat.mod_lt _ (by positivity)) ?_)
  cases len <;> simp [AccessLen.bytes]

/-- A whole register read at its address. -/
theorem registerRead_whole {s : State} {addr : Nat} (h : addr % 4 = 0) :
    (registerRead s addr .four).toNat = registerValue s addr := by
  rw [registerRead_toNat, h, show addr / 4 * 4 = addr by omega]
  have := registerValue_lt s addr
  simp only [AccessLen.bytes, Nat.pow_zero, Nat.div_one]
  omega

/-- Settles O20, by the value of each register and by the bytes that a read takes of it. -/
theorem registerReads : Obligations.RegisterReads := by
  intro addr len s ha
  have hx : ∀ (a : Word) (l : AccessLen), 1073741824 ≤ a.toNat →
      exec (.windowAccess a l none) s = .next { s with portRead := some (registerRead s a.toNat l) } := fun a l h =>
    if_neg (Nat.not_lt.2 h)
  have hlt := addr.isLt
  have hw : ∀ n, addr.toNat = n → n % 4 = 0 → len = .four → (registerRead s addr.toNat len).toNat = registerValue s n := by
    rintro n rfl h4 rfl
    exact registerRead_whole h4
  refine ⟨registerRead s addr.toNat len, hx addr len ha, fun hl hn => ?_, fun hl hn => ?_, fun hl hn => ?_,
    fun hl hn => ?_, fun hl hn => ?_, fun hn => ?_, registerRead s (addr.toNat / 4 * 4) .four, ?_, ?_⟩
  · exact BitVec.eq_of_toNat_eq (hw _ hn (by decide) hl)
  · rw [hw _ hn (by decide) hl]
    have h : registerValue s 1073741828 = exbaseValue s := rfl
    rw [h, exbaseValue, exchangeBase, BindOutcome.code.eq_def, BindState.code.eq_def]
    cases s.exu.outcome <;> cases s.exu.bind <;> dsimp only
  · exact hw _ hn (by decide) hl
  · exact hw _ hn (by decide) hl
  · exact hw _ hn (by decide) hl
  · refine BitVec.eq_of_toNat_eq ?_
    have h0 : registerValue s (addr.toNat / 4 * 4) = 0 := by
      unfold registerValue identAddress exbaseAddress postAddress abortAddress condAddress
      rw [if_neg (by omega), if_neg (by omega), if_neg (by omega), if_neg (by omega), if_neg (by omega)]
    rw [registerRead_toNat, h0]
    simp
  · have hb : (BitVec.ofNat 32 (addr.toNat / 4 * 4)).toNat = addr.toNat / 4 * 4 := by
      rw [BitVec.toNat_ofNat]; omega
    rw [hx _ _ (by rw [hb]; omega), hb]
  · rw [registerRead_toNat, registerRead_whole (by omega)]

/-- Settles O21: a transfer raised at a port at rest is granted its first burst. -/
theorem windowAccessIsRaised : Obligations.WindowAccessIsRaised := by
  intro addr len v s ⟨ht, hn, hw⟩ ha
  have hlen : (toBytes len.bytes v.toNat).length = len.bytes := toBytes_length _ _
  have hg : ∀ t : Transfer, t.who = .proc → grant (addTransfer t s) = portServes t s := fun t hp => by
    rw [grant_single (s := addTransfer t s) (t := t) (by simp [addTransfer, ht]) hn hw (by rw [hp]; rfl)]
    unfold portServes addTransfer
    rfl
  have hx : ∀ w, exec (.windowAccess addr len w) s = execWindowAccess addr len w s := fun _ => rfl
  simp only [hx, execWindowAccess, if_pos ha]
  refine ⟨fun hl => ?_, fun hl w => if_pos hl⟩
  rw [if_neg (Nat.not_lt.2 hl), if_neg (Nat.not_lt.2 hl)]
  refine ⟨congrArg _ (hg _ rfl), congrArg _ ((hg _ rfl).trans ?_)⟩
  rw [hlen]

end Sys2Proof.Machine
end

section
/-! SUPPORT. Conditions raised and orders completed (R169 to R174): what each writes at a memory port at rest, and what waits
while a burst holds it. -/

namespace Sys2Proof.Machine

/-! ### Bytes read -/

/-- Bytes read alike where memory is alike. -/
theorem memReadN_congr {m m' : Memory} : ∀ {n a : Nat}, (∀ x, a ≤ x → x < a + n → memRead m x = memRead m' x) →
    memReadN m a n = memReadN m' a n
  | 0, _, _ => rfl
  | n + 1, a, h => by
    rw [memReadN, memReadN, h a (by omega) (by omega), memReadN_congr fun x h1 h2 => h x (by omega) (by omega)]

/-- A write leaves the bytes of a range apart from it alone. -/
theorem memReadN_memWriteN_outside {m : Memory} (h : Memory.wf m = true) {a b n : Nat} {bs : List Byte}
    (hd : b + n ≤ a ∨ a + bs.length ≤ b) : memReadN (memWriteN m a bs) b n = memReadN m b n :=
  memReadN_congr fun x h1 h2 => memRead_memWriteN_outside h a x bs (by omega)

theorem memReadN_memWrite_outside {m : Memory} (h : Memory.wf m = true) {a b n : Nat} {v : Byte}
    (hd : a < b ∨ b + n ≤ a) : memReadN (memWrite m a v) b n = memReadN m b n :=
  memReadN_congr fun x h1 h2 => by rw [memRead_memWrite h, if_neg (by omega)]

/-- An entry changed through a function, by its value. -/
theorem modifyAt_eq_set {α : Type} (f : α → α) (a : α) : ∀ (l : List α) (i : Nat),
    modifyAt f l i = l.set i (f (l.getD i a))
  | [], _ => rfl
  | x :: xs, 0 => rfl
  | x :: xs, i + 1 => by
    rw [modifyAt, modifyAt_eq_set f a xs i, List.set_cons_succ, List.getD_cons_succ]

/-! ### Conditions -/

theorem Condition.bit_lt (c : Condition) : c.bit < 15 := by cases c <;> decide

theorem Condition.mask_getLsbD (c : Condition) {i : Nat} (h : i < 15) : c.mask.getLsbD i = decide (i = c.bit) := by
  rw [Condition.mask, BitVec.getLsbD_ofNat, Nat.testBit_two_pow, decide_eq_true h, Bool.true_and]
  exact decide_eq_decide.2 eq_comm

/-- The raise count of a condition after one more raise of it (R173). -/
def nextCount (c : Condition) (s : State) : Nat := min (s.exu.raises.getD c.bit 0 + 1) 65535

/-- What EXU notes of a raise while BOUND or STALLED, field by field. -/
theorem counted_eq (c : Condition) (d : Detail) (s : State) : counted c d s =
    { s with
      exu.raises := s.exu.raises.set c.bit (nextCount c s),
      exu.lastCartridge := if c = .cartridge then some d else s.exu.lastCartridge,
      exu.lastTapeReady := if c = .tapeReady then some d else s.exu.lastTapeReady } := by
  unfold counted
  rw [modifyAt_eq_set bump16 0]
  unfold keepLatest
  by_cases h1 : c = .cartridge
  · subst h1; rfl
  · by_cases h2 : c = .tapeReady
    · subst h2; rfl
    · rw [if_neg h1, if_neg h2, if_neg h1, if_neg h2]; rfl

theorem raiseCount_counted {c : Condition} {d : Detail} {s : State} (h : s.exu.raises.length = 15) :
    raiseCount (counted c d s) c = nextCount c s := by
  rw [raiseCount, counted_eq]
  have hb := c.bit_lt
  simp [List.getD_eq_getElem?_getD, h, hb]

theorem cellBytes_length (d : Detail) (n : Nat) : (cellBytes d n).length = 16 := by simp [cellBytes]

theorem perform_cell_eq (c : Condition) (d : Detail) (n : Nat) (s : State) : perform (.cell c d n) s =
    { s with mem := memWriteN s.mem (cellAddress (exchangeBase s) c) (cellBytes d n),
             exu.cond := s.exu.cond ||| c.mask } := rfl

/-- A detail cell written (R173): its 16 bytes, no other byte, and the bit of its condition. -/
theorem perform_cell (c : Condition) (d : Detail) (n : Nat) (s : State) (h : Memory.wf s.mem = true) :
    memReadN (perform (.cell c d n) s).mem (exchangeBase s + 512 + 16 * c.bit) 16 = cellBytes d n
      ∧ (∀ x, (x < exchangeBase s + 512 + 16 * c.bit ∨ exchangeBase s + 528 + 16 * c.bit ≤ x) →
          memRead (perform (.cell c d n) s).mem x = memRead s.mem x)
      ∧ (∀ i : Nat, i < 15 → (perform (.cell c d n) s).exu.cond.getLsbD i = (s.exu.cond.getLsbD i || decide (i = c.bit)))
      ∧ { perform (.cell c d n) s with mem := s.mem, exu.cond := s.exu.cond } = s := by
  have hl := cellBytes_length d n
  rw [perform_cell_eq]
  refine ⟨?_, fun x hx => ?_, fun i hi => ?_, rfl⟩
  · have := memReadN_memWriteN h (exchangeBase s + 512 + 16 * c.bit) (cellBytes d n)
    rw [hl] at this
    exact this
  · exact memRead_memWriteN_outside h _ x _ (by rw [hl, cellAddress]; omega)
  · rw [BitVec.getLsbD_or, c.mask_getLsbD hi]

/-- A condition raised at a port at rest while BOUND or STALLED: noted, and its cell's access done. -/
theorem raise_rest_eq {s : State} (hp : portAtRest s) (hb : s.exu.bind ≠ .unbound) (hl : s.exu.raises.length = 15)
    (c : Condition) (a b d : Nat) : raise c a b d s =
      perform (.cell c ⟨a, b, d, s.timebase⟩ (nextCount c s)) (recordExuGrant { s with
        exu.raises := s.exu.raises.set c.bit (nextCount c s),
        exu.lastCartridge := if c = .cartridge then some ⟨a, b, d, s.timebase⟩ else s.exu.lastCartridge,
        exu.lastTapeReady := if c = .tapeReady then some ⟨a, b, d, s.timebase⟩ else s.exu.lastTapeReady }) := by
  rw [raise_rest hp hb, raiseCount_counted hl, counted_eq]
  rfl

theorem noteRaise_unbound {s : State} (h : s.exu.bind = .unbound) (c : Condition) (a b d : Nat) :
    noteRaise c a b d s = raiseUnbound c ⟨a, b, d, s.timebase⟩ (keepLatest c ⟨a, b, d, s.timebase⟩ s) := by
  have hk : (keepLatest c ⟨a, b, d, s.timebase⟩ s).exu.bind = .unbound := by
    unfold keepLatest; split_ifs <;> exact h
  unfold noteRaise
  dsimp only
  rw [if_pos hk]

/-- Settles O24: at a port at rest, at a port in use, the access itself, and the cases while UNBOUND. -/
theorem raisedCondition : Obligations.RaisedCondition := by
  intro c a b d s hm hl
  refine ⟨fun hb hp => ?_, fun hb hp => ?_, fun time count => ?_, ?_, ?_, ?_, ?_⟩
  · obtain ⟨hbytes, hothers, hbits, -⟩ := perform_cell c ⟨a, b, d, s.timebase⟩ (nextCount c s) (recordExuGrant { s with
      exu.raises := s.exu.raises.set c.bit (nextCount c s),
      exu.lastCartridge := if c = .cartridge then some ⟨a, b, d, s.timebase⟩ else s.exu.lastCartridge,
      exu.lastTapeReady := if c = .tapeReady then some ⟨a, b, d, s.timebase⟩ else s.exu.lastTapeReady }) hm
    rw [raise_rest_eq hp hb hl]
    refine ⟨?_, hbytes, hothers, hbits, ?_⟩
    · rw [perform_cell_eq]
      rfl
    · rw [perform_cell_eq]
      exact ⟨rfl, rfl, rfl, rfl, rfl⟩
  · rw [raise_busy hp, noteRaise_bound_eq hb, raiseCount_counted hl, counted_eq]
    rfl
  · exact perform_cell c ⟨a, b, d, time⟩ count s hm
  · rintro hb rfl
    exact (raise_unbound hb ..).trans (noteRaise_unbound hb ..)
  · rintro hb rfl
    exact (raise_unbound hb ..).trans (noteRaise_unbound hb ..)
  · rintro hb rfl
    rw [raise_unbound hb, noteRaise_unbound hb]
    cases hh : s.exu.heldDiscarded <;>
      simp only [keepLatest, raiseUnbound, setCond, reduceCtorEq, if_false, hh, Option.map, Option.getD] <;> rfl
  · intro hb h1 h2 h3
    rw [raise_unbound hb, noteRaise_unbound hb, keepLatest, if_neg h1, if_neg h2]
    cases c <;> trivial

/-! ### The look for the next order -/

theorem lookWork_of_not_wanted {s : State} (h : lookWanted s = false) : lookWork s = [] := by
  unfold lookWork; rw [h]; rfl

/-- With no order posted, or not BOUND, no look is wanted. -/
theorem lookWanted_false {s : State} (h : s.exu.bind ≠ .bound ∨ noneWaits s) : lookWanted s = false := by
  unfold lookWanted
  rcases h with h | h
  · simp [h]
  · simp [show s.exu.postMark = s.exu.takenMark from h]

/-- At a settled port no access waits that could be done. -/
theorem serveFree_settled {s : State} (h : portSettled s) : serveFree s = s :=
  h.elim serveFree_busy fun h => serveFree_none h.2.2

/-- Where no look is wanted, none is made. -/
theorem lookForOrder_none {s : State} (h : portSettled s) (hw : lookWanted s = false) : lookForOrder s = s := by
  unfold lookForOrder
  rw [lookWork_of_not_wanted hw, queueWork_nil, serveFree_settled h]

/-- An access noted by a raise is done before the look that follows it. -/
theorem lookForOrder_noteRaise {s : State} (h : portAtRest s) (c : Condition) (a b d : Nat) :
    lookForOrder (noteRaise c a b d s) = lookForOrder (raise c a b d s) := by
  by_cases hb : s.exu.bind = .unbound
  · rw [raise_unbound hb]
  · have hr : raise c a b d s = perform (.cell c ⟨a, b, d, s.timebase⟩ (raiseCount (counted c ⟨a, b, d, s.timebase⟩ s) c))
        (recordExuGrant (counted c ⟨a, b, d, s.timebase⟩ s)) := raise_rest h hb c a b d
    have hk : portFree (counted c ⟨a, b, d, s.timebase⟩ s) = true ∧ (counted c ⟨a, b, d, s.timebase⟩ s).exu.work = [] := by
      rw [counted_eq]; exact ⟨portFree_rest h, h.2.2⟩
    rw [hr, noteRaise_bound_eq hb]
    generalize counted c ⟨a, b, d, s.timebase⟩ s = x at hk ⊢
    obtain ⟨hf, hw⟩ := hk
    generalize raiseCount x c = n
    have hl : lookWork (queueWork [.cell c ⟨a, b, d, s.timebase⟩ n] x)
        = lookWork (perform (.cell c ⟨a, b, d, s.timebase⟩ n) (recordExuGrant x)) := by
      unfold lookWork
      simp [lookWanted, queueWork, hw, perform, setCond, writeCell, recordExuGrant, ExuWork.looks]
    unfold lookForOrder
    rw [hl]
    generalize lookWork (perform (.cell c ⟨a, b, d, s.timebase⟩ n) (recordExuGrant x)) = ws
    rw [serveFree_step (w := .cell c ⟨a, b, d, s.timebase⟩ n) (ws := ws)
      (by rw [portFree_queueWork, portFree_queueWork, hf]) (by simp [queueWork, hw])]
    refine congrArg serveFree ?_
    simp only [perform, setCond, writeCell, recordExuGrant, queueWork, hw, List.nil_append, exchangeBase]

/-! ### Completions -/

theorem extentTable_length (es : List ExtentResult) : (extentTable es).length = 64 := by
  simp [extentTable, List.length_flatten, Function.comp_def]

theorem resultBytes_length (r : OrderResult) : (resultBytes r).length = 112 := by
  simp [resultBytes, extentTable_length]

/-- A slot's result area and then DONE written (R169). -/
def writeDone (slot : Nat) (r : OrderResult) (s : State) : State := writeSlotState slot 3 (writeResult slot r s)

theorem writeDone_eq (slot : Nat) (r : OrderResult) (s : State) : writeDone slot r s = { s with
    mem := memWrite (memWriteN s.mem (slotAddress (exchangeBase s) slot + 144) (resultBytes r))
      (slotAddress (exchangeBase s) slot) 3 } := by
  simp only [writeDone, writeSlotState, writeResult, exchangeBase]

/-- The bytes of a slot that is set DONE with a result, and no other byte (R169). -/
theorem writeDone_mem {s : State} (h : Memory.wf s.mem = true) (slot : Nat) (r : OrderResult) :
    Memory.wf (writeDone slot r s).mem = true
      ∧ memRead (writeDone slot r s).mem (slotAddress (exchangeBase s) slot) = 3
      ∧ memReadN (writeDone slot r s).mem (slotAddress (exchangeBase s) slot + 144) 112 = resultBytes r
      ∧ ∀ x, x ≠ slotAddress (exchangeBase s) slot →
          (x < slotAddress (exchangeBase s) slot + 144 ∨ slotAddress (exchangeBase s) slot + 256 ≤ x) →
          memRead (writeDone slot r s).mem x = memRead s.mem x := by
  have hl := resultBytes_length r
  have hw := memWriteN_wf h (slotAddress (exchangeBase s) slot + 144) (resultBytes r)
  rw [writeDone_eq]
  dsimp only
  generalize slotAddress (exchangeBase s) slot = a at hw ⊢
  refine ⟨memWrite_wf hw a 3, by rw [memRead_memWrite hw, if_pos rfl], ?_, fun x h1 h2 => ?_⟩
  · rw [memReadN_memWrite_outside hw (by omega)]
    have := memReadN_memWriteN h (a + 144) (resultBytes r)
    rwa [hl] at this
  · rw [memRead_memWrite hw, if_neg h1, memRead_memWriteN_outside h _ _ _ (by omega)]

/-- At a port at rest the TAKEN order's completion is written, counted, and followed by a look (R169, R172). -/
theorem finishActive_rest_eq {s : State} (h : portAtRest s) {slot : Nat} {k : Ticket}
    (ha : s.exu.active = some (slot, k)) (r : OrderResult) : finishActive r s =
      lookForOrder (countCompletion k (endActive true (writeDone slot r (recordExuGrant (dropOrder s))))) := by
  rw [finishActive_rest h ha, writeDone]
  rfl

/-- A completion counted below the trigger starts the quiet timer afresh (R172). -/
theorem countCompletion_below {s : State} {t : Ticket} (hn : min (s.exu.count + 1) 65535 < s.exu.trigger)
    (hq : s.exu.quietTime ≠ 0) : countCompletion t s = { s with
      exu.count := min (s.exu.count + 1) 65535, exu.lastTicket := t, exu.quietTimer := some (after s s.exu.quietTime) } := by
  unfold countCompletion
  dsimp only
  rw [if_neg]
  · rfl
  · simp only [Bool.or_eq_true, decide_eq_true_eq, not_or]
    exact ⟨Nat.not_le.2 hn, hq⟩

/-- A completion counted that reaches the trigger, or with a quiet time of 0, raises COMPLETIONS (R172). -/
theorem countCompletion_reached {s : State} {t : Ticket}
    (h : s.exu.trigger ≤ min (s.exu.count + 1) 65535 ∨ s.exu.quietTime = 0) :
    countCompletion t s = noteRaise .completions (min (s.exu.count + 1) 65535) t.toNat 0
      { s with exu.count := 0, exu.lastTicket := t, exu.quietTimer := none } := by
  unfold countCompletion
  dsimp only
  rw [if_pos]
  · rfl
  · simp only [Bool.or_eq_true, decide_eq_true_eq]
    exact h

/-- Settles O26, by the completion at a port at rest and its count below the trigger or reaching it. -/
theorem completionWrites : Obligations.CompletionWrites := by
  intro r slot k s hm ha n dropped
  refine ⟨fun x hx hn => lookForOrder_none hx (lookWanted_false hn), fun hb hc => ?_, fun hp => ?_⟩
  · have hh : handOver r s = queueWork [.result slot r, .done slot k true] (dropOrder s) := by
      unfold handOver; rw [ha]; simp [hc]
    unfold finishActive
    rw [hh, serveFree_busy (s := queueWork _ (dropOrder s)) hb]
    rfl
  · obtain ⟨-, hdone, hresult, hothers⟩ := writeDone_mem (s := recordExuGrant (dropOrder s)) hm slot r
    obtain ⟨m, hd⟩ : ∃ m, writeDone slot r (recordExuGrant (dropOrder s)) = { recordExuGrant (dropOrder s) with
      mem := m } := ⟨_, writeDone_eq ..⟩
    have hf := finishActive_rest_eq hp ha r
    generalize writeDone slot r (recordExuGrant (dropOrder s)) = u at *
    refine ⟨u, hdone, hresult, hothers, ?_⟩
    rw [hf]
    subst hd
    refine ⟨rfl, rfl, rfl, fun ht hq => ?_, fun ht => ?_⟩
    · exact congrArg lookForOrder (countCompletion_below (s := endActive true { recordExuGrant (dropOrder s) with
        mem := m }) ht hq)
    · exact (congrArg lookForOrder (countCompletion_reached (s := endActive true { recordExuGrant (dropOrder s) with
        mem := m }) ht)).trans (lookForOrder_noteRaise (s := { recordExuGrant (dropOrder s) with
          mem := m, exu := { s.exu with active := none, count := 0, lastTicket := k, quietTimer := none } }) hp _ _ _ _)

end Sys2Proof.Machine
end

section
/-! SUPPORT. The grant of the memory port (R38, R39): the statement about it leaves out, in its clause on EXU, that the last
grantee of the tape group is one of that group. -/

namespace Sys2Proof.Machine

/-- A free port at which EXU has an access that waits and CMP_IN a transfer, after grants of which that of the tape group names
CMP_IN, as no state met from reset on has it: the tape group's rotation ends at CMP_IN, whose request is so taken for the tape
group's. -/
def grantedAstray : State :=
  { State.reset with
    exu.work := [.outcome 0 .none],
    marb := ⟨.cmpIn, .dcpOut, .general, .rowOut, none, [⟨.cmpIn, .chunkIn, false, 0, 1, []⟩]⟩ }

theorem grantedAstray_waits : (grant grantedAstray).exu.work = [.outcome 0 .none] := by decide

theorem grantedAstray_done : (grant (perform (.outcome 0 .none)
    { grantedAstray with exu.work := [], marb := exuGranted grantedAstray })).exu.work = [] := by decide

/-- Refutes O23: in `grantedAstray` EXU comes first after the general group's last grantee and no tape requester asks, but the port
goes to CMP_IN, and EXU's access still waits, where the statement has it done. -/
theorem not_grantAlternates : ¬ Obligations.GrantAlternates := by
  intro h
  have hexu := (h grantedAstray).2.2.2.1 (.outcome 0 .none) [] rfl rfl rfl rfl rfl
    (.inl fun q hq => by revert hq; cases q <;> decide) (fun q hq => by revert hq; cases q <;> decide)
  have hwork := congrArg (fun s => s.exu.work) hexu
  rw [grantedAstray_done] at hwork
  exact absurd (grantedAstray_waits.symm.trans hwork) (by decide)

end Sys2Proof.Machine
end

section
/-! SUPPORT. Slots set DONE (R167, R170), the look of a POST (R166 to R168) and an abort of an order posted ahead (R170). -/

namespace Sys2Proof.Machine

/-! ### Slots set DONE -/

/-- A slot set DONE with a status alone, its completion counted below the trigger (R167, R172). -/
def slotDone (st : Status) (k : Ticket) (s : State) (slot : Nat) : State :=
  countCompletion k (writeDone slot (statusOnly st) s)

/-- Slots set DONE, in order. -/
def slotsDone (st : Status) (k : Ticket) (slots : List Nat) (s : State) : State := slots.foldl (slotDone st k) s

/-- So many completions may be counted with none reaching the trigger. -/
def CountsBelow (n : Nat) (s : State) : Prop := s.exu.quietTime ≠ 0 ∧ s.exu.count + n < s.exu.trigger ∧ s.exu.trigger ≤ 16

/-- Memory with a slot set DONE. -/
@[irreducible] def doneMemory (base : Nat) (st : Status) (m : Memory) (slot : Nat) : Memory :=
  memWrite (memWriteN m (slotAddress base slot + 144) (resultBytes (statusOnly st))) (slotAddress base slot) 3

theorem doneMemory_def (base : Nat) (st : Status) (m : Memory) (slot : Nat) : doneMemory base st m slot =
    memWrite (memWriteN m (slotAddress base slot + 144) (resultBytes (statusOnly st))) (slotAddress base slot) 3 := by
  delta doneMemory
  exact Eq.refl _

theorem writeDone_doneMemory (slot : Nat) (st : Status) (s : State) :
    writeDone slot (statusOnly st) s = { s with mem := doneMemory (exchangeBase s) st s.mem slot } := by
  rw [writeDone_eq, doneMemory_def]

theorem slotDone_eq {st : Status} {k : Ticket} {s : State} {n : Nat} (h : CountsBelow (n + 1) s) (slot : Nat) :
    slotDone st k s slot = { s with
      mem := doneMemory (exchangeBase s) st s.mem slot, exu.count := s.exu.count + 1, exu.lastTicket := k,
      exu.quietTimer := some (after s s.exu.quietTime) } := by
  obtain ⟨hq, hc, ht⟩ := h
  have hn : min (s.exu.count + 1) 65535 = s.exu.count + 1 := by omega
  unfold slotDone
  rw [writeDone_doneMemory]
  generalize doneMemory (exchangeBase s) st s.mem slot = m
  have := countCompletion_below (s := { s with mem := m }) (t := k) (by dsimp only; omega) hq
  dsimp only at this
  rw [hn] at this
  exact this

/-- Slots set DONE change memory, the count, the ticket completed last and the quiet timer alone. -/
theorem slotsDone_eq (st : Status) (k : Ticket) : ∀ (slots : List Nat) (s : State), CountsBelow slots.length s →
    slotsDone st k slots s = { s with
      mem := slots.foldl (doneMemory (exchangeBase s) st) s.mem, exu.count := s.exu.count + slots.length,
      exu.lastTicket := if slots = [] then s.exu.lastTicket else k,
      exu.quietTimer := if slots = [] then s.exu.quietTimer else some (after s s.exu.quietTime) }
  | [], _, _ => rfl
  | x :: xs, s, h => by
    have h1 := slotDone_eq (st := st) (k := k) (n := xs.length) h x
    have h2 := slotsDone_eq st k xs (slotDone st k s x) (by
      rw [h1]; obtain ⟨hq, hc, ht⟩ := h; exact ⟨hq, by simp only [List.length_cons] at hc; dsimp only; omega, ht⟩)
    have h3 : slotsDone st k (x :: xs) s = slotsDone st k xs (slotDone st k s x) := rfl
    rw [h3, h2, h1]
    simp only [List.length_cons, List.foldl_cons, exchangeBase, Nat.add_assoc, Nat.add_comm 1, reduceCtorEq, if_false, after]
    cases xs <;> rfl

/-- A completion counted below the trigger and accesses queued do not meet. -/
theorem countCompletion_queueWork {s : State} (h : CountsBelow 1 s) (k : Ticket) (ws : List ExuWork) :
    countCompletion k (queueWork ws s) = queueWork ws (countCompletion k s) := by
  obtain ⟨hq, hc, ht⟩ := h
  have hn : min (s.exu.count + 1) 65535 < s.exu.trigger := by omega
  rw [countCompletion_below hn hq, countCompletion_below (s := queueWork ws s) hn hq]
  rfl

/-- With the last grant that of EXU, recording another changes nothing. -/
theorem slotDone_granted {st : Status} {k : Ticket} {s : State} {n : Nat} (h : CountsBelow (n + 1) s)
    (hg : recordExuGrant s = s) (slot : Nat) : recordExuGrant (slotDone st k s slot) = slotDone st k s slot := by
  rw [slotDone_eq h]
  generalize doneMemory (exchangeBase s) st s.mem slot = m
  conv_rhs => rw [← hg]
  rfl

/-- A slot's result and DONE, next among EXU's accesses at a free port, are written one after the other. -/
theorem serveFree_slotDone {st : Status} {k : Ticket} {j n : Nat} {ws : List ExuWork} {s : State} (hf : portFree s = true)
    (hw : s.exu.work = []) (hc : CountsBelow (n + 1) s) (hg : recordExuGrant s = s) :
    serveFree (queueWork (.result j (statusOnly st) :: .done j k false :: ws) s)
      = serveFree (queueWork ws (slotDone st k s j)) := by
  have hgq : ∀ vs, recordExuGrant (queueWork vs s) = queueWork vs s := fun vs => congrArg (queueWork vs) hg
  have h2 : perform (.result j (statusOnly st)) (queueWork (.done j k false :: ws) s)
      = queueWork (.done j k false :: ws) (writeResult j (statusOnly st) s) := by
    simp only [perform, writeResult, queueWork, exchangeBase]
  rw [serveFree_step (w := .result j (statusOnly st)) (ws := .done j k false :: ws) ((portFree_queueWork _ _).trans hf)
    (by simp [queueWork, hw]), queueWork_again hw, hgq, h2]
  obtain ⟨m, hr⟩ : ∃ m, writeResult j (statusOnly st) s = { s with mem := m } := ⟨_, rfl⟩
  have hd : slotDone st k s j = countCompletion k (writeSlotState j 3 { s with mem := m }) := by
    unfold slotDone writeDone; rw [hr]
  rw [hr, hd, serveFree_step (w := .done j k false) (ws := ws)
    (by rw [portFree_queueWork]; exact hf) (by simp [queueWork, hw]), queueWork_again (x := { s with mem := m }) hw]
  refine congrArg serveFree (Eq.trans ?_ (countCompletion_queueWork (s := writeSlotState j 3 { s with mem := m })
    ⟨hc.1, by have := hc.2.1; exact Nat.lt_of_le_of_lt (by change s.exu.count + 1 ≤ _; omega) this, hc.2.2⟩ k ws))
  have hgm : recordExuGrant (queueWork ws { s with mem := m }) = queueWork ws { s with mem := m } := by
    conv_rhs => rw [← hg]
    rfl
  rw [hgm]
  simp only [perform, lookAfter, endActive, writeSlotState, queueWork, exchangeBase, Bool.false_eq_true, if_false]

/-- At a free port the writes that set slots DONE are done one after the other, and then what waits behind them. -/
theorem serveFree_finishWork (st : Status) (k : Ticket) (ws : List ExuWork) : ∀ (slots : List Nat) (s : State),
    portFree s = true → s.exu.work = [] → CountsBelow slots.length s → recordExuGrant s = s →
    serveFree (queueWork (finishWork st k slots ++ ws) s) = serveFree (queueWork ws (slotsDone st k slots s))
  | [], _, _, _, _, _ => rfl
  | j :: js, s, hf, hw, hc, hg => by
    have h1 := slotDone_eq (st := st) (k := k) (n := js.length) hc j
    refine (serveFree_slotDone (n := js.length) hf hw hc hg).trans ?_
    refine (serveFree_finishWork st k ws js (slotDone st k s j) ?_ ?_ ?_ (slotDone_granted hc hg j)).trans rfl
    · rw [h1]; exact hf
    · rw [h1]; exact hw
    · rw [h1]
      obtain ⟨hq, hc, ht⟩ := hc
      exact ⟨hq, by simp only [List.length_cons] at hc; dsimp only; omega, ht⟩

/-! ### The bytes of slots set DONE -/

theorem statusOnly_bytes (st : Status) : resultBytes (statusOnly st) = BitVec.ofNat 8 st.code :: List.replicate 111 0 := by
  cases st <;> decide

theorem doneMemory_wf {m : Memory} (h : Memory.wf m = true) (base : Nat) (st : Status) (j : Nat) :
    Memory.wf (doneMemory base st m j) = true := by
  rw [doneMemory_def]; exact memWrite_wf (memWriteN_wf h _ _) _ _

/-- A byte of no slot's state or result is not changed by slots set DONE. -/
theorem doneMemory_others {base : Nat} {st : Status} {x : Nat} : ∀ {slots : List Nat} {m : Memory},
    Memory.wf m = true → (∀ j ∈ slots, x ≠ slotAddress base j
      ∧ (x < slotAddress base j + 144 ∨ slotAddress base j + 256 ≤ x)) →
    memRead (slots.foldl (doneMemory base st) m) x = memRead m x
  | [], _, _, _ => rfl
  | j :: js, m, h, hx => by
    obtain ⟨h1, h2⟩ := hx j (List.mem_cons_self ..)
    have hw := memWriteN_wf h (slotAddress base j + 144) (resultBytes (statusOnly st))
    have hl := resultBytes_length (statusOnly st)
    rw [List.foldl_cons, doneMemory_others (doneMemory_wf h base st j) fun i hi => hx i (List.mem_cons_of_mem j hi),
      doneMemory_def, memRead_memWrite hw, if_neg h1, memRead_memWriteN_outside h _ _ _ (by omega)]

/-- Each slot set DONE holds DONE and the status. -/
theorem doneMemory_done {base : Nat} {st : Status} : ∀ {slots : List Nat} {m : Memory}, Memory.wf m = true →
    ∀ j ∈ slots, memRead (slots.foldl (doneMemory base st) m) (slotAddress base j) = 3
      ∧ memReadN (slots.foldl (doneMemory base st) m) (slotAddress base j + 144) 112
          = BitVec.ofNat 8 st.code :: List.replicate 111 0
  | i :: js, m, h, j, hj => by
    have hwf := doneMemory_wf h base st i
    by_cases hm : j ∈ js
    · exact doneMemory_done hwf j hm
    · obtain rfl : j = i := (List.mem_cons.1 hj).resolve_right hm
      have hw := memWriteN_wf h (slotAddress base j + 144) (resultBytes (statusOnly st))
      have hbytes := memReadN_memWriteN h (slotAddress base j + 144) (resultBytes (statusOnly st))
      rw [resultBytes_length] at hbytes
      have hfar : ∀ i ∈ js, i < j ∨ j < i := fun i hi => Nat.lt_or_gt_of_ne fun he => hm (he ▸ hi)
      have hkept : ∀ x, slotAddress base j ≤ x → x < slotAddress base j + 256 →
          memRead (js.foldl (doneMemory base st) (doneMemory base st m j)) x = memRead (doneMemory base st m j) x :=
        fun x h1 h2 => doneMemory_others hwf fun i hi => by
          have := hfar i hi
          unfold slotAddress at h1 h2 ⊢
          omega
      refine ⟨?_, ?_⟩
      · rw [List.foldl_cons, hkept _ (Nat.le_refl _) (by omega), doneMemory_def, memRead_memWrite hw, if_pos rfl]
      · rw [List.foldl_cons, memReadN_congr fun x h1 h2 => hkept x (by omega) (by omega), doneMemory_def,
          memReadN_memWrite_outside hw (by omega), hbytes, statusOnly_bytes]

/-- Slots set DONE from a state at whose port EXU was granted, as the statements speak of them. -/
theorem slotsDone_spec {st : Status} {k : Ticket} {slots : List Nat} {s : State} (h : Memory.wf s.mem = true)
    (hc : CountsBelow slots.length s) : SlotsDone st k slots s (slotsDone st k slots (recordExuGrant s)) := by
  have he := slotsDone_eq st k slots (recordExuGrant s) hc
  have hb : exchangeBase (recordExuGrant s) = exchangeBase s := by unfold exchangeBase; rfl
  rw [he, hb]
  exact ⟨doneMemory_done h, fun x hx => doneMemory_others h hx, rfl, rfl, rfl⟩

end Sys2Proof.Machine
end

section
/-! SUPPORT. A POST in range (O13) and an abort of an order posted ahead (O18). -/

namespace Sys2Proof.Machine

theorem goOn_rest {s : State} (h : s.exu.work = []) (ws : List ExuWork) : goOn ws s = queueWork ws s := by
  unfold goOn queueWork; rw [h, List.append_nil, List.nil_append]

theorem exchangeBase_dropOrder (s : State) : exchangeBase (dropOrder s) = exchangeBase s := by unfold exchangeBase; rfl

/-- What ORD holds for the order plays no part in slots set DONE. -/
theorem slotsDone_dropOrder {st : Status} {k : Ticket} {slots : List Nat} {s : State} (h : CountsBelow slots.length s) :
    dropOrder (slotsDone st k slots s) = slotsDone st k slots (dropOrder s) := by
  have hm : (dropOrder s).mem = s.mem := rfl
  rw [slotsDone_eq st k slots s h, slotsDone_eq st k slots (dropOrder s) h, exchangeBase_dropOrder, hm]
  generalize slots.foldl (doneMemory (exchangeBase s) st) s.mem = m
  rfl

theorem portAtRest_slotsDone {st : Status} {k : Ticket} {slots : List Nat} {s : State} (h : CountsBelow slots.length s)
    (hp : portAtRest s) : portAtRest (slotsDone st k slots s) := by
  rw [slotsDone_eq st k slots s h]; exact hp

/-- Slots set DONE at a port at rest, with nothing behind them. -/
theorem serveFree_slotsDone {st : Status} {k : Ticket} {slots : List Nat} {s : State} (hp : portAtRest s)
    (hc : CountsBelow slots.length s) (hg : recordExuGrant s = s) :
    serveFree (queueWork (finishWork st k slots) s) = slotsDone st k slots s := by
  have h := serveFree_finishWork st k [] slots s (portFree_rest hp) hp.2.2 hc hg
  rw [List.append_nil, queueWork_nil] at h
  exact h.trans (serveFree_settled (.inr (portAtRest_slotsDone hc hp)))

/-! ### A look that takes an order -/

/-- A look for the next ticket that finds it POSTED, the ticket not passed over, goes on with the copy of the lowest slot. -/
theorem lookScanned_found {x : State} (hw : lookWanted x = true)
    (hp : x.exu.passedOver.contains (x.exu.takenMark + 1) = false) (slot : Nat) (others : List Nat) :
    lookScanned (x.exu.takenMark + 1) (slot :: others) x = goOn [.copy slot (x.exu.takenMark + 1) others] x := by
  unfold lookScanned
  simp [lookStands, hw, by simpa using hp]

/-- At a port at rest the order of the slot found is copied and taken, and the other slots are to be set DONE. -/
theorem serveFree_copy {x : State} (hp : portAtRest x) (hg : recordExuGrant x = x) (hw : lookWanted x = true)
    (slot : Nat) (others : List Nat) :
    serveFree (goOn [.copy slot (x.exu.takenMark + 1) others] x) =
      serveFree (goOn (finishWork .duplicateTicket (x.exu.takenMark + 1) others)
        (rejectBadKind (takeOrder slot (x.exu.takenMark + 1) (slotOrder x slot) x))) := by
  obtain ⟨ht, hn, hx⟩ := hp
  have hf : ∀ ws, portFree (queueWork ws x) = true := fun ws => by simp [portFree, queueWork, ht, hn]
  have hgrant : ∀ (v : ExuWork) (vs : List ExuWork), recordExuGrant { queueWork (v :: vs) x with exu.work := vs } = queueWork vs x :=
    fun v vs => by rw [queueWork_again hx]; exact congrArg (queueWork vs) hg
  rw [goOn_rest hx, serveFree_step (w := .copy slot (x.exu.takenMark + 1) others) (ws := []) (hf _) (by simp [queueWork, hx]),
    hgrant, queueWork_nil]
  change serveFree (goOn [.taken slot (x.exu.takenMark + 1) (slotOrder x slot) others] x) = _
  rw [goOn_rest hx, serveFree_step (w := .taken slot (x.exu.takenMark + 1) (slotOrder x slot) others) (ws := [])
    (hf _) (by simp [queueWork, hx]), hgrant, queueWork_nil]
  refine congrArg serveFree (if_pos ?_)
  simp [lookStands, hw]

/-- An order of one of the twelve kinds is left to its own command. -/
theorem rejectBadKind_known {s : State} {r : OrderRec} (hr : s.ord.record = some r) (hk : (kindOfCode r.kind).isSome = true) :
    rejectBadKind s = s := by
  unfold rejectBadKind; rw [hr]; exact if_pos hk

/-- An order of no kind is completed BAD_ORDER. -/
theorem rejectBadKind_unknown {s : State} {r : OrderRec} (hr : s.ord.record = some r)
    (hk : (kindOfCode r.kind).isSome = false) :
    rejectBadKind s = handOver ⟨.badOrder, .none, 0, 1, s.ord.position, 0, 0, []⟩ s := by
  unfold rejectBadKind; rw [hr]; exact if_neg (by rw [hk]; decide)

theorem handOver_rest {s : State} (hx : s.exu.work = []) {slot : Nat} {k : Ticket} (ha : s.exu.active = some (slot, k))
    (q : OrderResult) : handOver q s = queueWork [.result slot q, .done slot k true] (dropOrder s) := by
  unfold handOver
  rw [ha, hx]
  rfl

/-- At a port at rest an order of an unknown kind and the other slots of its ticket are set DONE, its own slot last. -/
theorem serveFree_handOver {st : Status} {k : Ticket} {slots : List Nat} {s : State} (hp : portAtRest s)
    (hc : CountsBelow slots.length s) (hg : recordExuGrant s = s) {slot : Nat} {j : Ticket}
    (ha : s.exu.active = some (slot, j)) (q : OrderResult) :
    serveFree (goOn (finishWork st k slots) (handOver q s)) = finishActive q (slotsDone st k slots s) := by
  have hx := hp.2.2
  have ht : (slotsDone st k slots s).exu.active = some (slot, j) := by rw [slotsDone_eq st k slots s hc]; exact ha
  have hq : goOn (finishWork st k slots) (handOver q s)
      = queueWork (finishWork st k slots ++ [.result slot q, .done slot j true]) (dropOrder s) := by
    rw [handOver_rest hx ha]
    unfold goOn queueWork dropOrder
    rw [hx]
    rfl
  unfold finishActive
  rw [hq, handOver_rest (portAtRest_slotsDone hc hp).2.2 ht, slotsDone_dropOrder hc]
  exact serveFree_finishWork st k _ slots (dropOrder s) (portFree_rest hp) hx hc (congrArg dropOrder hg)

theorem takeOrder_granted (slot : Nat) (k : Ticket) (o : OrderRec) (s : State) :
    recordExuGrant (takeOrder slot k o (recordExuGrant s)) = takeOrder slot k o (recordExuGrant s) := rfl

/-- The TAKEN mark in a slot, and what ORD has of the order. -/
theorem slotTaken_takeOrder {s : State} (h : Memory.wf s.mem = true) (slot : Nat) (k : Ticket) :
    SlotTaken slot k s (takeOrder slot k (slotOrder s slot) (recordExuGrant s)) := by
  have hb : exchangeBase (recordExuGrant s) = exchangeBase s := by unfold exchangeBase; rfl
  have hu : takeOrder slot k (slotOrder s slot) (recordExuGrant s) = { clearProgress (recordExuGrant s) with
      mem := memWrite s.mem (slotAddress (exchangeBase s) slot) 2, ord.record := some (slotOrder s slot),
      exu.active := some (slot, k), exu.takenMark := k } := by
    unfold takeOrder writeSlotState
    rw [hb]
    have hm : (recordExuGrant s).mem = s.mem := rfl
    rw [hm]
    generalize memWrite s.mem (slotAddress (exchangeBase s) slot) 2 = m
    rfl
  have hr := fun x => memRead_memWrite h (slotAddress (exchangeBase s) slot) x 2
  rw [hu]
  generalize memWrite s.mem (slotAddress (exchangeBase s) slot) 2 = m at hr ⊢
  exact ⟨⟨rfl, rfl, rfl, rfl, rfl, rfl, rfl⟩, ⟨rfl, rfl⟩, (hr _).trans (if_pos rfl), fun x hx => (hr x).trans (if_neg hx), rfl, rfl, rfl⟩

/-! ### POST -/

/-- The slots POSTED with a ticket are found in ascending order. -/
theorem postedSlots_ascending {s : State} {k : Ticket} {slot : Nat} {others : List Nat}
    (h : postedSlots s k = slot :: others) : ∀ j ∈ others, slot < j := by
  have hp : (postedSlots s k).Pairwise (· < ·) := List.pairwise_lt_range.filter _
  rw [h] at hp
  exact (List.pairwise_cons.1 hp).1

/-- A ticket passed over leaves the list and becomes the taken mark (R167). -/
def skipTicket (k : Ticket) (s : State) : State :=
  { s with exu.passedOver := s.exu.passedOver.filter (fun t => t ≠ k), exu.takenMark := k }

/-- A look for the next ticket, passed over: its slots are to be set DONE, and the look goes on from there. -/
theorem lookScanned_passed {x : State} (hx : x.exu.work = []) (hw : lookWanted x = true)
    (hp : x.exu.passedOver.contains (x.exu.takenMark + 1) = true) (found : List Nat) :
    lookScanned (x.exu.takenMark + 1) found x =
      queueWork (finishWork .duplicateTicket (x.exu.takenMark + 1) found
        ++ lookWork (skipTicket (x.exu.takenMark + 1) x)) (skipTicket (x.exu.takenMark + 1) x) := by
  unfold lookScanned
  rw [if_neg (by simp [lookStands, hw]), if_pos hp]
  exact goOn_rest (s := skipTicket (x.exu.takenMark + 1) x) hx _

/-- A look that an order is found for, at a port at rest. -/
theorem lookForOrder_found {x : State} (hp : portAtRest x) (hw : lookWanted x = true)
    (hpass : x.exu.passedOver.contains (x.exu.takenMark + 1) = false) {slot : Nat} {others : List Nat}
    (hs : postedSlots x (x.exu.takenMark + 1) = slot :: others) :
    lookForOrder x = serveFree (goOn (finishWork .duplicateTicket (x.exu.takenMark + 1) others)
      (rejectBadKind (takeOrder slot (x.exu.takenMark + 1) (slotOrder x slot) (recordExuGrant x)))) := by
  rw [lookForOrder_rest hp hw, hs]
  exact (congrArg serveFree (lookScanned_found (x := recordExuGrant x) hw hpass slot others)).trans
    (serveFree_copy (x := recordExuGrant x) hp rfl hw slot others)

/-- The taken mark and the tickets passed over play no part in slots set DONE. -/
theorem slotsDone_skipTicket {st : Status} {k j : Ticket} {slots : List Nat} {s : State} (h : CountsBelow slots.length s) :
    slotsDone st k slots (skipTicket j s) = skipTicket j (slotsDone st k slots s) := by
  have hb : exchangeBase (skipTicket j s) = exchangeBase s := by unfold exchangeBase; rfl
  have hm : (skipTicket j s).mem = s.mem := rfl
  rw [slotsDone_eq st k slots s h, slotsDone_eq st k slots (skipTicket j s) h, hb, hm]
  generalize slots.foldl (doneMemory (exchangeBase s) st) s.mem = m
  rfl

theorem lookWork_slotsDone {st : Status} {k : Ticket} {slots : List Nat} {s : State} (h : CountsBelow slots.length s) :
    lookWork (slotsDone st k slots s) = lookWork s := by
  rw [slotsDone_eq st k slots s h]
  generalize slots.foldl (doneMemory (exchangeBase s) st) s.mem = m
  rfl

/-- A look that meets a ticket passed over, at a port at rest. -/
theorem lookForOrder_passed {x : State} (hp : portAtRest x) (hw : lookWanted x = true)
    (hpass : x.exu.passedOver.contains (x.exu.takenMark + 1) = true)
    (hc : CountsBelow (postedSlots x (x.exu.takenMark + 1)).length x) :
    lookForOrder x = lookForOrder (skipTicket (x.exu.takenMark + 1)
      (slotsDone .duplicateTicket (x.exu.takenMark + 1) (postedSlots x (x.exu.takenMark + 1)) (recordExuGrant x))) := by
  rw [lookForOrder_rest hp hw]
  generalize postedSlots x (x.exu.takenMark + 1) = slots at *
  rw [← slotsDone_skipTicket (s := recordExuGrant x) hc]
  unfold lookForOrder
  rw [lookWork_slotsDone (s := skipTicket (x.exu.takenMark + 1) (recordExuGrant x)) hc]
  exact (congrArg serveFree (lookScanned_passed (x := recordExuGrant x) hp.2.2 hw hpass slots)).trans
    (serveFree_finishWork _ _ _ slots (skipTicket (x.exu.takenMark + 1) (recordExuGrant x))
      (portFree_rest (s := skipTicket (x.exu.takenMark + 1) (recordExuGrant x)) hp) hp.2.2 hc rfl)

/-- Nor does the post mark. -/
theorem slotsDone_posted {st : Status} {k p : Ticket} {slots : List Nat} {s : State} (h : CountsBelow slots.length s) :
    slotsDone st k slots (posted p s) = posted p (slotsDone st k slots s) := by
  have hb : exchangeBase (posted p s) = exchangeBase s := by unfold exchangeBase; rfl
  have hm : (posted p s).mem = s.mem := rfl
  rw [slotsDone_eq st k slots s h, slotsDone_eq st k slots (posted p s) h, hb, hm]
  generalize slots.foldl (doneMemory (exchangeBase s) st) s.mem = m
  rfl

/-- The distance from a ticket on is one less than that from the ticket before. -/
theorem distance_succ {a b : Ticket} (h : a ≠ b) (hd : (a - b).toNat ≤ 16) : (a - (b + 1)).toNat ≤ 16 := by
  bv_omega

/-- Settles O13, by the cases of the look that a POST in range makes: none, waiting, an order found, a ticket passed over. -/
theorem postTakesNextOrder : Obligations.PostTakesNextOrder := by
  intro v s hwf hb hset hd
  have hpost := exec_post hb hd
  refine ⟨fun h => ?_, fun ha hv hbusy => ?_, fun slot others hp ha hv hpass hs hq hc ht => ?_, fun hp ha hv hpass hq hc ht => ?_⟩
  · rw [hpost]
    refine congrArg _ (lookForOrder_none (s := posted (v.setWidth 16) s) hset ?_)
    rcases h with h | h
    · simp [lookWanted, posted, Option.isNone_iff_eq_none, ← Option.not_isSome_iff_eq_none, h]
    · simp [lookWanted, posted, h]
  · rw [hpost]
    refine congrArg _ ?_
    have hl : lookWork (posted (v.setWidth 16) s)
        = if s.exu.work.any ExuWork.looks then [] else [.scan .look (s.exu.takenMark + 1) 0 []] := by
      unfold lookWork
      rw [lookWanted_posted ha hv]
      change (if (true && !s.exu.work.any ExuWork.looks) = true then _ else _) = _
      cases s.exu.work.any ExuWork.looks <;> rfl
    unfold lookForOrder
    rw [serveFree_busy (s := queueWork _ (posted (v.setWidth 16) s)) hbusy, hl]
    split_ifs
    · rw [queueWork_nil]; rfl
    · rfl
  · have hw := lookWanted_posted (p := v.setWidth 16) ha hv
    have htaken := slotTaken_takeOrder (s := posted (v.setWidth 16) s) hwf slot (s.exu.takenMark + 1)
    have hlook := hpost.trans (congrArg _ (lookForOrder_found (x := posted (v.setWidth 16) s) hp hw hpass hs))
    have hgrant := takeOrder_granted slot (s.exu.takenMark + 1) (slotOrder (posted (v.setWidth 16) s) slot) (posted (v.setWidth 16) s)
    have hmem : Memory.wf (takeOrder slot (s.exu.takenMark + 1) (slotOrder (posted (v.setWidth 16) s) slot)
        (recordExuGrant (posted (v.setWidth 16) s))).mem = true := memWrite_wf hwf _ _
    change exec _ s = .next (serveFree (goOn _ (rejectBadKind (takeOrder slot (s.exu.takenMark + 1) _ _)))) at hlook
    generalize takeOrder slot (s.exu.takenMark + 1) (slotOrder (posted (v.setWidth 16) s) slot)
      (recordExuGrant (posted (v.setWidth 16) s)) = u at htaken hlook hgrant hmem
    obtain ⟨⟨hrecord, -⟩, ⟨hposition, -⟩, -, -, hexu, hport, -⟩ := id htaken
    have hpu : portAtRest u := by rw [portAtRest, hport, hexu]; exact hp
    have hcu : CountsBelow others.length u := by unfold CountsBelow; rw [hexu]; exact ⟨hq, hc, ht⟩
    have hspec := slotsDone_spec (st := .duplicateTicket) (k := s.exu.takenMark + 1) hmem hcu
    rw [hgrant] at hspec
    refine ⟨postedSlots_ascending hs, u, _, htaken, hspec, fun hk => ?_, fun hk _ => ?_⟩
    · rw [hlook, rejectBadKind_known hrecord hk, goOn_rest hpu.2.2]
      exact congrArg _ (serveFree_slotsDone hpu hcu hgrant)
    · rw [hlook, rejectBadKind_unknown hrecord hk]
      refine congrArg _ ((serveFree_handOver hpu hcu hgrant (by rw [hexu]) _).trans ?_)
      rw [hposition]
      rfl
  · have hw := lookWanted_posted (p := v.setWidth 16) ha hv
    have hcg : CountsBelow (postedSlots s (s.exu.takenMark + 1)).length (recordExuGrant s) := ⟨hq, hc, ht⟩
    have hlook := hpost.trans (congrArg _ (lookForOrder_passed (x := posted (v.setWidth 16) s) hp hw hpass hcg))
    have hspec := slotsDone_spec (st := .duplicateTicket) (k := s.exu.takenMark + 1) hwf hcg
    have hposted := slotsDone_posted (st := .duplicateTicket) (k := s.exu.takenMark + 1) (p := v.setWidth 16) hcg
    refine ⟨_, hspec, hlook.trans ?_⟩
    obtain ⟨-, -, hexu, -, -⟩ := id hspec
    generalize slotsDone .duplicateTicket (s.exu.takenMark + 1) (postedSlots s (s.exu.takenMark + 1)) (recordExuGrant s) = u
      at hspec hposted hexu ⊢
    have hskip : skipTicket (s.exu.takenMark + 1) u
        = { u with exu.passedOver := s.exu.passedOver.filter (fun x => x ≠ s.exu.takenMark + 1),
                   exu.takenMark := s.exu.takenMark + 1 } := by
      unfold skipTicket; rw [hexu]
    rw [← hskip, exec_post (s := skipTicket _ u) (by change u.exu.bind ≠ _; rw [hexu]; exact hb) (distance_succ hv hd)]
    exact congrArg (fun x => Host.Outcome.next (lookForOrder (skipTicket _ x))) hposted

/-! ### ABORT -/

/-- What follows a change of memory and of EXU alone in a calm state at a port at rest is nothing. -/
theorem finish_rest {s : State} (h : Calm s) (hp : portAtRest s) : finish s = s := by
  rw [finish_calm h, grant_atRest hp]

theorem Calm.slotsDone {st : Status} {k : Ticket} {slots : List Nat} {s : State} (h : Calm s) (hc : CountsBelow slots.length s) :
    Calm (slotsDone st k slots s) := by
  rw [slotsDone_eq st k slots s hc]
  exact h.exchange _ _ s.marb.lastGeneral s.marb.lastGroup

/-- At a port at rest an abort of a ticket POSTED ahead sets its slots DONE, the ticket being passed over. -/
theorem abortTicket_posted {s : State} {t : Ticket} {slot : Nat} {others : List Nat} (hp : portAtRest s)
    (hk : abortableKind s t = none) (hr : aheadOfTaken s t = true) (hs : postedSlots s t = slot :: others)
    (hc : CountsBelow (slot :: others).length s) :
    abortTicket t s
      = slotsDone .aborted t (slot :: others) (passOver t { recordExuGrant s with exu.abortOutcome := 2 }) := by
  have hx : ∀ x : State, recordExuGrant x = x → recordExuGrant (passOver t x) = passOver t x := fun x h => by
    unfold passOver; split_ifs
    · exact h
    · exact congrArg (fun y : State => { y with exu.passedOver := y.exu.passedOver ++ [t] }) h
  unfold abortTicket
  rw [hk]
  dsimp only
  rw [if_pos hr, serveFree_queueAbort hp, hs]
  have hpo : portAtRest (passOver t { recordExuGrant s with exu.abortOutcome := 2 }) := by
    unfold passOver; split_ifs <;> exact hp
  have hco : CountsBelow (slot :: others).length (passOver t { recordExuGrant s with exu.abortOutcome := 2 }) := by
    unfold passOver; split_ifs <;> exact hc
  have hscan : abortScanned t (slot :: others) (recordExuGrant s)
      = goOn (finishWork .aborted t (slot :: others)) (passOver t { recordExuGrant s with exu.abortOutcome := 2 }) := rfl
  rw [hscan, goOn_rest hpo.2.2]
  exact serveFree_slotsDone hpo hco (hx _ rfl)

/-- Settles O18: the slot found is set DONE, and the ticket passed over. -/
theorem abortOfPostedOrder : Obligations.AbortOfPostedOrder := by
  intro v slot s hcalm hp hwf hb hactive h1 h16 hpass hs hq hc ht
  generalize hk : (v.setWidth 16 : BitVec 16) = k at *
  have hcb : CountsBelow [slot].length s := ⟨hq, by simpa using Nat.lt_of_le_of_lt (Nat.le_refl _) hc, ht⟩
  have hahead : aheadOfTaken s k = true := by
    unfold aheadOfTaken ticketDistance
    simp only [Bool.and_eq_true, decide_eq_true_eq]
    omega
  let y : State := { s with exu.lastAbort := k, exu.abortOutcome := 2, exu.passedOver := s.exu.passedOver ++ [k] }
  have hpassed : passOver k { recordExuGrant { s with exu.lastAbort := k } with exu.abortOutcome := 2 }
      = recordExuGrant y := if_neg (Bool.eq_false_iff.1 hpass)
  have habort : abortTicket k { s with exu.lastAbort := k } = slotsDone .aborted k [slot] (recordExuGrant y) := by
    rw [← hpassed]
    exact abortTicket_posted (s := { s with exu.lastAbort := k }) hp (abortableKind_none (.inl hactive)) hahead hs hcb
  have hexec : exec (.abort v) s = .next (slotsDone .aborted k [slot] (recordExuGrant y)) := by
    change execAbort v s = _
    unfold execAbort
    rw [if_neg hb, hk, habort, finish_rest]
    · exact Calm.slotsDone (s := recordExuGrant y) (hcalm.exchange _ _ _ _) hcb
    · exact portAtRest_slotsDone (s := recordExuGrant y) hcb hp
  have hspec := slotsDone_spec (st := .aborted) (k := k) (slots := [slot]) (s := y) hwf hcb
  generalize slotsDone .aborted k [slot] (recordExuGrant y) = u at hexec hspec
  obtain ⟨hdone, hothers, hexu, -, hrest⟩ := hspec
  obtain ⟨hstate, hbytes⟩ := hdone slot (List.mem_singleton_self slot)
  have hord : u.ord = y.ord := by rw [← hrest]
  refine ⟨u, hexec, by rw [hexu], by rw [hexu], by rw [hexu], by rw [hexu]; rfl, by rw [hexu], by rw [hexu], by rw [hexu], hord,
    hstate, hbytes, fun x h1 h2 => hothers x fun j hj => ?_⟩
  obtain rfl := List.mem_singleton.1 hj
  exact ⟨h1, h2⟩

end Sys2Proof.Machine
end

section
/-! SUPPORT. The completion of the TAKEN order at a port at rest as all that an event brings; the take-time checks (R179, R180,
R18) and the deferred error (R181). -/

namespace Sys2Proof.Machine

variable {s : State}

/-! ### A completion at a port at rest, no order being posted -/

/-- A completion counted leaves the port at rest once its condition, if any, is raised, and no order is looked for. -/
theorem lookForOrder_counted (hp : portAtRest s) (hn : noneWaits s) (k : Ticket) : ∃ m e g1 g2,
    lookForOrder (countCompletion k s) = { s with mem := m, exu := e, marb.lastGeneral := g1, marb.lastGroup := g2 }
      ∧ e.work = [] := by
  by_cases h : s.exu.trigger ≤ min (s.exu.count + 1) 65535 ∨ s.exu.quietTime = 0
  · rw [countCompletion_reached h]
    generalize hx : ({ s with exu.count := 0, exu.lastTicket := k, exu.quietTimer := none } : State) = x
    have hpx : portAtRest x := hx ▸ hp
    have hnx : x.exu.postMark = x.exu.takenMark := hx ▸ hn
    have hr := portAtRest_raise hpx .completions (min (s.exu.count + 1) 65535) k.toNat 0
    rw [lookForOrder_noteRaise hpx, lookForOrder_none (.inr hr) (lookWanted_false (.inr (by simpa [noneWaits] using hnx)))]
    obtain ⟨m, e, g1, g2, he⟩ := raise_frame .completions (min (s.exu.count + 1) 65535) k.toNat 0 x
    rw [he] at hr ⊢
    exact ⟨m, e, g1, g2, by rw [← hx], hr.2.2⟩
  · rw [not_or, Nat.not_le] at h
    rw [countCompletion_below h.1 h.2]
    exact ⟨_, _, _, _, lookForOrder_none (.inr hp) (lookWanted_false (.inr hn)), hp.2.2⟩

/-- A completion at a port at rest, no order being posted: ORD holds no order, the port is at rest again, and nothing but
memory and what EXU and the arbiter record has changed besides. -/
theorem finishActive_settled (hp : portAtRest s) (hn : noneWaits s) (ha : s.exu.active.isSome = true) (q : OrderResult) :
    ∃ m e g1 g2, finishActive q s
        = { dropOrder s with mem := m, exu := e, marb.lastGeneral := g1, marb.lastGroup := g2 } ∧ e.work = [] := by
  obtain ⟨⟨slot, k⟩, ha⟩ := Option.isSome_iff_exists.1 ha
  obtain ⟨m, hm⟩ : ∃ m, writeDone slot q (recordExuGrant (dropOrder s)) = { recordExuGrant (dropOrder s) with mem := m } :=
    ⟨_, writeDone_eq ..⟩
  obtain ⟨m', e, g1, g2, h, hw⟩ := lookForOrder_counted
    (s := endActive true { recordExuGrant (dropOrder s) with mem := m }) hp hn k
  exact ⟨m', e, g1, g2, by rw [finishActive_rest_eq hp ha, hm, h]; rfl, hw⟩

/-- A part with no order TAKEN is calm where FMT and RDC do nothing by themselves. -/
theorem calm_of_none (hs : s.sig = []) (hf : fmtAtRest s) (hr : rdcAtRest s) (ho : s.ord.record = none)
    (ha : s.ord.append = none) : Calm s where
  sig := hs
  fmt := hf
  rdc := hr
  dcp := .inr (.inl ⟨by simp [delivering, atStage_none ho], by simp [readingBack, ha]⟩)
  cml := .inr ⟨atStage_none ho _ _, atStage_none ho _ _⟩

/-- A completion is all that the event brings, where FMT and RDC do nothing by themselves. -/
theorem finish_completed (hs : s.sig = []) (hf : fmtAtRest s) (hr : rdcAtRest s) (hp : portAtRest s) (hn : noneWaits s)
    (ha : s.exu.active.isSome = true) (q : OrderResult) : finish (finishActive q s) = finishActive q s := by
  obtain ⟨m, e, g1, g2, h, hw⟩ := finishActive_settled hp hn ha q
  rw [h]
  exact finish_rest (calm_of_none hs hf hr rfl rfl) ⟨hp.1, hp.2.1, hw⟩

/-- In a calm state a completion is all that the event brings. -/
theorem Calm.finish_completed (hc : Calm s) (hp : portAtRest s) (hn : noneWaits s) (ha : s.exu.active.isSome = true)
    (q : OrderResult) : finish (finishActive q s) = finishActive q s :=
  Sys2Proof.Machine.finish_completed hc.sig hc.fmt hc.rdc hp hn ha q

/-! ### The orders' own commands -/

/-- What an order's command begins, once its checks pass (R184 to R199). -/
def orderBegins : Kind → OrderRec → State → State
  | .write | .mark => beginWriting
  | .flush => beginFlush
  | .read => beginRead
  | .space | .locate | .rewind => beginPositioning
  | .load => beginLoad
  | .unload => beginUnload
  | .tune => beginTune
  | .report => beginReport
  | .check => beginCheck

theorem exec_orderCommand (k : Kind) (s : State) :
    exec (orderCommand k) s = .next (finish (runOrder k (orderBegins k) s)) := by
  cases k <;> rfl

/-- An order TAKEN and not yet checked is checked. -/
theorem runOrder_taken {k : Kind} {r : OrderRec} (h : OrderTaken k r s) (f : OrderRec → State → State) :
    runOrder k f s = match meetsDeferred s k with
      | some d => deferredError d s
      | none => match takeFault s r k with
        | some x => refuseOrder x.1 x.2 s
        | none => f r s := by
  unfold runOrder
  rw [h.record]
  exact if_pos (by simp [h.kind, h.stage])

/-- An order that passes its checks begins. -/
theorem exec_passes {k : Kind} {r : OrderRec} (h : OrderPasses k r s) :
    exec (orderCommand k) s = .next (finish (orderBegins k r s)) := by
  rw [exec_orderCommand, runOrder_taken h.toOrderTaken, h.noDeferred, h.checks]

/-- Settles O28: the deferred error is met before any other check. -/
theorem deferredErrorMet : Obligations.DeferredErrorMet := by
  intro k r b why s h hc hp hn ha hd hr ht
  have hm : meetsDeferred s k = some (b, why) := by
    unfold meetsDeferred
    rw [if_neg (by simp [hr, ht]), hd]
  rw [exec_orderCommand, runOrder_taken h, hm]
  have hx : Calm { s with ord.deferred := none } := ⟨hc.sig, hc.fmt, hc.rdc, hc.dcp, hc.cml⟩
  refine congrArg _ ((hx.finish_completed hp hn ha _).trans ?_)
  cases why <;> rfl

/-! ### The take-time checks -/

theorem overlaps_iff (a n b m : Nat) : overlaps a n b m = true ↔ ∃ x, a ≤ x ∧ x < a + n ∧ b ≤ x ∧ x < b + m := by
  simp only [overlaps, Bool.and_eq_true, decide_eq_true_eq]
  constructor
  · rintro ⟨⟨⟨h1, h2⟩, h3⟩, h4⟩
    exact ⟨max a b, by omega, by omega, by omega, by omega⟩
  · rintro ⟨x, h1, h2, h3, h4⟩
    omega

/-- An extent passes exactly when it lies within memory, free of the exchange area and of the store (R25). -/
theorem extentPasses_iff (s : State) (e : Extent) : extentPasses s e = true ↔ ExtentFree s (e.start, e.length) := by
  unfold extentPasses ExtentFree
  simp only [Bool.and_eq_true, Bool.not_eq_true', decide_eq_true_eq, ← Bool.not_eq_true, overlaps_iff]
  constructor
  · rintro ⟨⟨h1, h2⟩, h3⟩
    exact ⟨h1, fun x hx hx' => ⟨fun h => h2 ⟨x, hx, hx', h.1, h.2⟩, fun h => h3 ⟨x, hx, hx', h.1, h.2⟩⟩⟩
  · rintro ⟨h1, h2⟩
    exact ⟨⟨h1, fun ⟨x, hx, hx', h⟩ => (h2 x hx hx').1 h⟩, fun ⟨x, hx, hx', h⟩ => (h2 x hx hx').2 h⟩

theorem orderExtents_eq (k : Kind) (r : OrderRec) :
    orderExtents k r = (namedExtents r k).map (fun e => (e.start, e.length)) := by
  cases k <;> simp [orderExtents, namedExtents, descriptors, descriptor, reportExtent, checkSource, checkDestination,
    Function.comp_def]

theorem namedExtents_pass (k : Kind) (r : OrderRec) :
    (namedExtents r k).all (extentPasses s) = true ↔ ∀ e ∈ orderExtents k r, ExtentFree s e := by
  rw [orderExtents_eq]
  simp only [List.all_eq_true, extentPasses_iff, List.forall_mem_map]

/-- The first number of a range at which a test holds, and below which it does not. -/
theorem firstIn_eq {n i : Nat} {p : Nat → Bool} (h : i < n) (hi : p i = true) (hj : ∀ j, j < i → p j = false) :
    firstIn n p = some i := by
  unfold firstIn
  rw [List.find?_range_eq_some]
  exact ⟨hi, List.mem_range.2 h, fun j hj' => by simp [hj j hj']⟩

theorem badLength_iff (n : Nat) : badLength n = true ↔ n = 0 ∨ 16777216 < n := by simp [badLength]

theorem badCheckLength_iff (n : Nat) : badCheckLength n = true ↔ n = 0 ∨ 1048576 < n := by simp [badCheckLength]

theorem firstIn_none {n : Nat} {p : Nat → Bool} (h : ∀ j, j < n → p j = false) : firstIn n p = none := by
  unfold firstIn
  simpa using h

/-- The lengths of a WRITE or READ whose count is in range: the first at fault is named. -/
theorem checkExtentsBody_counted {r : OrderRec} (h1 : 1 ≤ r.count) (h2 : r.count ≤ 16) : checkExtentsBody r =
    (firstIn r.count (fun i => badLength (descriptor r i).length)).map (fun i => (.badRecordLength, 20 + 8 * i)) := by
  refine if_neg ?_
  simp only [Bool.or_eq_true, decide_eq_true_eq, not_or]
  omega

/-- The count and body fields of a kind pass (R179 step 3). -/
theorem checkBody_passes {k : Kind} {r : OrderRec} (h : BodyPasses k r) : checkBody r k = none := by
  have hext : (1 ≤ r.count ∧ r.count ≤ 16 ∧ ∀ i, i < r.count → 1 ≤ bodyField r (20 + 8 * i) 4 ∧
      bodyField r (20 + 8 * i) 4 ≤ 16777216) → checkExtentsBody r = none := fun ⟨h1, h2, h3⟩ => by
    rw [checkExtentsBody_counted h1 h2, firstIn_none fun j hj => ?_, Option.map_none]
    have := h3 j hj
    rw [← Bool.not_eq_true, badLength_iff]
    unfold descriptor
    dsimp only
    omega
  cases k with
  | write => exact hext h
  | read => exact hext h
  | mark => obtain ⟨h1, h2⟩ := h; exact if_neg (by simp; omega)
  | space =>
    obtain ⟨h1, h2⟩ := h
    exact (if_neg h1).trans (if_neg (Nat.not_lt.2 h2))
  | locate => exact if_neg (Nat.not_lt.2 h)
  | check =>
    obtain ⟨h1, h2, h3, h4⟩ := h
    exact (if_neg (fun h => by rcases (badCheckLength_iff _).1 h with h | h <;> simp only [checkSource] at h <;> omega)).trans
      (if_neg (fun h => by rcases (badCheckLength_iff _).1 h with h | h <;> simp only [checkDestination] at h <;> omega))
  | flush | rewind | load | unload | tune | report => rfl

/-- The checks that follow those of the fields and extents: the drive's readiness, then those of the kind itself. -/
theorem takeFault_ready {k : Kind} {r : OrderRec} (h : BodyPasses k r) (he : ∀ e ∈ orderExtents k r, ExtentFree s e) :
    takeFault s r k = match readiness s k with
      | some st => some (st, 0)
      | none => (kindChecks s k).map (fun st => (st, 0)) := by
  unfold takeFault
  rw [checkBody_passes h]
  exact if_pos ((namedExtents_pass k r).2 he)

theorem readiness_needs {k : Kind} (h : NeedsTape k s) : readiness s k = needsTape s := by
  rcases h with h | ⟨rfl, f, hf, hw⟩
  · simp only [List.mem_cons, List.not_mem_nil, or_false] at h
    rcases h with rfl | rfl | rfl | rfl | rfl | rfl <;> rfl
  · exact if_pos (List.any_eq_true.2 ⟨f, hf, hw⟩)

theorem motionLost_iff (s : State) : motionLost s = true ↔ s.mot.state = .stranded ∨ s.mot.state = .faultHeld := by
  simp [motionLost]

/-- A loaded data tape in a drive whose motion is not lost is what an order needs. -/
theorem needsTape_loaded (hm : s.mot.state ∉ [.empty, .stranded, .faultHeld]) (hl : s.cml.state = .loaded) :
    needsTape s = none := by
  simp only [List.mem_cons, List.not_mem_nil, or_false, not_or] at hm
  simp [needsTape, motionLost, hm, hl]

/-- Settles O27: the checks in their order, each from the case of its own kind. -/
theorem orderFailingItsChecks : Obligations.OrderFailingItsChecks := by
  intro k r s
  refine ⟨fun st off h hc hp hn ha hm hf => ?_, fun hk h => ?_, fun hk h1 h2 i hi hb hj => ?_, fun hk h => ?_, fun hk h => ?_,
    fun hk h1 h2 => ?_, fun hk h => ?_, fun hk h => ?_, fun hk h1 h2 h => ?_, fun h he => ?_, fun h he => ?_⟩
  · rw [exec_orderCommand, runOrder_taken h, hm, hf]
    exact congrArg _ (hc.finish_completed hp hn ha _)
  · have : checkBody r k = some (.badOrder, 6) := by
      have hx : checkExtentsBody r = some (.badOrder, 6) := if_pos (by simpa using h)
      rcases hk with rfl | rfl <;> exact hx
    unfold takeFault; rw [this]
  · have : checkBody r k = some (.badRecordLength, 20 + 8 * i) := by
      have hx : checkExtentsBody r = some (.badRecordLength, 20 + 8 * i) := by
        rw [checkExtentsBody_counted h1 h2, firstIn_eq hi ((badLength_iff (descriptor r i).length).2 hb) fun j hj' => ?_, Option.map_some]
        have := hj j hj'
        rw [← Bool.not_eq_true, badLength_iff]
        unfold descriptor
        dsimp only
        omega
      rcases hk with rfl | rfl <;> exact hx
    unfold takeFault; rw [this]
  · subst hk
    have : checkBody r .mark = some (.badOrder, 6) := if_pos (by simpa using h)
    unfold takeFault; rw [this]
  · subst hk
    have : checkBody r .space = some (.badOrder, 16) := if_pos h
    unfold takeFault; rw [this]
  · subst hk
    have : checkBody r .space = some (.badOrder, 20) := (if_neg h1).trans (if_pos h2)
    unfold takeFault; rw [this]
  · subst hk
    have : checkBody r .locate = some (.badOrder, 20) := if_pos h
    unfold takeFault; rw [this]
  · subst hk
    have : checkBody r .check = some (.badRecordLength, 20) := if_pos ((badCheckLength_iff (checkSource r).length).2 h)
    unfold takeFault; rw [this]
  · subst hk
    have : checkBody r .check = some (.badRecordLength, 28) :=
      (if_neg (fun h => by rcases (badCheckLength_iff _).1 h with h | h <;> simp only [checkSource] at h <;> omega)).trans
        (if_pos ((badCheckLength_iff (checkDestination r).length).2 h))
    unfold takeFault; rw [this]
  · have hx : ¬ (namedExtents r k).all (extentPasses s) = true := fun hall => by
      obtain ⟨e, hm, hf⟩ := he
      exact hf ((namedExtents_pass k r).1 hall e hm)
    unfold takeFault
    rw [checkBody_passes h]
    exact if_neg hx
  · rw [takeFault_ready h he]
    refine ⟨fun hm hk => ?_, fun hm hk hf => ?_, fun hm hk hc ht => ?_, fun hm hk hc hl => ?_, fun hm hl hk => ?_,
      fun hm hl hk => ?_, fun hk => ?_⟩
    · have : readiness s k = some .noTape := by
        rcases hk with hk | rfl | rfl
        · rw [readiness_needs hk]; exact if_pos hm
        · exact if_pos hm
        · exact if_pos hm
      rw [this]
    · subst hk
      have : readiness s .load = some .notReady := (if_neg hm).trans (if_pos hf)
      rw [this]
    · have : readiness s k = some .cleanerLoaded := by
        rw [readiness_needs hk]; exact (if_neg hm).trans (if_pos (by simp [hc, ht]))
      rw [this]
    · have : readiness s k = some .notReady := by
        rw [readiness_needs hk]
        exact (if_neg hm).trans ((if_neg (by simpa using hc)).trans (if_pos (by simpa [motionLost] using hl)))
      rw [this]
    · have : readiness s k = none ∧ kindChecks s k = writeChecks s := by
        rcases hk with rfl | rfl <;> exact ⟨needsTape_loaded hm hl, rfl⟩
      rw [this.1, this.2]
      unfold writeChecks
      simp only [Option.isNone_iff_eq_none, Bool.and_eq_true, decide_eq_true_eq]
      split_ifs <;> rfl
    · have : readiness s k = none ∧ kindChecks s k = none := by
        simp only [List.mem_cons, List.not_mem_nil, or_false] at hk
        rcases hk with rfl | rfl | rfl | rfl | rfl
        · exact ⟨by unfold readiness; rw [needsTape_loaded hm hl, ite_self], rfl⟩
        all_goals exact ⟨needsTape_loaded hm hl, rfl⟩
      rw [this.1, this.2]
      rfl
    · have : readiness s k = none ∧ kindChecks s k = none := by
        rcases hk with hk | ⟨rfl, hk⟩ | ⟨hm, rfl | ⟨rfl, hf⟩⟩
        · simp only [List.mem_cons, List.not_mem_nil, or_false] at hk
          rcases hk with rfl | rfl | rfl <;> exact ⟨rfl, rfl⟩
        · refine ⟨if_neg fun hw => hk (.inr ⟨rfl, ?_⟩), rfl⟩
          exact List.any_eq_true.1 hw
        · exact ⟨if_neg hm, rfl⟩
        · exact ⟨(if_neg hm).trans (if_neg hf), rfl⟩
      rw [this.1, this.2]
      rfl

end Sys2Proof.Machine
end

section
/-! SUPPORT. The orders (R184 to R199) with the store at rest: searches, travels, completions. -/

namespace Sys2Proof.Machine

variable {s : State}

/-! ### A store at rest -/

theorem StoreAtRest.noWrite (h : StoreAtRest s) : holdsWriteFrames s = false := by
  unfold holdsWriteFrames
  rw [List.any_eq_false]
  exact fun f hf => by rw [h.frames f hf]; decide

theorem StoreAtRest.noOpen (h : StoreAtRest s) : openFrame s = none := by
  unfold openFrame findFrame
  rw [List.findIdx?_eq_none_iff]
  exact fun f hf => by simp [h.frames f hf]

theorem settleMode_idle (h : s.bsm.mode = .idle) : settleMode s = s := by unfold settleMode; rw [h]

theorem StoreAtRest.discarded (h : StoreAtRest s) : discardReadAhead s = s := by
  have hf : readDiscarded s.bsm.frames = s.bsm.frames := by
    unfold readDiscarded
    conv_rhs => rw [← List.map_id s.bsm.frames]
    exact List.map_congr_left fun f hm => if_neg (by rw [h.frames f hm]; decide)
  have hd : discardRead s = s := by
    unfold discardRead
    rw [hf]
    exact settleMode_idle h.mode
  unfold discardReadAhead
  rw [hd]
  simp [h.session, h.resume, h.next]

/-! ### Completions of the TAKEN order -/

theorem OrderTaken.kindOf {k : Kind} {r : OrderRec} (h : OrderTaken k r s) : takenKind s = some k := by
  unfold takenKind; rw [h.record]; exact h.kind

/-- The completion of an order other than a LOAD leaves SPM's session as it is. -/
theorem complete_eq {k : Kind} (hk : takenKind s = some k) (hl : k ≠ .load) (st : Status) (rs : Reason) :
    complete st rs s = finishActive ⟨st, rs, resultFlags s false s.ord.discardSeen false, valueA s, s.ord.position, valueC s,
      valueD s 0, resultExtents s⟩ s := by
  have : loadEnds s = s := if_neg (by simpa [hk] using hl)
  unfold complete completeFull
  rw [this]

/-- The result of an order whose kind gives no values of its own (R182). -/
theorem complete_plain (hk : takenKind s = some .flush ∨ takenKind s = some .rewind ∨ takenKind s = some .check)
    (st : Status) (rs : Reason) : complete st rs s =
      finishActive ⟨st, rs, resultFlags s false s.ord.discardSeen false, 0, s.ord.position, 0, 0, []⟩ s := by
  rcases hk with hk | hk | hk <;>
    rw [complete_eq hk (by decide)] <;> simp only [valueA, valueC, valueD, resultExtents, hk] <;> rfl

theorem complete_read (hk : takenKind s = some .read) (st : Status) (rs : Reason) : complete st rs s =
    finishActive ⟨st, rs, resultFlags s false s.ord.discardSeen false, s.ord.delivered, s.ord.position,
      s.ord.firstObject.getD s.ord.position, 0, s.ord.extents⟩ s := by
  rw [complete_eq hk (by decide)]; simp only [valueA, valueC, valueD, resultExtents, hk]; rfl

theorem complete_write (hk : takenKind s = some .write) (st : Status) (rs : Reason) : complete st rs s =
    finishActive ⟨st, rs, resultFlags s false s.ord.discardSeen false, s.ord.records, s.ord.position,
      s.ord.firstObject.getD s.ord.position, 0, []⟩ s := by
  rw [complete_eq hk (by decide)]; simp only [valueA, valueC, valueD, resultExtents, hk]; rfl

theorem complete_mark (hk : takenKind s = some .mark) (st : Status) (rs : Reason) : complete st rs s =
    finishActive ⟨st, rs, resultFlags s false s.ord.discardSeen false, s.ord.marks, s.ord.position,
      s.ord.firstObject.getD (Config.firstMarkOfNone s.ord.position), 0, []⟩ s := by
  rw [complete_eq hk (by decide)]; simp only [valueA, valueC, valueD, resultExtents, hk]; rfl

theorem complete_space (hk : takenKind s = some .space) (st : Status) (rs : Reason) : complete st rs s =
    finishActive ⟨st, rs, resultFlags s false s.ord.discardSeen false, residualValue s, s.ord.position, 0, 0, []⟩ s := by
  rw [complete_eq hk (by decide)]; simp only [valueA, valueC, valueD, resultExtents, hk]; rfl

theorem complete_locate (hk : takenKind s = some .locate) (st : Status) (rs : Reason) : complete st rs s =
    finishActive ⟨st, rs, resultFlags s false s.ord.discardSeen false, 0, s.ord.position, orAbsent s.ord.located, 0, []⟩
      s := by
  rw [complete_eq hk (by decide)]; simp only [valueA, valueC, valueD, resultExtents, hk]; rfl

/-- A LOAD's completion ends SPM's session, and tells the type and the end of the data (R114, R182). -/
theorem completeFull_load (hk : takenKind s = some .load) (st : Status) (rs : Reason) (rebuilt : Bool) :
    completeFull st rs 0 rebuilt s =
      finishActive ⟨st, rs, resultFlags s rebuilt s.ord.discardSeen false, loadTypeCode s, s.ord.position,
        orAbsent (s.cml.map.map (fun m => m.eodObject)), orAbsent (s.cml.map.map (fun m => m.eodBundle)), []⟩
        (endSession s) := by
  unfold completeFull
  simp only [valueA, valueC, valueD, resultExtents, loadEnds, hk]
  rfl

/-- What ORD drops at a completion plays no part in it. -/
theorem finishActive_dropped {x y : State} (h : dropOrder x = dropOrder y) (hw : y.exu.work = [])
    (ha : y.exu.active.isSome = true) (q : OrderResult) : finishActive q x = finishActive q y := by
  obtain ⟨⟨slot, k⟩, ha⟩ := Option.isSome_iff_exists.1 ha
  have he : (dropOrder x).exu = (dropOrder y).exu := by rw [h]
  rw [dropOrder_exu, dropOrder_exu] at he
  unfold finishActive
  rw [handOver_rest (by rw [he]; exact hw) (by rw [he]; exact ha), handOver_rest hw ha, h]

/-- The stage plays no part in a completion. -/
theorem finishActive_setStage (hp : portAtRest s) (ha : s.exu.active.isSome = true) (q : OrderResult) (st : Stage) :
    finishActive q (setStage st s) = finishActive q s :=
  finishActive_dropped (x := setStage st s) (y := s) rfl hp.2.2 ha q

/-! ### What follows a motion asked for -/

/-- Orders that begin a motion leave the part calm: nothing but the motion, the search and the stage changes. -/
theorem Calm.moved {t : State} (h : Calm s) (hp : portAtRest s) (hsig : t.sig = [])
    (hfmt : t.fmt = s.fmt) (hmode : t.bsm.mode = s.bsm.mode) (hmot : t.mot.state = .starting ∨ t.mot.state = .travel)
    (hphase : t.rdc.phase = .none) (hin : t.rdc.inBuffer = s.rdc.inBuffer) (hdcp : t.dcp.phase = s.dcp.phase)
    (hback : t.ord.append = s.ord.append) (hdel : delivering t = false)
    (hload : atStage t .load .loadMemory = false) (hunload : atStage t .unload .unloadMemory = false) : Calm t where
  sig := hsig
  fmt := by
    have hs : tapeStands t.mot = false ∧ t.mot.state ≠ .streamingWrite := by
      rcases hmot with h | h <;> exact ⟨by simp [tapeStands, h], by simp [h]⟩
    obtain ⟨hplace, hread⟩ := h.fmt
    refine ⟨?_, ?_⟩
    · unfold fmtPlacesNone at hplace ⊢
      rw [hfmt]
      rcases hplace with h | h | ⟨h1, h2, -, -⟩ | h
      · exact .inl h
      · exact .inr (.inl h)
      · exact .inr (.inr (.inl ⟨h1, h2, hs.1, .inr (.inr (.inl hs.2))⟩))
      · exact .inr (.inr (.inr h))
    · unfold fmtReadsNone at hread ⊢
      rwa [hfmt, hmode]
  rdc := by
    refine ⟨.inl hphase, .inl ?_⟩
    rw [hin]
    exact h.rdc.2.resolve_right (by simp [transferInHand, hp.1])
  dcp := by
    have hb : readingBack t = readingBack s := by unfold readingBack; rw [hback]
    rcases h.dcp with h | ⟨-, h⟩ | ⟨h, -⟩
    · exact .inl (by rw [hdcp]; exact h)
    · exact .inr (.inl ⟨hdel, hb.trans h⟩)
    · exact .inr (.inl ⟨hdel, hb.trans h⟩)
  cml := .inr ⟨hload, hunload⟩

/-- STARTING entered changes MOT alone, and keeps its locate (R95). -/
theorem enterStarting_eq (s : State) : enterStarting s = { s with mot := (enterStarting s).mot }
    ∧ (enterStarting s).mot.state = .starting ∧ (enterStarting s).mot.locate = s.mot.locate := by
  unfold enterStarting startLimit dropLock setLock adoptSpeed
  dsimp only
  split_ifs <;> exact ⟨rfl, rfl, rfl⟩

/-- A start from still tape at tension, on the tape: the tape starts where it stands at the run-up point, else travels there. -/
theorem startFrom_moves {p : Nat} {kind : StartKind} (hon : p < physicalEnd s) : ∃ m : Mot,
    startFrom (some p) kind s = { s with mot := m } ∧ (m.state = .starting ∨ m.state = .travel) ∧ m.locate = s.mot.locate := by
  unfold startFrom
  simp only [Option.some_or]
  rw [if_neg (Nat.not_le.2 hon)]
  split_ifs
  · obtain ⟨h, hstate, hloc⟩ := enterStarting_eq { s with mot.splice := some p, mot.startKind := some kind }
    exact ⟨_, h, .inl hstate, hloc⟩
  · exact ⟨_, rfl, .inr rfl, rfl⟩

/-- A search from still tape at tension (R189): what it changes. -/
theorem searchFor_moves {target : Nat} (hm : s.mot.state = .threadedIdle ∨ s.mot.state = .positioned)
    (hon : searchOnTape s target) : ∃ m : Mot,
    searchFor target s = { endSession s with
        mot := m, rdc.blankRun := 0, rdc.blankStart := none,
        ord.find := some ⟨target, estimateBundle s target, 0, .locating, none, [], none, none⟩ }
      ∧ (m.state = .starting ∨ m.state = .travel)
      ∧ m.locate = some ⟨estimateBundle s target, (estimatePlace s (estimateBundle s target)).1,
          serpentine s (estimatePlace s (estimateBundle s target)).1
            ((estimatePlace s (estimateBundle s target)).2 - 200), 0, .approaching⟩ := by
  let x : State := { endSession s with
    mot.locate := some ⟨estimateBundle s target, (estimatePlace s (estimateBundle s target)).1,
      serpentine s (estimatePlace s (estimateBundle s target)).1
        ((estimatePlace s (estimateBundle s target)).2 - 200), 0, .approaching⟩
    rdc.blankRun := 0, rdc.blankStart := none
    ord.find := some ⟨target, estimateBundle s target, 0, .locating, none, [], none, none⟩ }
  have hx : searchFor target s = restartAt (serpentine s (estimatePlace s (estimateBundle s target)).1
        ((estimatePlace s (estimateBundle s target)).2 - 200)) .read x := rfl
  have hs : searchFor target s = startFrom (some (serpentine s (estimatePlace s (estimateBundle s target)).1
      ((estimatePlace s (estimateBundle s target)).2 - 200))) .read x := by
    rw [hx]
    have hst : x.mot.state = s.mot.state := rfl
    unfold restartAt requestStart
    rw [hst]
    rcases hm with h | h <;> rw [h]
  obtain ⟨m, h, hstate, hloc⟩ := startFrom_moves (s := x) (kind := .read) hon
  exact ⟨m, hs.trans h, hstate, hloc⟩

theorem atStage_ne {k k' : Kind} (hk : takenKind s = some k) (hne : k ≠ k') (st : Stage) : atStage s k' st = false := by
  unfold atStage; rw [hk]; simp [hne]

/-- A search that an order begins from still tape at tension is all that the event brings. -/
theorem finish_search {k : Kind} {target : Nat} {x : State} (h : Calm s) (hp : portAtRest s) (hr : s.rdc.phase = .none)
    (hk : takenKind s = some k) (hl : k ≠ .load) (hu : k ≠ .unload)
    (hm : s.mot.state = .threadedIdle ∨ s.mot.state = .positioned) (hon : searchOnTape s target) {o : Ord}
    (hx : x = { s with ord := o }) (hrec : o.record = s.ord.record) (hpos : o.position = s.ord.position)
    (happ : o.append = s.ord.append) :
    finish (searchFor target x) = searchFor target x ∧ SearchBegun target s (searchFor target x)
      ∧ (searchFor target x).ord = { o with find := (searchFor target x).ord.find } := by
  subst hx
  obtain ⟨m, he, hstate, hloc⟩ := searchFor_moves (s := { s with ord := o }) (target := target) hm hon
  have hkt : takenKind (searchFor target { s with ord := o }) = some k := by
    rw [he, ← hk]; unfold takenKind; dsimp only; rw [← hrec]; rfl
  refine ⟨finish_rest (h.moved (t := searchFor target { s with ord := o }) hp ?_ ?_ ?_ ?_ ?_ ?_ ?_ ?_ ?_
      (atStage_ne hkt hl _) (atStage_ne hkt hu _)) ?_, ?_, ?_⟩
  all_goals rw [he]
  · exact h.sig
  · rfl
  · rfl
  · exact hstate
  · exact hr
  · rfl
  · rfl
  · exact happ
  · exact Bool.and_false _
  · exact hp
  · exact ⟨rfl, hloc, hstate, rfl, ⟨hrec, hpos⟩, rfl, rfl, rfl, rfl, rfl⟩
  · rfl

end Sys2Proof.Machine
end

section
/-! SUPPORT. READ, SPACE, LOCATE and REWIND begun with the store at rest (R187 to R191). -/

namespace Sys2Proof.Machine

variable {s : State}

/-- A store that is not in READ mode has nothing to continue. -/
theorem continues_of_mode (h : s.bsm.mode ≠ .read) : continues s = false := by simp [continues, h]

/-- The stage set, with the store at rest. -/
theorem StoreAtRest.setStage (h : StoreAtRest s) (st : Stage) : StoreAtRest (setStage st s) :=
  ⟨h.mode, h.frames, h.sealing, h.session, h.resume, h.next⟩

/-- A travel that an order begins from still tape at tension is all that the event brings. -/
theorem finish_travel {k : Kind} {d : Destination} {x : State} (h : Calm s) (hp : portAtRest s) (hr : s.rdc.phase = .none)
    (hk : takenKind s = some k) (hread : k ≠ .read) (hl : k ≠ .load) (hu : k ≠ .unload)
    (hm : s.mot.state = .threadedIdle ∨ s.mot.state = .positioned) {o : Ord}
    (hx : x = { s with ord := o }) (hrec : o.record = s.ord.record) (happ : o.append = s.ord.append) :
    finish (travelTo d x) = enterTravel d (endSession x) := by
  subst hx
  have ht : travelTo d { s with ord := o } = enterTravel d (endSession { s with ord := o }) := by
    unfold travelTo requestTravel
    have hst : (endSession { s with ord := o }).mot.state = s.mot.state := rfl
    rw [hst]
    rcases hm with h | h <;> rw [h]
  have hkt : takenKind (enterTravel d (endSession { s with ord := o })) = some k := by
    rw [← hk]; unfold takenKind; rw [← hrec]; rfl
  rw [ht]
  exact finish_rest (h.moved (t := enterTravel d (endSession { s with ord := o })) hp h.sig rfl rfl (.inr rfl) hr rfl rfl happ
    (by unfold delivering; rw [atStage_ne hkt hread]; rfl) (atStage_ne hkt hl _) (atStage_ne hkt hu _)) hp

/-- Settles O32: at the EOD object the READ completes; below it the search of R189 begins. -/
theorem readBegins : Obligations.ReadBegins := by
  intro r s h hc hp hrest hidle
  have hbegin : beginRead r s = readOn s := if_neg (by rw [hrest.noWrite]; decide)
  have hexec : exec .read s = .next (finish (readOn s)) := (exec_passes h).trans (by rw [← hbegin]; rfl)
  refine ⟨fun hn ha he hw => ?_, fun he hon hm => ?_⟩
  · have hk : takenKind { s with dcp.record := none } = some .read := h.toOrderTaken.kindOf
    have hread : readOn s = complete .doneShort .endOfData { s with dcp.record := none } := by
      refine (if_pos he).trans ?_
      unfold completeRead endWait
      simp [hw, hidle]
    rw [hexec, hread, complete_read hk]
    exact congrArg _ (finish_completed (s := { s with dcp.record := none }) hc.sig hc.fmt hc.rdc hp hn ha _)
  · have hread : readOn s = searchFor s.ord.position (setStage .reading s) := by
      unfold readOn
      rw [if_neg (Nat.not_le.2 he), if_neg (by rw [continues_of_mode (by simp [hrest.mode])]; decide),
        (hrest.setStage .reading).discarded]
    obtain ⟨hf, hs, ho⟩ := finish_search (x := setStage .reading s) hc hp hrest.session h.toOrderTaken.kindOf (by decide) (by decide)
      hm hon rfl rfl rfl rfl
    exact ⟨_, by rw [hexec, hread, hf], hs, by rw [ho]⟩

/-- The residual that a SPACE begins with, in ORD (R190). -/
def notedOrd (r : OrderRec) (s : State) : Ord := { s.ord with residual := (spaceCount r).natAbs, stage := .positioning }

/-- How a positioning order goes on, by its kind (R188). -/
def positionBy (r : OrderRec) (s : State) : Kind → State
  | .space => spaceOn r s
  | .locate => locateOn r s
  | .rewind => rewindOn s
  | .write | .mark | .flush | .read | .load | .unload | .tune | .report | .check => s

/-- A positioning order whose drain is done goes on by its kind (R188). -/
theorem positionOn_eq {r : OrderRec} {k : Kind} (hr : s.ord.record = some r) (hk : kindOfCode r.kind = some k) :
    positionOn s = positionBy r (setStage .positioning s) k := by
  have hr' : (setStage .positioning s).ord.record = some r := hr
  unfold positionOn
  dsimp only
  rw [hr']
  dsimp only
  rw [hk]
  cases k <;> rfl

/-- With the store at rest a positioning order goes on at once (R188). -/
theorem beginPositioning_rest {r : OrderRec} (h : StoreAtRest s)
    (hx : ¬(kindOfCode r.kind = some .space ∧ spaceCount r = 0)) :
    beginPositioning r s = positionOn (noteCount s) := by
  have hw : holdsWriteFrames (noteCount s) = false := by
    have : (noteCount s).bsm = s.bsm := by unfold noteCount; split <;> (try split_ifs) <;> rfl
    unfold holdsWriteFrames; rw [this]; exact h.noWrite
  unfold beginPositioning
  rw [h.discarded]
  dsimp only
  rw [if_neg (by simpa using hx), if_neg (by rw [hw]; decide)]

/-- Settles O33, by the kind, the count and the mode. -/
theorem spaceAndLocateBegin : Obligations.SpaceAndLocateBegin := by
  intro r s hc hp hrest hm
  have hspaced : ∀ (h : OrderPasses .space r s), noteCount s = { s with ord.residual := (spaceCount r).natAbs } := fun h => by
    unfold noteCount; rw [h.record]; exact if_pos h.kind
  have hspace : ∀ (h : OrderPasses .space r s), spaceCount r ≠ 0 →
      exec .space s = .next (finish (spaceOn r { s with ord := notedOrd r s })) := fun h h0 => by
    refine (exec_passes h).trans (congrArg (fun x => Host.Outcome.next (finish x)) ?_)
    refine (beginPositioning_rest hrest (fun hx => h0 hx.2)).trans ?_
    rw [hspaced h, positionOn_eq (s := { s with ord.residual := (spaceCount r).natAbs }) h.record h.kind]
    rfl
  have hlocate : ∀ (h : OrderPasses .locate r s),
      exec .locate s = .next (finish (locateOn r (setStage .positioning s))) := fun h => by
    refine (exec_passes h).trans (congrArg (fun x => Host.Outcome.next (finish x)) ?_)
    refine (beginPositioning_rest hrest (fun hx => by rw [h.kind] at hx; cases hx.1)).trans ?_
    have : noteCount s = s := by unfold noteCount; rw [h.record]; exact if_neg (by rw [h.kind]; decide)
    rw [this, positionOn_eq h.record h.kind]
    rfl
  refine ⟨fun h h0 hn ha => ?_, fun h h0 he hon => ?_, fun h h0 hpos hon => ?_, fun h h20 he hon => ?_,
    fun h h20 he hn ha hloc => ?_, fun h he => ?_⟩
  · have hk : takenKind { s with ord.residual := 0 } = some .space := h.toOrderTaken.kindOf
    have hb : beginPositioning r s = complete .ok .none { s with ord.residual := 0 } := by
      unfold beginPositioning
      rw [hrest.discarded, hspaced h, h0]
      exact if_pos (by simp [h.kind])
    refine (exec_passes h).trans (congrArg _ ?_)
    change finish (beginPositioning r s) = _
    have hres : residualValue { s with ord.residual := 0 } = 0 := by
      unfold residualValue; dsimp only; rw [h.record]; exact if_neg (by rw [h0]; decide)
    rw [hb, complete_space hk, hres]
    exact finish_completed (s := { s with ord.residual := 0 }) hc.sig hc.fmt hc.rdc hp hn ha _
  · have hneg : ¬ spaceCount r < 0 := by omega
    have hx : spaceOn r { s with ord := notedOrd r s } = searchFor s.ord.position { s with ord := notedOrd r s } :=
      (if_neg hneg).trans (if_neg (Nat.not_le.2 he))
    obtain ⟨hf, hs, ho⟩ := finish_search (x := { s with ord := notedOrd r s }) hc hp hrest.session h.toOrderTaken.kindOf
      (by decide) (by decide) hm hon rfl rfl rfl rfl
    exact ⟨_, by rw [hspace h (by omega), hx, hf], hs, by rw [ho]; rfl⟩
  · have hx : spaceOn r { s with ord := notedOrd r s } = searchFor (s.ord.position - 1) { s with ord := notedOrd r s } :=
      (if_pos h0).trans (if_neg (Nat.pos_iff_ne_zero.1 hpos))
    obtain ⟨hf, hs, ho⟩ := finish_search (x := { s with ord := notedOrd r s }) hc hp hrest.session h.toOrderTaken.kindOf
      (by decide) (by decide) hm hon rfl rfl rfl rfl
    exact ⟨_, by rw [hspace h (by omega), hx, hf], hs, by rw [ho]; rfl⟩
  · have hx : locateOn r (setStage .positioning s) = searchFor (bodyField r 16 4) (setStage .positioning s) := by
      refine (if_neg ?_).trans (if_neg (Nat.not_lt.2 (Nat.le_of_lt he)))
      simp only [Bool.or_eq_true, decide_eq_true_eq, not_or]
      exact ⟨by omega, Nat.ne_of_lt he⟩
    obtain ⟨hf, hs, ho⟩ := finish_search (x := setStage .positioning s) hc hp hrest.session h.toOrderTaken.kindOf
      (by decide) (by decide) hm hon rfl rfl rfl rfl
    exact ⟨_, by rw [hlocate h, hx, hf], hs, by rw [ho]⟩
  · have hx : locateOn r (setStage .positioning s) = complete .notFound .none (setStage .positioning s) := by
      refine (if_neg ?_).trans (if_pos he)
      simp only [Bool.or_eq_true, decide_eq_true_eq, not_or]
      exact ⟨by omega, Nat.ne_of_gt he⟩
    have hk : takenKind (setStage .positioning s) = some .locate := h.toOrderTaken.kindOf
    rw [hlocate h, hx, complete_locate hk, finishActive_setStage hp ha, hc.finish_completed hp hn ha]
    have hnone : (setStage .positioning s).ord.located = none := hloc
    rw [hnone]
    rfl
  · have hx : locateOn r (setStage .positioning s) = travelTo (.named (endPosition s)) (setStage .positioning s) :=
      if_pos (by rw [Bool.or_eq_true, decide_eq_true_eq, decide_eq_true_eq]; exact he)
    rw [hlocate h, hx, finish_travel hc hp hrest.session h.toOrderTaken.kindOf (by decide) (by decide) (by decide) hm
      (rfl : setStage .positioning s = { s with ord := (setStage .positioning s).ord }) rfl rfl]
    exact ⟨_, rfl, rfl, rfl, rfl, rfl, rfl⟩

/-- Settles O34: BOT in THREADED_IDLE is where a REWIND ends; from elsewhere the tape travels there. -/
theorem rewindGoesToBot : Obligations.RewindGoesToBot := by
  intro r p s h hc hp hrest hpos
  have hnote : noteCount s = s := by unfold noteCount; rw [h.record]; exact if_neg (by rw [h.kind]; decide)
  have hrewind : exec .rewind s = .next (finish (rewindOn (setStage .positioning s))) := by
    refine (exec_passes h).trans (congrArg (fun x => Host.Outcome.next (finish x)) ?_)
    refine (beginPositioning_rest hrest (fun hx => by rw [h.kind] at hx; cases hx.1)).trans ?_
    rw [hnote, positionOn_eq h.record h.kind]
    rfl
  have hbot : atBot (setStage .positioning s) = decide (p.wrap = 0 ∧ p.index = 0) := by
    change atBot s = _
    unfold atBot; rw [hpos]; simp
  have hst : (setStage .positioning s).mot.state = s.mot.state := rfl
  refine ⟨fun hm hw hi hn ha => ?_, fun hm => ?_⟩
  · have hx : rewindOn (setStage .positioning s) = complete .ok .none { setStage .positioning s with ord.position := 0 } :=
      if_pos (by simp [hbot, hw, hi, hm])
    have hk : takenKind { setStage .positioning s with ord.position := 0 } = some .rewind := h.toOrderTaken.kindOf
    rw [hrewind, hx, complete_plain (.inr (.inl hk))]
    refine congrArg _ ((finish_completed (s := { setStage .positioning s with ord.position := 0 }) hc.sig hc.fmt hc.rdc hp hn ha
      _).trans ?_)
    exact finishActive_setStage (s := { s with ord.position := 0 }) hp ha _ _
  · have hx : rewindOn (setStage .positioning s) = travelTo .bot (setStage .positioning s) := by
      refine if_neg ?_
      rw [hbot, hst]
      rcases hm with hm | ⟨hm, hb⟩ <;> simp [hm]
      simpa using hb
    rw [hrewind, hx, finish_travel hc hp hrest.session h.toOrderTaken.kindOf (by decide) (by decide) (by decide)
      (hm.symm.imp_left And.left) (rfl : setStage .positioning s = { s with ord := (setStage .positioning s).ord }) rfl rfl]
    exact ⟨_, rfl, rfl, rfl, rfl, rfl, rfl, rfl, rfl, rfl, rfl⟩

end Sys2Proof.Machine
end

section
/-! SUPPORT. What the beginning of an order leaves calm, and the burst of the one transfer it raises; WRITE, FLUSH, LOAD, UNLOAD
and CHECK begun (R184, R186, R192, R193, R198). -/

namespace Sys2Proof.Machine

variable {s : State}

/-! ### Calm over the beginning of an order -/

/-- The beginning of an order leaves the part calm, where FMT and RDC still do nothing by themselves. -/
theorem Calm.ordered {t : State} (h : Calm s) (hsig : t.sig = []) (hfmt : fmtAtRest t) (hrdc : rdcAtRest t)
    (hdcp : t.dcp.phase = s.dcp.phase) (hback : t.ord.append = s.ord.append ∨ t.ord.append = none)
    (hdel : delivering t = false) (hcml : cmlAtRest t) : Calm t where
  sig := hsig
  fmt := hfmt
  rdc := hrdc
  dcp := by
    have hb : readingBack s = false → readingBack t = false := by
      unfold readingBack; rcases hback with h | h <;> simp [h]
    rcases h.dcp with h | ⟨-, h⟩ | ⟨h, -⟩
    · exact .inl (by rw [hdcp]; exact h)
    · exact .inr (.inl ⟨hdel, hb h⟩)
    · exact .inr (.inl ⟨hdel, hb h⟩)
  cml := hcml

theorem delivering_ne {k : Kind} (hk : takenKind s = some k) (h : k ≠ .read) : delivering s = false := by
  unfold delivering; rw [atStage_ne hk h]; rfl

theorem cmlAtRest_ne {k : Kind} (hk : takenKind s = some k) (hl : k ≠ .load) (hu : k ≠ .unload) : cmlAtRest s :=
  .inr ⟨atStage_ne hk hl _, atStage_ne hk hu _⟩

/-- At a port at rest RDC has no row that waits. -/
theorem Calm.noRow (h : Calm s) (hp : portAtRest s) : s.rdc.inBuffer = [] :=
  h.rdc.2.resolve_right (by simp [transferInHand, hp.1])

/-- One transfer raised at a port at rest is granted its first burst, and nothing else follows. -/
theorem finish_single {t : Transfer} (h : Calm s) (ht : s.marb.transfers = [t]) (hb : s.marb.burst = none)
    (hw : s.exu.work = []) (hg : t.who.group = .general) : finish s = portServes t s := by
  rw [finish_calm h, grant_single ht hb hw hg]

/-- A transfer raised at a port at which none is. -/
theorem addTransfer_rest {x : State} (h : x.marb.transfers = []) (t : Transfer) :
    addTransfer t x = { x with marb.transfers := [t] } := by unfold addTransfer; rw [h]; rfl

/-! ### WRITE -/

/-- With the store not in READ mode a WRITE or MARK goes on to its append point (R184). -/
theorem beginWriting_eq (r : OrderRec) (h : s.bsm.mode ≠ .read) : beginWriting r s =
    if holdsWriteFrames s || decide (eodObject s ≤ s.ord.position) then startIntake (setStage .settling s)
    else searchFor s.ord.position (setStage .settling s) := by
  have hs : (if (setStage .settling s).bsm.mode = .read then discardReadAhead (setStage .settling s) else setStage .settling s)
      = setStage .settling s := if_neg h
  unfold beginWriting
  dsimp only
  rw [hs]
  rfl

/-- The chunk at the cursor, as it is read through CMP_IN (R1). -/
def chunkRead (r : OrderRec) (c : IntakeCursor) : Transfer :=
  ⟨.cmpIn, .chunkIn, false, (descriptor r c.record).start + 32768 * c.chunk,
    min 32768 ((descriptor r c.record).length - 32768 * c.chunk), []⟩

theorem readChunk_eq {r : OrderRec} {c : IntakeCursor} (hr : s.ord.record = some r) (hc : s.cmp.cursor = some c) :
    readChunk s = addTransfer (chunkRead r c) s := by
  have he : cursorExtent s c = descriptor r c.record := by unfold cursorExtent; rw [hr]
  unfold readChunk
  rw [hc]
  dsimp only
  rw [he]
  rfl

/-- Intake begun for a WRITE whose head is not fenced (R184). -/
theorem startIntake_write {r : OrderRec} (hf : s.ord.fenceSeen = false) (hr : s.ord.record = some r)
    (hk : kindOfCode r.kind = some .write) : startIntake s =
      addTransfer (chunkRead r ⟨0, 0, 0⟩) { s with
        ord.stage := .intake, ord.append := none, ord.find := none, cmp.cursor := some ⟨0, 0, 0⟩, cmp.candidate := none } := by
  let x : State := { s with ord.stage := .intake, ord.append := none, ord.find := none }
  have hx : startIntake s = match x.ord.record with
      | some r => if kindOfCode r.kind = some .mark then beginMarks r.count x else beginIntake x
      | none => x := if_neg (by rw [hf]; decide)
  have hr' : x.ord.record = some r := hr
  rw [hx, hr']
  dsimp only
  rw [if_neg (by rw [hk]; decide)]
  let y : State := { x with cmp.cursor := some ⟨0, 0, 0⟩, cmp.candidate := none }
  exact readChunk_eq (s := y) hr rfl

/-- Settles O29: intake at the EOD object, a search below it. -/
theorem writeBegins : Obligations.WriteBegins := by
  intro r s h hc hp
  have hk := h.toOrderTaken.kindOf
  refine ⟨fun hm hf he => ?_, fun hrest he hon hm => ?_⟩
  · let x : State := { s with ord.stage := .intake, ord.append := none, ord.find := none, cmp.cursor := some ⟨0, 0, 0⟩,
                              cmp.candidate := none, marb.transfers := [chunkRead r ⟨0, 0, 0⟩] }
    have hx : beginWriting r s = x := by
      rw [beginWriting_eq r hm, if_pos (by simp [he]), startIntake_write (s := setStage .settling s) hf h.record h.kind]
      exact addTransfer_rest (x := { setStage .settling s with
        ord.stage := .intake, ord.append := none, ord.find := none, cmp.cursor := some ⟨0, 0, 0⟩, cmp.candidate := none }) hp.1 _
    have hkx : takenKind x = some .write := hk
    have hcx : Calm x := hc.ordered hc.sig hc.fmt ⟨hc.rdc.1, .inl (hc.noRow hp)⟩ rfl (.inr rfl)
      (delivering_ne hkx (by decide)) (cmlAtRest_ne hkx (by decide) (by decide))
    refine (exec_passes h).trans (congrArg _ ?_)
    change finish (beginWriting r s) = _
    rw [hx, finish_single hcx rfl hp.2.1 hp.2.2 rfl]
    rfl
  · have hbegin : beginWriting r s = searchFor s.ord.position (setStage .settling s) := by
      rw [beginWriting_eq r (by rw [hrest.mode]; decide)]
      exact if_neg (by simp [hrest.noWrite, he])
    obtain ⟨hf, hs, ho⟩ := finish_search (x := setStage .settling s) hc hp hrest.session hk (by decide) (by decide)
      hm hon rfl rfl rfl rfl
    refine ⟨_, (exec_passes h).trans (congrArg _ ?_), hs, by rw [ho]⟩
    change finish (beginWriting r s) = _
    rw [hbegin, hf]

/-! ### LOAD, UNLOAD, CHECK -/

theorem endSession_of_load (q : OrderResult) (s : State) : finishActive q (endSession s)
    = finishActive q { s with spm.session := .none, spm.start := none } := rfl

/-- Settles O35: the read of cartridge memory, or the completion for a cartridge in service. -/
theorem loadBegins : Obligations.LoadBegins := by
  intro r s h hc hp hrest
  have hk := h.toOrderTaken.kindOf
  refine ⟨fun hl hacc => ?_, fun hl hm1 hm2 hn ha => ?_⟩
  · let x : State := { s with ord.stage := .loadMemory, cml.access := some ⟨.loadRead, 1, none, false⟩,
                              cml.accesses := min (s.cml.accesses + 1) 4294967295 }
    have hx : beginLoad r s = x := by
      unfold beginLoad
      rw [hrest.discarded]
      dsimp only
      rw [if_neg (by simp [hl]), if_neg hl]
      exact if_neg (by change ¬ s.cml.access.isSome = true; rw [hacc]; decide)
    have hkx : takenKind x = some .load := hk
    have hcx : Calm x := hc.ordered hc.sig hc.fmt ⟨.inl hrest.session, .inl (hc.noRow hp)⟩ rfl (.inl rfl)
      (delivering_ne hkx (by decide)) (.inl rfl)
    refine (exec_passes h).trans (congrArg _ ?_)
    change finish (beginLoad r s) = _
    rw [hx, finish_rest hcx hp]
  · have hb : beginLoad r s = complete .ok .none s := by
      unfold beginLoad
      rw [hrest.discarded]
      exact if_pos (by simp [hl, motionLost, hm1, hm2])
    have htype : loadTypeCode s = cartTypeCode s := if_neg (by simp [atStage, h.stage])
    refine (exec_passes h).trans (congrArg _ ?_)
    change finish (beginLoad r s) = _
    rw [hb, complete, completeFull_load hk, htype]
    exact finish_completed (s := endSession s) hc.sig hc.fmt ⟨.inl hrest.session, .inl (hc.noRow hp)⟩ hp hn ha _

/-- Settles O39: the first chunk of a CHECK's source, or NOT_READY. -/
theorem checkBegins : Obligations.CheckBegins := by
  intro r s h hc hp
  have hk := h.toOrderTaken.kindOf
  refine ⟨fun hm hmov => ?_, fun hm hn ha => ?_⟩
  · let x : State := { s with ord.stage := .looping, loop := some newLoop,
                              marb.transfers := [⟨.cmpIn, .loopChunkIn, false, bodyField r 16 4, min 32768 (bodyField r 20 4), []⟩] }
    have hsource : loopSource (setLoop newLoop (setStage .looping s)) = checkSource r := by
      unfold loopSource; change (match s.ord.record with | some r => _ | none => _) = _; rw [h.record]
    have hx : beginCheck r s = x := by
      refine (if_neg (by simp [hm, hmov])).trans ?_
      unfold loopReadChunk
      rw [hsource]
      exact addTransfer_rest (x := setLoop newLoop (setStage .looping s)) hp.1 _
    have hkx : takenKind x = some .check := hk
    have hcx : Calm x := hc.ordered hc.sig hc.fmt ⟨hc.rdc.1, .inl (hc.noRow hp)⟩ rfl (.inl rfl)
      (delivering_ne hkx (by decide)) (cmlAtRest_ne hkx (by decide) (by decide))
    refine (exec_passes h).trans (congrArg _ ?_)
    change finish (beginCheck r s) = _
    rw [hx, finish_single hcx rfl hp.2.1 hp.2.2 rfl]
    rfl
  · have hb : beginCheck r s = complete .notReady .none s := if_pos (by simpa using hm)
    refine (exec_passes h).trans (congrArg _ ?_)
    change finish (beginCheck r s) = _
    rw [hb, complete_plain (.inr (.inr hk)), hc.finish_completed hp hn ha]

/-- With the store at rest no frame is SEALED. -/
theorem StoreAtRest.noSealed (h : StoreAtRest s) : frameCount s .sealed = 0 := by
  unfold frameCount
  rw [List.length_eq_zero_iff, List.filter_eq_nil_iff]
  exact fun f hf => by simp [h.frames f hf]

/-- A seal asked of a store at rest finds nothing to seal (R16, R58). -/
theorem StoreAtRest.sealCause (h : StoreAtRest s) (c : SealCause) : sealCause c s = s := by
  have hf : flushFoundNone s = s := if_neg (by simp [h.noSealed])
  unfold Machine.sealCause
  rw [h.sealing]
  dsimp only
  rw [h.noOpen]
  exact hf

/-- Settles O36: the cartridge driven out, or cartridge memory written. -/
theorem unloadBegins : Obligations.UnloadBegins := by
  intro r s h hc hp
  have hk := h.toOrderTaken.kindOf
  refine ⟨fun hm => ?_, fun hrest hf hm hpos hl hread hacc => ?_⟩
  · let x : State := { s with ord.stage := .unloadUnthread, mot.ejecting := true }
    have hx : beginUnload r s = x := (if_pos hm).trans (if_pos hm)
    have hkx : takenKind x = some .unload := hk
    have hcx : Calm x := hc.ordered hc.sig hc.fmt hc.rdc rfl (.inl rfl) (delivering_ne hkx (by decide))
      (.inr ⟨atStage_ne hkx (by decide) _, by simp [atStage, x]⟩)
    refine (exec_passes h).trans (congrArg _ ?_)
    change finish (beginUnload r s) = _
    rw [hx, finish_rest hcx hp]
  · let y : State := endSession (setStage .unloadRewind (setStage .draining s))
    let x : State := { s with ord.stage := .unloadMemory, spm.session := .none, spm.start := none,
                              cml.access := some ⟨.unloadWrite, 1, some (unloadFields s), false⟩,
                              cml.accesses := min (s.cml.accesses + 1) 4294967295 }
    have hlost : motionLost s = false := by simp [motionLost, hm]
    have hbot : atBot s = true := by
      unfold atBot
      cases hq : s.mot.pos with
      | none => rw [hq] at hpos; cases hpos
      | some p =>
        rw [hq] at hpos
        simp only [Option.map_some, Option.some.injEq, Prod.mk.injEq] at hpos
        simp [hpos]
    have hmem : unloadMemory y = x := by
      unfold unloadMemory
      refine (if_pos ?_).trans (if_neg ?_)
      · change (decide (s.cml.state = .loaded) && s.cml.readable) = true
        simp [hl, hread]
      · change ¬ s.cml.access.isSome = true
        rw [hacc]; decide
    have hrew : unloadRewind (setStage .draining s) = unloadMemory y := by
      unfold unloadRewind
      refine (if_neg (by change ¬ motionLost s = true; rw [hlost]; decide)).trans
        ((if_neg (by change ¬ s.mot.state = .seated; rw [hm]; decide)).trans
          ((if_neg (by change ¬ recoveryRewinds s = true; simp [recoveryRewinds, hm])).trans (if_pos ?_)))
      change (atBot s && (decide (s.mot.state = .threadedIdle) || decide (s.mot.state = .relaxed))) = true
      simp [hbot, hm]
    have hx : beginUnload r s = x := by
      unfold beginUnload
      rw [if_neg (by rw [hm]; decide), hrest.discarded]
      dsimp only
      rw [if_neg (by change ¬ motionLost s = true; rw [hlost]; decide), (hrest.setStage .draining).sealCause,
        if_neg (by rw [(hrest.setStage .draining).noWrite]; decide), hrew, hmem]
    have hkx : takenKind x = some .unload := hk
    have hcx : Calm x := hc.ordered hc.sig hc.fmt ⟨.inl hrest.session, .inl (hc.noRow hp)⟩ rfl (.inl rfl)
      (delivering_ne hkx (by decide)) (.inl rfl)
    refine (exec_passes h).trans (congrArg _ ?_)
    change finish (beginUnload r s) = _
    rw [hx, finish_rest hcx hp]
    rfl

end Sys2Proof.Machine
end

section
/-! SUPPORT. What EXU does for the other blocks depends on memory, on EXU, on the arbiter and on the time alone: raises and
completions of states that agree in these. -/

namespace Sys2Proof.Machine

variable {s : State}

/-- States that agree in what EXU's accesses look at and change. -/
structure SameExchange (z s : State) : Prop where
  mem  : z.mem = s.mem
  exu  : z.exu = s.exu
  time : z.timebase = s.timebase
  marb : z.marb = s.marb

/-- One state with what EXU's accesses look at and change taken from another. -/
def withExchange (s z : State) : State := { z with mem := s.mem, exu := s.exu, timebase := s.timebase, marb := s.marb }

theorem SameExchange.eq {z : State} (h : SameExchange z s) : z = withExchange s z := by
  obtain ⟨hm, he, ht, hb⟩ := h
  unfold withExchange
  rw [← hm, ← he, ← ht, ← hb]

/-- What EXU's accesses bring to a state. -/
def exchanged (m : Memory) (e : Exu) (g1 : Requester) (g2 : Group) (z : State) : State :=
  { z with mem := m, exu := e, marb.lastGeneral := g1, marb.lastGroup := g2 }

theorem noteRaise_with (c : Condition) (a b d : Nat) (s : State) :
    ∃ e, ∀ z, noteRaise c a b d (withExchange s z) = { withExchange s z with exu := e } := by
  by_cases hb : s.exu.bind = .unbound
  · refine ⟨(noteRaise c a b d s).exu, fun z => ?_⟩
    rw [noteRaise_unbound hb, noteRaise_unbound (s := withExchange s z) hb]
    cases c <;> rfl
  · refine ⟨(noteRaise c a b d s).exu, fun z => ?_⟩
    rw [noteRaise_bound_eq hb, noteRaise_bound_eq (s := withExchange s z) hb, counted_eq, counted_eq]
    rfl

theorem serveOne_cell_with {c : Condition} {x : Detail} {n : Nat} {e : Exu} (hw : e.work = [.cell c x n]) (s : State) :
    ∃ m e', ∀ z, serveOne { withExchange s z with exu := e } = exchanged m e' .exu .general (withExchange s z) := by
  refine ⟨memWriteN s.mem (cellAddress (exchangeBase { s with exu := e }) c) (cellBytes x n),
    { e with work := [], cond := e.cond ||| c.mask }, fun z => ?_⟩
  have hb : exchangeBase (recordExuGrant { withExchange s z with exu := { e with work := [] } })
      = exchangeBase { s with exu := e } := by unfold exchangeBase; rfl
  have hm : (recordExuGrant { withExchange s z with exu := { e with work := [] } }).mem = s.mem := rfl
  have hs : serveOne { withExchange s z with exu := e }
      = perform (.cell c x n) (recordExuGrant { withExchange s z with exu := { e with work := [] } }) := by
    unfold serveOne; dsimp only; rw [hw]
  rw [hs, perform_cell_eq, hb, hm]
  generalize memWriteN s.mem (cellAddress (exchangeBase { s with exu := e }) c) (cellBytes x n) = m
  rfl

/-- What a raise brings is the same in states that agree in what EXU looks at. -/
theorem raise_with (c : Condition) (a b d : Nat) (s : State) :
    ∃ m e g1 g2, ∀ z, raise c a b d (withExchange s z) = exchanged m e g1 g2 (withExchange s z) := by
  obtain ⟨e, hn⟩ := noteRaise_with c a b d s
  have hz : ∀ z, (portFree (withExchange s z) && !exuWaits (withExchange s z)) = (portFree s && !exuWaits s) := fun z => rfl
  have hs : noteRaise c a b d s = { s with exu := e } := hn s
  by_cases hf : (portFree s && !exuWaits s) = true
  · simp only [Bool.and_eq_true, Bool.not_eq_true'] at hf
    have hw : s.exu.work = [] := exuWaits_eq_false.1 hf.2
    have hr : ∀ z, raise c a b d (withExchange s z) = serveOne { withExchange s z with exu := e } := fun z => by
      unfold raise; rw [hz, if_pos (by simp [hf]), hn z]
    by_cases hb : s.exu.bind = .unbound
    · have he : e.work = [] := by
        have h := noteRaise_unbound_work (c := c) (a := a) (b := b) (d := d) hb
        rw [hs] at h
        exact h.trans hw
      refine ⟨s.mem, e, s.marb.lastGeneral, s.marb.lastGroup, fun z => ?_⟩
      rw [hr]
      unfold serveOne
      dsimp only
      rw [he]
      rfl
    · obtain ⟨x, n, he⟩ : ∃ x n, e.work = [.cell c x n] := by
        have h := noteRaise_bound_eq (c := c) (a := a) (b := b) (d := d) hb
        rw [hs, counted_eq] at h
        have hx : e.work = s.exu.work ++ [_] := congrArg (fun y : State => y.exu.work) h
        exact ⟨_, _, by rw [hx, hw]; rfl⟩
      obtain ⟨m, e', hc⟩ := serveOne_cell_with he s
      exact ⟨m, e', _, _, fun z => (hr z).trans (hc z)⟩
  · refine ⟨s.mem, e, s.marb.lastGeneral, s.marb.lastGroup, fun z => ?_⟩
    unfold raise
    rw [hz, if_neg hf, hn z]
    rfl

/-- What a raise brings is the same in states that agree in what EXU looks at. -/
theorem raise_same (c : Condition) (a b d : Nat) (s : State) :
    ∃ m e g1 g2, ∀ z, SameExchange z s → raise c a b d z = exchanged m e g1 g2 z := by
  obtain ⟨m, e, g1, g2, h⟩ := raise_with c a b d s
  exact ⟨m, e, g1, g2, fun z hz => by rw [hz.eq]; exact h z⟩

theorem SameExchange.rfl : SameExchange s s := ⟨Eq.refl _, Eq.refl _, Eq.refl _, Eq.refl _⟩

/-- Raises in states that agree in what EXU looks at leave EXU, memory and the arbiter the same. -/
theorem SameExchange.raise {z : State} (h : SameExchange z s) (c : Condition) (a b d : Nat) :
    SameExchange (raise c a b d z) (raise c a b d s) := by
  obtain ⟨m, e, g1, g2, hr⟩ := raise_same c a b d s
  rw [hr z h, hr s .rfl]
  exact ⟨Eq.refl _, Eq.refl _, h.time, by unfold exchanged; rw [h.marb]⟩

/-- EXU as a completion that raises COMPLETIONS leaves it before the raise (R172). -/
def counting (k : Ticket) (s : State) : State := { s with exu.count := 0, exu.lastTicket := k, exu.quietTimer := none }

/-- What a completion counted brings is the same, no order being posted. -/
theorem counted_same (hp : portAtRest s) (hn : noneWaits s) (k : Ticket) : ∃ m e g1 g2, e.work = [] ∧
    ∀ z, SameExchange z s → lookForOrder (countCompletion k z) = exchanged m e g1 g2 z := by
  have hport : ∀ z, SameExchange z s → portAtRest z := fun z h => by rw [portAtRest, h.marb, h.exu]; exact hp
  by_cases hc : s.exu.trigger ≤ min (s.exu.count + 1) 65535 ∨ s.exu.quietTime = 0
  · obtain ⟨m, e, g1, g2, hr⟩ := raise_same .completions (min (s.exu.count + 1) 65535) k.toNat 0 (counting k s)
    have hx : ∀ z, SameExchange z s → lookForOrder (countCompletion k z) = exchanged m e g1 g2 z := fun z h => by
      have hpx : portAtRest (counting k z) := hport z h
      have hnx : (counting k z).exu.postMark = (counting k z).exu.takenMark := by
        change z.exu.postMark = z.exu.takenMark; rw [h.exu]; exact hn
      have hset := portAtRest_raise hpx .completions (min (z.exu.count + 1) 65535) k.toNat 0
      have hsame : SameExchange (counting k z) (counting k s) := ⟨h.mem, by unfold counting; rw [h.exu], h.time, h.marb⟩
      rw [countCompletion_reached (by rw [h.exu]; exact hc)]
      refine (lookForOrder_noteRaise hpx _ _ _ _).trans ?_
      rw [lookForOrder_none (.inr hset) (lookWanted_false (.inr ((raise_exu_postMark ..).trans (hnx.trans (raise_exu_takenMark ..).symm)))), h.exu, hr _ hsame]
      rfl
    refine ⟨m, e, g1, g2, ?_, hx⟩
    have hset := portAtRest_raise (s := counting k s) hp .completions (min (s.exu.count + 1) 65535) k.toNat 0
    rw [hr _ .rfl] at hset
    exact hset.2.2
  · rw [not_or, Nat.not_le] at hc
    refine ⟨s.mem, { s.exu with count := min (s.exu.count + 1) 65535, lastTicket := k, quietTimer := some (after s s.exu.quietTime) },
      s.marb.lastGeneral, s.marb.lastGroup, hp.2.2, fun z h => ?_⟩
    rw [h.eq, countCompletion_below (s := withExchange s z) hc.1 hc.2]
    exact lookForOrder_none (.inr hp) (lookWanted_false (.inr hn))

/-- The bytes written at a completion depend on memory and on EXU alone. -/
theorem writeDone_same (slot : Nat) (q : OrderResult) (s : State) : ∃ m, ∀ z,
    writeDone slot q (recordExuGrant (dropOrder (withExchange s z)))
      = { recordExuGrant (dropOrder (withExchange s z)) with mem := m } := by
  have hb : ∀ z, exchangeBase (recordExuGrant (dropOrder (withExchange s z))) = exchangeBase s := fun z => by
    unfold exchangeBase; rfl
  refine ⟨memWrite (memWriteN s.mem (slotAddress (exchangeBase s) slot + 144) (resultBytes q))
    (slotAddress (exchangeBase s) slot) 3, fun z => ?_⟩
  have hm : (recordExuGrant (dropOrder (withExchange s z))).mem = s.mem := rfl
  rw [writeDone_eq, hb, hm]

/-- What a completion at a port at rest brings, no order being posted, is the same in states that agree in what EXU looks at. -/
theorem finishActive_same (hp : portAtRest s) (hn : noneWaits s) (ha : s.exu.active.isSome = true) (q : OrderResult) :
    ∃ m e g1 g2, e.work = [] ∧ ∀ z, SameExchange z s → finishActive q z = exchanged m e g1 g2 (dropOrder z) := by
  obtain ⟨⟨slot, k⟩, ha⟩ := Option.isSome_iff_exists.1 ha
  obtain ⟨m0, hw⟩ := writeDone_same slot q s
  obtain ⟨m, e, g1, g2, hwork, hx⟩ := counted_same
    (s := endActive true { recordExuGrant (dropOrder s) with mem := m0 }) hp hn k
  refine ⟨m, e, g1, g2, hwork, fun z h => ?_⟩
  rw [h.eq, finishActive_rest_eq (s := withExchange s z) hp ha, hw]
  have hy := hx (endActive true { recordExuGrant (dropOrder (withExchange s z)) with mem := m0 }) ⟨rfl, rfl, rfl, rfl⟩
  exact hy

end Sys2Proof.Machine
end

section
/-! SUPPORT. Seals begun, open bundles without entries returned, and FLUSH (R15, R16, R58, R186). -/

namespace Sys2Proof.Machine

variable {s : State}

/-! ### The OPEN frame -/

theorem openFrame_some {i : Nat} (h : openFrame s = some i) : ∃ f, s.bsm.frames[i]? = some f ∧ f.state = .opened := by
  obtain ⟨hi, hp, -⟩ := List.findIdx?_eq_some_iff_getElem.1 h
  exact ⟨s.bsm.frames[i], List.getElem?_eq_getElem hi, by simpa using hp⟩

theorem openFrame_holds {i : Nat} (h : openFrame s = some i) : holdsWriteFrames s = true := by
  obtain ⟨f, hf, ho⟩ := openFrame_some h
  exact List.any_eq_true.2 ⟨f, List.mem_of_getElem? hf, by rw [ho]; decide⟩

theorem openFrame_none_iff : openFrame s = none ↔ ∀ f ∈ s.bsm.frames, f.state ≠ .opened := by
  unfold openFrame findFrame
  rw [List.findIdx?_eq_none_iff]
  simp

/-- Frame `i` changed, as a list with its entry replaced. -/
theorem modifyAt_some {f : Frame → Frame} {g : Frame} {l : List Frame} {i : Nat} (h : l[i]? = some g) :
    modifyAt f l i = l.set i (f g) := by
  rw [modifyAt_eq_set f freeFrame, List.getD_eq_getElem?_getD, h, Option.getD_some]

/-! ### Seals (R15) -/

theorem headerRows_length (h : BundleHeader) (ix : List IndexEntry) : (headerRows h ix).length = 32768 := by
  simp [headerRows, headerBytes]

theorem sealHeader_eq (c : SealCause) (s : State) : sealHeader c s = sealedHeader c s.cmp.index s.cmp.payloadFill s := by
  unfold sealHeader sealedHeader identityOf
  generalize s.cmp.index = ix
  cases ix <;> rfl

/-- The write of a header and index into rows 0 and 1 of frame `i` (R15). -/
def headerWrite (i : Nat) (h : BundleHeader) (ix : List IndexEntry) (s : State) : Transfer :=
  ⟨.cmpOut, .headerOut, true, s.bsm.base + i * 1114112, 32768, headerRows h ix⟩

/-- CMP at the beginning of a seal: its values are those of a new bundle (R15). -/
def sealedCmp (h : BundleHeader) (m : Cmp) : Cmp :=
  { m with sealing := some ⟨h, m.index, false, m.candidate.isSome⟩, idleTimer := none, history := [], table := [], index := [],
           payloadFill := 0, rawCount := 0 }

theorem beginSeal_eq {i : Nat} {f : Frame} (ho : openFrame s = some i) (hf : s.bsm.frames[i]? = some f) (c : SealCause) :
    beginSeal c s = { s with
      bsm.frames := s.bsm.frames.set i { f with
        header := some (sealedHeader c s.cmp.index s.cmp.payloadFill s), index := s.cmp.index },
      cmp := sealedCmp (sealedHeader c s.cmp.index s.cmp.payloadFill s) s.cmp,
      marb.transfers := s.marb.transfers
        ++ [headerWrite i (sealedHeader c s.cmp.index s.cmp.payloadFill s) s.cmp.index s] } := by
  unfold beginSeal
  rw [ho]
  dsimp only
  rw [sealHeader_eq]
  generalize sealedHeader c s.cmp.index s.cmp.payloadFill s = h
  have hw : raiseWrite .cmpOut .headerOut (frameBase s i) (headerRows h s.cmp.index) s
      = addTransfer (headerWrite i h s.cmp.index s) s := by
    unfold raiseWrite headerWrite
    rw [headerRows_length]
    rfl
  rw [hw]
  unfold updateFrame addTransfer
  dsimp only
  rw [modifyAt_some hf]
  rfl

/-- A seal begun, as the statements speak of it: from a state with the store and the cartridge of another. -/
theorem sealBegun_beginSeal {i : Nat} {x : State} (ho : openFrame x = some i) (hb : x.bsm = s.bsm)
    (hc : x.cml.copy = s.cml.copy) (c : SealCause) :
    SealBegun c i x.cmp.index x.cmp.payloadFill x.cmp.candidate.isSome s (beginSeal c x) := by
  obtain ⟨f, hf, -⟩ := openFrame_some ho
  have hh : sealedHeader c x.cmp.index x.cmp.payloadFill x = sealedHeader c x.cmp.index x.cmp.payloadFill s := by
    unfold sealedHeader; rw [hb, hc]
  rw [beginSeal_eq ho hf, hh]
  refine ⟨⟨rfl, rfl⟩, ⟨rfl, rfl, rfl, rfl, rfl⟩, fun g hg => ?_, ?_⟩
  · rw [← hb, hf, Option.some.injEq] at hg
    subst hg
    rw [← hb]
  · rw [← hb]
    exact List.mem_append_right _ (List.mem_singleton_self _)

/-- What a seal begun is told by. -/
theorem SealBegun.congr {c : SealCause} {i used : Nat} {ix : List IndexEntry} {again : Bool} {t t' : State}
    (h : SealBegun c i ix used again s t) (hc : t'.cmp = t.cmp) (hb : t'.bsm = t.bsm)
    (hm : ∀ x ∈ t.marb.transfers, x ∈ t'.marb.transfers) : SealBegun c i ix used again s t' := by
  obtain ⟨h1, h2, h3, h4⟩ := h
  exact ⟨by rw [hc]; exact h1, by rw [hc]; exact h2, fun f hf => by rw [hb]; exact h3 f hf, hm _ h4⟩

/-- A seal begun at a port at rest, with nothing else to go on with: its header's first burst runs. -/
theorem finish_beginSeal {i : Nat} {x : State} {c : SealCause} (ho : openFrame x = some i) (hp : portAtRest x)
    (hc : Calm (beginSeal c x)) (hb : x.bsm = s.bsm) (hcml : x.cml.copy = s.cml.copy) :
    ∃ t, finish (beginSeal c x) = t ∧ SealBegun c i x.cmp.index x.cmp.payloadFill x.cmp.candidate.isSome s t
      ∧ { t with bsm := x.bsm, cmp := x.cmp, marb := x.marb } = x
      ∧ t.cmp.candidate = x.cmp.candidate ∧ t.cmp.cursor = x.cmp.cursor := by
  obtain ⟨f, hf, -⟩ := openFrame_some ho
  have hbegun := sealBegun_beginSeal ho hb hcml c
  have he := beginSeal_eq ho hf c
  generalize hw : headerWrite i (sealedHeader c x.cmp.index x.cmp.payloadFill x) x.cmp.index x = w at he
  have hwho : w.who = .cmpOut := by rw [← hw]; rfl
  generalize sealedHeader c x.cmp.index x.cmp.payloadFill x = h at he
  generalize beginSeal c x = y at *
  have hy : y.marb.transfers = [w] ∧ y.marb.burst = none ∧ y.exu.work = [] := by
    rw [he]; exact ⟨by dsimp only; rw [hp.1]; rfl, hp.2.1, hp.2.2⟩
  refine ⟨portServes w y, finish_single hc hy.1 hy.2.1 hy.2.2 (by rw [hwho]; rfl),
    hbegun.congr rfl rfl (fun z hz => by rw [hy.1] at hz; exact hz), ?_⟩
  rw [he]
  exact ⟨rfl, rfl, rfl⟩

/-! ### A seal cause (R16) -/

theorem sealCause_sealing {x : Sealing} (h : s.cmp.sealing = some x) (c : SealCause) :
    sealCause c s = { s with cmp.sealing := some { x with flushSeen := true } } := by
  unfold sealCause; rw [h]

theorem sealCause_none (h : s.cmp.sealing = none) (ho : openFrame s = none) (c : SealCause) :
    sealCause c s = flushFoundNone s := by
  unfold sealCause; rw [h, ho]; rfl

theorem sealCause_empty {i : Nat} (h : s.cmp.sealing = none) (ho : openFrame s = some i) (hx : s.cmp.index = [])
    (c : SealCause) : sealCause c s = flushFoundNone (returnEmptyBundle s) := by
  unfold sealCause; rw [h, ho, hx]; rfl

theorem sealCause_entries {i : Nat} (h : s.cmp.sealing = none) (ho : openFrame s = some i) (hx : s.cmp.index ≠ [])
    (c : SealCause) : sealCause c s = beginSeal c s := by
  unfold sealCause
  rw [h, ho]
  exact (if_neg (by simp)).trans (if_neg (by simpa using hx))

theorem flushFoundNone_still (h : s.fmt.phase ≠ .stopped ∨ ∀ f ∈ s.bsm.frames, f.state ≠ .sealed) : flushFoundNone s = s := by
  refine if_neg ?_
  simp only [Bool.and_eq_true, decide_eq_true_eq, not_and, Nat.not_lt, Nat.le_zero]
  intro hp
  unfold frameCount
  rw [List.length_eq_zero_iff, List.filter_eq_nil_iff]
  exact fun f hf => by simpa using (h.resolve_left (not_not.2 hp)) f hf

/-- CMP's values with no bundle open and the idle timer stopped. -/
def emptiedCmp (m : Cmp) : Cmp := { m with idleTimer := none, history := [], table := [], index := [], payloadFill := 0, rawCount := 0 }

/-- An open bundle without entries gives its frame back; other write-mode frames stay (R15, R33). -/
theorem returnEmptyBundle_others {i j : Nat} {g : Frame} (ho : openFrame s = some i) (hm : s.bsm.mode = .write) (hj : j ≠ i)
    (hg : s.bsm.frames[j]? = some g) (hw : g.state.writeMode = true) :
    returnEmptyBundle s = { s with bsm.frames := s.bsm.frames.set i freeFrame, cmp := emptiedCmp s.cmp }
      ∧ holdsWriteFrames (returnEmptyBundle s) = true := by
  obtain ⟨f, hf, -⟩ := openFrame_some ho
  let x : State := { s with bsm.frames := s.bsm.frames.set i freeFrame, cmp := emptiedCmp s.cmp }
  have hx : holdsWriteFrames x = true := by
    refine List.any_eq_true.2 ⟨g, List.mem_of_getElem? (i := j) ?_, hw⟩
    change (s.bsm.frames.set i freeFrame)[j]? = some g
    rw [List.getElem?_set_ne (Ne.symm hj), hg]
  have hr : returnEmptyBundle s = x := by
    have hset : returnEmptyBundle s = settleMode x := by
      unfold returnEmptyBundle
      rw [ho]
      dsimp only
      unfold freeFrameAt updateFrame
      dsimp only
      rw [modifyAt_some hf]
      rfl
    rw [hset]
    unfold settleMode
    change (match s.bsm.mode with | _ => _) = _
    rw [hm]
    exact if_pos hx
  exact ⟨hr, by rw [hr]; exact hx⟩

/-- An open bundle without entries that is the last of the store's write work leaves the store IDLE, which is reported (R33). -/
theorem returnEmptyBundle_last {i : Nat} (ho : openFrame s = some i) (hm : s.bsm.mode = .write) (hc : s.bsm.claims = [])
    (hj : ∀ (j : Nat) (f : Frame), j ≠ i → s.bsm.frames[j]? = some f → f.state = .free) :
    returnEmptyBundle s = emit .writeDrained { s with
        bsm.frames := s.bsm.frames.set i freeFrame, bsm.mode := .idle, cmp := emptiedCmp s.cmp }
      ∧ ∀ f ∈ s.bsm.frames.set i freeFrame, f.state = .free := by
  obtain ⟨f, hf, -⟩ := openFrame_some ho
  let x : State := { s with bsm.frames := s.bsm.frames.set i freeFrame, cmp := emptiedCmp s.cmp }
  have hfree : ∀ f ∈ s.bsm.frames.set i freeFrame, f.state = .free := fun g hg => by
    obtain ⟨j, hgj⟩ := List.mem_iff_getElem?.1 hg
    by_cases hij : i = j
    · subst hij
      rw [List.getElem?_set_self (List.getElem?_eq_some_iff.1 hf).1, Option.some.injEq] at hgj
      rw [← hgj]; rfl
    · rw [List.getElem?_set_ne hij] at hgj
      exact hj j g (Ne.symm hij) hgj
  have hx : holdsWriteFrames x = false := by
    unfold holdsWriteFrames
    rw [List.any_eq_false]
    exact fun g hg => by rw [hfree g hg]; decide
  refine ⟨?_, hfree⟩
  have hset : returnEmptyBundle s = settleMode x := by
    unfold returnEmptyBundle
    rw [ho]
    dsimp only
    unfold freeFrameAt updateFrame
    dsimp only
    rw [modifyAt_some hf]
    rfl
  rw [hset]
  unfold settleMode
  change (match s.bsm.mode with | _ => _) = _
  rw [hm]
  refine (if_neg (by rw [hx]; decide)).trans ?_
  unfold tellRdc
  exact if_pos (by change s.bsm.claims.isEmpty = true; rw [hc]; rfl)

/-! ### FLUSH (R186) -/

/-- A FLUSH that finds write work goes on waiting, its seal cause met. -/
theorem beginFlush_waits {r : OrderRec} (h : holdsWriteFrames (sealCause .flush (setStage .waiting s)) = true) :
    beginFlush r s = sealCause .flush (setStage .waiting s) := if_pos h

theorem calm_waiting {k : Kind} {x : State} (h : Calm s) (hp : portAtRest s) (hk : takenKind s = some k) (hr : k ≠ .read)
    (hl : k ≠ .load) (hu : k ≠ .unload) (hsig : x.sig = s.sig) (hfmt : x.fmt = s.fmt) (hmot : x.mot = s.mot)
    (hmode : x.bsm.mode = s.bsm.mode) (hrdc : x.rdc = s.rdc) (hcml : x.cml = s.cml) (hdcp : x.dcp = s.dcp)
    (hrec : x.ord.record = s.ord.record) (happ : x.ord.append = s.ord.append) : Calm x := by
  have hkx : takenKind x = some k := by rw [← hk]; unfold takenKind; rw [hrec]
  refine h.ordered (by rw [hsig, h.sig]) ?_ ⟨?_, .inl (by rw [hrdc]; exact h.noRow hp)⟩ (by rw [hdcp]) (.inl happ)
    (delivering_ne hkx hr) (cmlAtRest_ne hkx hl hu)
  · have := h.fmt
    unfold fmtAtRest fmtPlacesNone fmtReadsNone at this ⊢
    rwa [hfmt, hmot, hmode]
  · have := h.rdc.1
    unfold sessionRests sessionEmpty nextBundle eodBundle at this ⊢
    rwa [hrdc, hmot, hcml]

theorem requestStart_still (h : s.mot.state = .positioned ∨ s.mot.state = .threadedIdle) (place : Option Nat)
    (kind : StartKind) : requestStart place kind s = startFrom place kind s := by
  unfold requestStart
  rcases h with h | h <;> rw [h]

/-- A start from still tape at tension, of a session's own or from the splice point held. -/
theorem startFrom_held {place : Option Nat} {p : Nat} {kind : StartKind} (h : place.or s.mot.splice = some p)
    (hon : p < physicalEnd s) : ∃ m : Mot, startFrom place kind s = { s with mot := m }
      ∧ (m.state = .starting ∨ m.state = .travel) := by
  unfold startFrom
  rw [h]
  dsimp only
  rw [if_neg (Nat.not_le.2 hon)]
  split_ifs
  · obtain ⟨h, hstate, -⟩ := enterStarting_eq { s with mot.splice := some p, mot.startKind := some kind }
    exact ⟨_, h, .inl hstate⟩
  · exact ⟨_, rfl, .inr rfl⟩

/-- A session at rest for its own sake rests whatever the motion (R67, R71). -/
theorem rdcRests_moved {y : State} (h : s.rdc.phase = .none ∨ sessionRests s ∨ sessionEmpty s)
    (hm : s.mot.state ≠ .faultHeld) (hr : y.rdc = s.rdc := by rfl) (hc : y.cml = s.cml := by rfl) :
    y.rdc.phase = .none ∨ sessionRests y ∨ sessionEmpty y := by
  unfold sessionRests sessionEmpty nextBundle eodBundle at *
  rw [hr, hc]
  rcases h with h | ⟨hp, ha⟩ | h
  · exact .inl h
  · exact .inr (.inl ⟨.inl (hp.resolve_right hm), fun a hmem => ⟨(ha a hmem).1, .inr ((ha a hmem).2.resolve_left hm)⟩⟩)
  · exact .inr (.inr h)

/-- Settles O31, by what the FLUSH finds in the store. -/
theorem flushOfStoreAtRest : Obligations.FlushOfStoreAtRest := by
  intro r i s h hc hp hn ha
  have hk := h.toOrderTaken.kindOf
  have hexec : exec .flush s = .next (finish (beginFlush r s)) := exec_passes h
  have hw : (∃ f ∈ s.bsm.frames, f.state.writeMode = true) → holdsWriteFrames s = true := fun ⟨f, hf, hm⟩ =>
    List.any_eq_true.2 ⟨f, hf, hm⟩
  refine ⟨fun hrest hf => ?_, fun x hx hf => ?_, fun hx ho hix => ?_, fun hx ho hix hm hf ⟨j, g, hj, hg, hgw⟩ => ?_,
    fun hx ho hix hm hcl hj hf => ?_, fun hx ho hf hs => ?_, fun hx ho hsl hf hcur hread hmot ⟨p, hsp, hpe⟩ => ?_⟩
  · have hb : beginFlush r s = complete .ok .none (setStage .waiting s) := by
      unfold beginFlush
      rw [(hrest.setStage .waiting).sealCause]
      exact if_neg (by rw [(hrest.setStage .waiting).noWrite]; decide)
    have hk' : takenKind (setStage .waiting s) = some .flush := hk
    rw [hexec, hb, complete_plain (.inl hk'), finishActive_setStage hp ha, hc.finish_completed hp hn ha]
    rfl
  · have hs : sealCause .flush (setStage .waiting s)
        = { s with ord.stage := .waiting, cmp.sealing := some { x with flushSeen := true } } :=
      sealCause_sealing (s := setStage .waiting s) hx .flush
    rw [hexec, beginFlush_waits (by rw [hs]; exact hw hf), hs]
    exact congrArg _ (finish_rest (calm_waiting hc hp hk (by decide) (by decide) (by decide) rfl rfl rfl rfl rfl rfl rfl rfl rfl) hp)
  · obtain ⟨f, hf, hfo⟩ := openFrame_some ho
    have hs : sealCause .flush (setStage .waiting s) = beginSeal .flush (setStage .waiting s) :=
      sealCause_entries (s := setStage .waiting s) hx ho hix .flush
    have he := beginSeal_eq (s := setStage .waiting s) ho hf .flush
    have hhold : holdsWriteFrames (beginSeal .flush (setStage .waiting s)) = true := by
      rw [he]
      refine List.any_eq_true.2 ⟨_, List.mem_of_getElem? (i := i) (List.getElem?_set_self (List.getElem?_eq_some_iff.1 hf).1), ?_⟩
      change f.state.writeMode = true
      rw [hfo]; decide
    have hcx : Calm (beginSeal .flush (setStage .waiting s)) := by
      rw [he]
      exact calm_waiting hc hp hk (by decide) (by decide) (by decide) rfl rfl rfl rfl rfl rfl rfl rfl rfl
    obtain ⟨t, hfin, hbegun, hkept, -, -⟩ := finish_beginSeal (s := s) (x := setStage .waiting s) ho hp hcx rfl rfl
    exact ⟨t, by rw [hexec, beginFlush_waits (by rw [hs]; exact hhold), hs, hfin], hbegun, hkept⟩
  · obtain ⟨hr, hhold⟩ := returnEmptyBundle_others (s := setStage .waiting s) ho hm hj hg hgw
    have hs : sealCause .flush (setStage .waiting s) = returnEmptyBundle (setStage .waiting s) := by
      rw [sealCause_empty (s := setStage .waiting s) hx ho hix, hr]
      exact flushFoundNone_still (.inl hf)
    rw [hexec, beginFlush_waits (by rw [hs]; exact hhold), hs, hr]
    have hcx : Calm { setStage .waiting s with bsm.frames := s.bsm.frames.set i freeFrame, cmp := emptiedCmp s.cmp } :=
      calm_waiting hc hp hk (by decide) (by decide) (by decide) rfl rfl rfl rfl rfl rfl rfl rfl rfl
    refine congrArg _ ((finish_rest hcx hp).trans ?_)
    unfold emptiedCmp setStage
    dsimp only
    rw [hix]
  · obtain ⟨hr, hfree⟩ := returnEmptyBundle_last (s := setStage .waiting s) ho hm hcl hj
    let u : State := { setStage .waiting s with
      bsm.frames := s.bsm.frames.set i freeFrame, bsm.mode := .idle, cmp := emptiedCmp s.cmp, sig := [] }
    have hr : returnEmptyBundle (setStage .waiting s) = emit .writeDrained u := by
      rw [hr]
      unfold emit
      rw [show (setStage .waiting s).sig = [] from hc.sig]
      rfl
    have hs : sealCause .flush (setStage .waiting s) = emit .writeDrained u := by
      rw [sealCause_empty (s := setStage .waiting s) hx ho hix, hr]
      exact flushFoundNone_still (.inr fun f hf => by rw [hfree f hf]; decide)
    have hnone : holdsWriteFrames (emit .writeDrained u) = false := by
      unfold holdsWriteFrames
      rw [List.any_eq_false]
      exact fun g hg => by rw [hfree g hg]; decide
    have hb : beginFlush r s = complete .ok .none (emit .writeDrained u) := by
      unfold beginFlush
      rw [hs]
      exact if_neg (by rw [hnone]; decide)
    have hk' : takenKind (emit .writeDrained u) = some .flush := hk
    let q : OrderResult := ⟨.ok, .none, resultFlags s false s.ord.discardSeen false, 0, s.ord.position, 0, 0, []⟩
    have hc' : complete .ok .none (emit .writeDrained u) = finishActive q (emit .writeDrained u) := complete_plain (.inl hk') _ _
    obtain ⟨m, e, g1, g2, hwork, hdone⟩ := finishActive_same hp hn ha q
    have h1 := hdone (emit .writeDrained u) ⟨rfl, rfl, rfl, rfl⟩
    have h2 := hdone u ⟨rfl, rfl, rfl, rfl⟩
    refine ⟨_, u, ?_, rfl, rfl, rfl, rfl, rfl, rfl, rfl⟩
    rw [hexec, hb, hc', h1, h2]
    have hcalm : Calm (exchanged m e g1 g2 (dropOrder u)) := by
      refine calm_of_none rfl ⟨.inl hf, .inl (by change StoreMode.idle ≠ .write; decide)⟩ ?_ rfl rfl
      exact hc.rdc
    exact congrArg _ ((finish_answered_calm (t := exchanged m e g1 g2 (dropOrder u)) (x := .writeDrained) rfl rfl hcalm).trans
      (grant_atRest ⟨hp.1, hp.2.1, hwork⟩))
  · have hs' : sealCause .flush (setStage .waiting s) = setStage .waiting s := by
      rw [sealCause_none (s := setStage .waiting s) hx ho]
      exact flushFoundNone_still hs
    rw [hexec, beginFlush_waits (by rw [hs']; exact hw hf), hs']
    exact congrArg _ (finish_rest (calm_waiting hc hp hk (by decide) (by decide) (by decide) rfl rfl rfl rfl rfl rfl rfl rfl rfl) hp)
  · obtain ⟨f, hf', hsealed⟩ := hsl
    have hcount : 0 < frameCount s .sealed := by
      unfold frameCount
      exact List.length_pos_of_mem (List.mem_filter.2 ⟨hf', by simpa using hsealed⟩)
    let y : State := { setStage .waiting s with fmt.phase := .emitting, fmt.startPoint := none,
                                                fmt.resume := s.fmt.startPoint.or s.fmt.resume }
    obtain ⟨m, hstart, hstate⟩ := startFrom_held (s := y) (kind := .write) (place := s.fmt.startPoint) hsp hpe
    have htakes : s.mot.state.takesStart = true := by rcases hmot with h | h <;> rw [h] <;> rfl
    have hask : askRestart (setStage .waiting s) = startFrom s.fmt.startPoint .write y := by
      refine (if_pos htakes).trans (requestStart_still (s := y) hmot _ _)
    have hs : sealCause .flush (setStage .waiting s) = { y with mot := m } := by
      rw [sealCause_none (s := setStage .waiting s) hx ho, ← hstart, ← hask]
      refine if_pos ?_
      change (decide (s.fmt.phase = .stopped) && decide (0 < frameCount s .sealed)) = true
      simp [hf, hcount]
    have hcx : Calm { y with mot := m } := by
      have hkx : takenKind { y with mot := m } = some .flush := hk
      refine hc.ordered hc.sig ⟨.inr (.inr (.inl ⟨rfl, ?_, ?_, .inr (.inr (.inl ?_))⟩)), .inr (.inr (.inr (.inl hread)))⟩ ⟨?_, ?_⟩
        rfl (.inl rfl) (delivering_ne hkx (by decide)) (cmlAtRest_ne hkx (by decide) (by decide))
      · simp [emissionWork, y, setStage, hcur]
      · rcases hstate with h | h <;> simp [tapeStands, h]
      · rcases hstate with h | h <;> simp [h]
      · exact rdcRests_moved hc.rdc.1 (by rcases hmot with h | h <;> rw [h] <;> decide)
      · exact .inl (hc.noRow hp)
    rw [hexec, beginFlush_waits (by rw [hs]; exact hw ⟨f, hf', by rw [hsealed]; decide⟩), hs, finish_rest hcx hp]
    exact ⟨_, rfl, rfl, hstate, rfl, rfl, rfl, rfl, rfl⟩

end Sys2Proof.Machine
end

section
/-! SUPPORT. The events of the tape and of the cartridge with no order TAKEN: what each leaves, and how its signal is answered
(chapter 5). -/

namespace Sys2Proof.Machine

variable {s : State}

/-! ### Idle states and the signals that no order hears -/

theorem Idle.takenKind (h : Idle s) : takenKind s = none := by unfold Machine.takenKind; rw [h.record]

/-- With no order TAKEN, no session and FMT at rest, the part is calm. -/
theorem calm_unordered (hsig : s.sig = []) (hfmt : fmtAtRest s) (hses : s.rdc.phase = .none) (hrow : s.rdc.inBuffer = [])
    (happ : s.ord.append = none) (hrec : s.ord.record = none) : Calm s where
  sig := hsig
  fmt := hfmt
  rdc := ⟨.inl hses, .inl hrow⟩
  dcp := .inr (.inl ⟨by simp [delivering, atStage_none hrec], by simp [readingBack, happ]⟩)
  cml := .inr ⟨atStage_none hrec _ _, atStage_none hrec _ _⟩

/-- What MOT, CML and the timebase hold is nothing to a part left idle. -/
theorem Idle.tape (h : Idle s) (m : Mot) (c : Cml) :
    Idle { s with mot := m, cml := c } :=
  ⟨h.sig, h.stopped, h.noFetch, h.session, h.noRow, h.decoder, h.noAppend, h.record, h.noSearch, h.port⟩

theorem Idle.raise (h : Idle s) (c : Condition) (a b d : Nat) : Idle (raise c a b d s) := by
  have hp := portAtRest_raise h.port c a b d
  obtain ⟨m, e, g1, g2, hr⟩ := raise_frame c a b d s
  rw [hr] at hp ⊢
  exact ⟨h.sig, h.stopped, h.noFetch, h.session, h.noRow, h.decoder, h.noAppend, h.record, h.noSearch, hp⟩

theorem taken_emit (h : s.sig = []) (x : Signal) : { emit x s with sig := [] } = s := by
  cases s; cases h; rfl

/-- A signal that a part left idle sends, and whose answer leaves it idle. -/
theorem finish_emit {t : State} {x : Signal} (h : Idle s) (ha : answerSignal x s = t) (ht : Idle t) :
    finish (emit x s) = t := by
  refine finish_answered (x := x) (by unfold emit; rw [h.sig]; rfl) ?_ ht
  rw [taken_emit h.sig]
  exact ha

theorem onArrived_idle (h : Idle s) : onArrived s = s := by
  unfold onArrived
  simp only [atStage_none h.record]
  rfl

theorem onMotionFailed_idle (h : Idle s) : onMotionFailed s = s := by
  unfold onMotionFailed
  rw [h.takenKind]
  rfl

theorem findDone_idle (h : Idle s) : findDone s = s := by
  unfold findDone
  rw [h.noSearch]

theorem onThreaded_idle (h : Idle s) : onThreaded s = { s with ord.recovering := false } := by
  have hk : Machine.takenKind { s with ord.recovering := false } = none := h.takenKind
  have hst : ∀ st, atStage { s with ord.recovering := false } .unload st = false := fun st =>
    atStage_none (s := { s with ord.recovering := false }) h.record _ _
  unfold onThreaded
  dsimp only
  rw [hk, hst, hst]
  rfl

theorem onSeated_idle (h : Idle s) : onSeated s = { s with ord.recovering := false } := by
  have hk : Machine.takenKind { s with ord.recovering := false } = none := h.takenKind
  have hst : ∀ st, atStage { s with ord.recovering := false } .unload st = false := fun st =>
    atStage_none (s := { s with ord.recovering := false }) h.record _ _
  unfold onSeated
  dsimp only
  rw [hk, hst, hst]
  rfl

theorem onEmergency_none (h : s.ord.record = none) (speed : Bool) : onEmergency speed s = s := by
  have hk : Machine.takenKind s = none := by unfold Machine.takenKind; rw [h]
  unfold onEmergency
  rw [hk]

theorem Idle.recovered (h : Idle s) : Idle { s with ord.recovering := false } :=
  ⟨h.sig, h.stopped, h.noFetch, h.session, h.noRow, h.decoder, h.noAppend, h.record, h.noSearch, h.port⟩

/-! ### Timers -/

theorem expired_none : expired none s = false := rfl
theorem expired_due {x : Time} (h : (s.timebase - x).toNat < 2147483648) : expired (some x) s = true := decide_eq_true h
theorem expired_early {x : Time} (h : 2147483648 ≤ (s.timebase - x).toNat) : expired (some x) s = false :=
  decide_eq_false (Nat.not_lt.2 h)

/-! ### The speed lock (R91, R92) -/

/-- The level and count one more in-tolerance frame brings, at counts that fit the level. -/
theorem inToleranceLevel_eq {m : Mot} (h : LockSound m.lock m.lockCount) : inToleranceLevel m =
    (if 64 ≤ m.lockCount + 1 then .locked else if 32 ≤ m.lockCount + 1 then .settled else .unlocked,
      min (m.lockCount + 1) 64) := by
  obtain ⟨hu, hst, hl⟩ := h
  unfold inToleranceLevel
  cases hm : m.lock
  · have := hu hm
    rcases Nat.lt_or_ge (m.lockCount + 1) 32 with h' | h'
    · rw [if_neg (by omega), if_neg (by omega), if_neg (by omega), if_neg (by omega)]
    · rw [if_neg (by omega), if_pos (by omega), if_neg nofun, if_neg (by omega), if_pos (by omega)]
  · have := hst hm
    by_cases h' : m.lockCount + 1 = 64
    · rw [if_pos (by omega), if_pos (by omega)]
    · rw [if_neg (by omega), if_neg (by omega), if_neg (by omega), if_pos (by omega)]
  · have := hl hm
    rw [if_pos (by omega), if_pos (by omega)]

theorem counting_iff (m : MotionState) :
    m.counting = true ↔ m = .starting ∨ m = .streamingWrite ∨ m = .streamingRead := by
  cases m <;> simp [MotionState.counting]

theorem exec_servoFrame_still (h1 : s.mot.state ≠ .starting) (h2 : s.mot.state ≠ .streamingWrite)
    (h3 : s.mot.state ≠ .streamingRead) (good : Bool) : exec (.servoFrame good) s = .next s := by
  have hc : ¬ s.mot.state.counting = true := by rw [counting_iff]; simp [h1, h2, h3]
  change Host.Outcome.next (if s.mot.state.counting then _ else s) = _
  rw [if_neg hc]

theorem exec_servoFrame_counting (h : s.mot.state = .starting ∨ s.mot.state = .streamingWrite ∨ s.mot.state = .streamingRead)
    (good : Bool) : exec (.servoFrame good) s = .next (finish (if good then inTolerance s else outOfTolerance s)) := by
  change Host.Outcome.next (if s.mot.state.counting then _ else s) = _
  rw [if_pos ((counting_iff _).2 h)]

/-- Settles O47: in tolerance by `inToleranceLevel_eq`, out of tolerance by the level found. -/
theorem servoFramesMoveLock : Obligations.ServoFramesMoveLock := by
  intro s hi
  refine ⟨fun h1 h2 h3 good => exec_servoFrame_still h1 h2 h3 good, fun hc hl => ⟨?_, fun hlock => ?_, fun hlock => ?_⟩⟩
  · obtain ⟨x, hx⟩ : ∃ m, inTolerance s = { s with mot := m } := by
      unfold inTolerance setLock; dsimp only; split_ifs <;> exact ⟨_, rfl⟩
    have hf : finish (inTolerance s) = inTolerance s := by rw [hx]; exact finish_idle (hi.tape x s.cml)
    refine ⟨inTolerance s, (exec_servoFrame_counting hc true).trans (congrArg Host.Outcome.next hf), ?_⟩
    have hlost : s.mot.lock = .locked → 64 ≤ s.mot.lockCount + 1 := fun h => by have := hl.2.2 h; omega
    unfold inTolerance
    dsimp only
    rw [inToleranceLevel_eq hl]
    unfold setLock
    rcases Nat.lt_or_ge (s.mot.lockCount + 1) 64 with hn | hn
    · have hne : s.mot.lock ≠ .locked := fun h => absurd (hlost h) (by omega)
      rw [if_neg (by omega : ¬64 ≤ s.mot.lockCount + 1)]
      rcases Nat.lt_or_ge (s.mot.lockCount + 1) 32 with hm | hm
      · rw [if_neg (by omega : ¬32 ≤ s.mot.lockCount + 1)]
        simp [hne, show ¬63 ≤ s.mot.lockCount by omega]
      · rw [if_pos hm]
        simp [hne, show ¬63 ≤ s.mot.lockCount by omega]
    · rw [if_pos hn]
      simp [show 63 ≤ s.mot.lockCount by omega]
  · have hl' : s.mot.lockCount = 64 := hl.2.2 hlock
    obtain ⟨x, hx⟩ : ∃ m, outOfTolerance s = { s with mot := m } := by
      unfold outOfTolerance setLock startLimit; dsimp only; split_ifs <;> exact ⟨_, rfl⟩
    have hf : finish (outOfTolerance s) = outOfTolerance s := by rw [hx]; exact finish_idle (hi.tape x s.cml)
    refine ⟨outOfTolerance s, (exec_servoFrame_counting hc false).trans (congrArg Host.Outcome.next hf), ?_⟩
    unfold outOfTolerance outOfToleranceLevel setLock startLimit bump after
    by_cases hs : s.mot.state = .starting <;> cases ht : s.mot.limitTimer <;>
      simp [hlock, hs, ht]
  · have hx : outOfTolerance s = { s with mot.lock := .unlocked, mot.lockCount := 0 } := by
      unfold outOfTolerance outOfToleranceLevel setLock
      simp [hlock]
    refine (exec_servoFrame_counting hc false).trans (congrArg Host.Outcome.next ?_)
    rw [if_neg (by decide), hx]
    exact finish_idle (hi.tape _ s.cml)

/-! ### The emergency stop (R55, R88, R89, R92) -/

/-- No transfer being in hand, none is dropped. -/
theorem dropTransfers_rest (h : portAtRest s) (p : Purpose → Bool) : dropTransfers p s = s := by
  obtain ⟨ht, hb, -⟩ := h
  have hm : s.marb = { s.marb with burst := none, transfers := [] } := by rw [← hb, ← ht]
  unfold dropTransfers
  rw [ht, hb]
  cases s
  simp only at hm
  rw [hm]
  simp

/-- FMT at an emergency stop with no transfer in hand: it alone changes, and reads no row from then on. -/
theorem fmtEmergency_frame (h : portAtRest s) : ∃ f, fmtEmergency s = { s with fmt := f, writeHeads := [] }
    ∧ f.phase = (if holdsWriteFrames s then .held else .stopped)
    ∧ (s.fmt.phase = .stopped → fmtReadsNone s → ∀ m, fmtAtRest { s with mot := m, fmt := f }) := by
  have hd : dropTransfers (fun p => p = .rowFetch) { s with fmt.window := [], fmt.slots := [], writeHeads := [] }
      = { s with fmt.window := [], fmt.slots := [], writeHeads := [] } := 
    dropTransfers_rest (s := { s with fmt.window := [], fmt.slots := [], writeHeads := [] }) h _
  have hw : holdsWriteFrames { s with fmt.window := [], fmt.slots := [], writeHeads := [] } = holdsWriteFrames s := rfl
  unfold fmtEmergency
  rw [hd]
  dsimp only
  rw [hw]
  split_ifs
  · exact ⟨_, rfl, rfl, fun _ _ _ => ⟨.inr (.inl rfl), .inr (.inl rfl)⟩⟩
  · refine ⟨_, rfl, rfl, fun hs hn _ => ⟨.inl rfl, ?_⟩⟩
    unfold fmtReadsNone at hn ⊢
    simpa [hs] using hn

/-- An emergency stop changes MOT alone, before FMT is told. -/
theorem brake_eq (s : State) : brake s = { s with mot := (brake s).mot } := rfl

/-- What an emergency stop leaves (R88, R89, R92). -/
theorem emergencyStopped (h : Idle s) (speed : Bool) (detail sensed : Nat) :
    EmergencyStopped detail sensed s (finish (emergencyStop speed detail sensed s)) := by
  obtain ⟨b, hb⟩ : ∃ b, b = (brake s).mot := ⟨_, rfl⟩
  have hbe : brake s = { s with mot := b } := by rw [hb, ← brake_eq]
  obtain ⟨f, hf, hphase, hrest⟩ := fmtEmergency_frame (s := { s with mot := b }) h.port
  have hfb : fmtEmergency (brake s) = { s with mot := b, fmt := f, writeHeads := [] } := by rw [hbe, hf]
  have hr : SameExchange (fmtEmergency (brake s)) s := by rw [hfb]; exact ⟨rfl, rfl, rfl, rfl⟩
  have hcalm : Calm (fmtEmergency (brake s)) := by
    rw [hfb]
    exact calm_unordered h.sig (hrest h.stopped h.noFetch b) h.session h.noRow h.noAppend h.record
  have hport : portAtRest (fmtEmergency (brake s)) := by rw [hfb]; exact h.port
  have hord : (fmtEmergency (brake s)).ord.record = none := by rw [hfb]; exact h.record
  obtain ⟨m, e, g1, g2, hx⟩ := raise_same .motionFault 0 detail sensed s
  have hcr := hcalm.raise .motionFault 0 detail sensed
  have hfin : finish (emergencyStop speed detail sensed s) = raise .motionFault 0 detail sensed (fmtEmergency (brake s)) := by
    refine (finish_answered_calm (x := .emergency speed) ?_ ?_ hcr).trans
      (grant_atRest (portAtRest_raise hport .motionFault 0 detail sensed))
    · unfold emergencyStop emit; rw [hcr.sig]; rfl
    · unfold emergencyStop
      rw [taken_emit hcr.sig]
      exact onEmergency_none (by rw [raise_ord]; exact hord) speed
  have hs : raise .motionFault 0 detail sensed s = exchanged m e g1 g2 s := hx s .rfl
  rw [hfin, hx _ hr, hfb]
  exact
    { state := by subst hb; exact ⟨rfl, rfl, rfl, rfl⟩
      released := by subst hb; exact ⟨rfl, rfl, rfl⟩
      lock := by subst hb; exact ⟨rfl, rfl⟩
      timers := by subst hb; exact ⟨rfl, rfl⟩
      counted := by subst hb; rfl
      raised := by rw [hs]; exact ⟨rfl, rfl⟩
      fmt := hphase
      kept := by subst hb; exact ⟨rfl, rfl, rfl⟩ }

/-- Settles O48: both faults by `emergencyStopped`. -/
theorem emergencyStop_obligation : Obligations.EmergencyStop := by
  intro s hi
  have hlim : exec .lockLimitTimerExpiry s
      = .next (if expired s.mot.limitTimer s then finish (Machine.emergencyStop true 5 s.mot.speed s) else s) := rfl
  have hten : exec .tensionFault s
      = .next (if tensionWatched s.mot then finish (Machine.emergencyStop false 4 s.mot.state.code s) else s) := rfl
  refine ⟨fun hn => ?_, fun x hx hlate => ?_, fun hoff hno => ?_, fun x hx hdue => ?_, fun hon => ?_⟩
  · rw [hlim, hn, expired_none]; rfl
  · rw [hlim, hx, expired_early hlate]; rfl
  · have hw : tensionWatched s.mot = false := by unfold tensionWatched; simpa [hoff] using hno
    rw [hten, hw]; rfl
  · exact ⟨_, by rw [hlim, hx, expired_due hdue, if_pos rfl], emergencyStopped hi true 5 s.mot.speed⟩
  · have hw : tensionWatched s.mot = true := by unfold tensionWatched; simpa using hon
    exact ⟨_, by rw [hten, hw, if_pos rfl], emergencyStopped hi false 4 s.mot.state.code⟩

end Sys2Proof.Machine
end

section
/-! SUPPORT. The events of tape that stops, travels, turns and is unthreaded, with no order TAKEN (R83 to R108). -/

namespace Sys2Proof.Machine

variable {s : State}

/-! ### The cartridge gone (R83, R107) -/

/-- A cartridge being driven out, with a claim of a frame still held by BSM. -/
def ejectedWithClaim : State := { Tests.seated with mot.ejecting := true, bsm.claims := [(0, 0, 0)] }

theorem ejectedWithClaim_idle : Idle ejectedWithClaim := Tests.idle_of (by decide)

/-- The frame claims after a command. -/
def claimsAfter (i : Instr) (s : State) : List (Nat × Nat × Nat) :=
  match exec i s with
  | .next t => t.bsm.claims
  | .fault _ | .refused _ => []

theorem ejectedWithClaim_after : claimsAfter .cartridgeRemoved ejectedWithClaim = [] := by decide

/-- Refutes O49: the end of the cartridge session clears RDC (R82), and with it the frame claims that BSM holds, so BSM is not
left as it was in `ejectedWithClaim`. -/
theorem not_cartridgeSeatedAndGone : ¬ Obligations.CartridgeSeatedAndGone := by
  intro h
  obtain ⟨t, ht, -, -, -, -, -, -, -, -, -, -, hb, -⟩ := (h false _ ejectedWithClaim_idle).2.2.2 rfl
  have hc : claimsAfter .cartridgeRemoved ejectedWithClaim = t.bsm.claims := by unfold claimsAfter; rw [ht]
  rw [ejectedWithClaim_after, hb] at hc
  cases hc

/-! ### Unthreading (R86, R107) -/

/-- A motion fault of threading or unthreading, with no order to tell: it is raised, and that is all. -/
theorem finish_motionFault (h : Idle s) (detail : Nat) (sensed : MotionState) :
    finish (motionFault detail sensed s) =
      raise .motionFault 0 detail sensed.code { s with mot.motionFaults := bump s.mot.motionFaults } := by
  have hr : Idle (raise .motionFault 0 detail sensed.code { s with mot.motionFaults := bump s.mot.motionFaults }) :=
    (h.tape _ s.cml).raise ..
  exact finish_emit hr (onMotionFailed_idle hr) hr

theorem exec_leaderHome (h : s.mot.state = .unthreading) : exec .leaderHome s = .next (finish (leaderIsHome s)) := by
  change Host.Outcome.next (if _ then _ else s) = _
  rw [if_pos (by simpa using h)]

/-- Settles O51. -/
theorem unthreadingEvents : Obligations.UnthreadingEvents := by
  intro s hi
  have hexp : exec .unthreadTimerExpiry s = .next (if s.mot.state = .unthreading && expired s.mot.threadTimer s then
      finish (unthreadFailed s) else s) := rfl
  refine ⟨fun hne => ⟨?_, ?_⟩, fun hst => ⟨?_, fun x hx hlate => ?_, fun x hx hdue => ?_⟩⟩
  · change Host.Outcome.next (if _ then _ else s) = _
    rw [if_neg (by simpa using hne)]
  · rw [hexp, if_neg (by simp [hne])]
  · let home : State := { s with mot.state := .seated, mot.leader := .home, mot.pos := none, mot.threadTimer := none,
                                  mot.tension := .off, mot.ejecting := false, mot.word := none }
    have hh : Idle home := hi.tape _ s.cml
    rw [exec_leaderHome hst]
    by_cases hw : s.mot.unthreadWhy = .pathFault
    · obtain ⟨m, e, g1, g2, hx⟩ := raise_same .motionFault 0 2 14 s
      have hl : leaderIsHome s = motionFault 2 .unthreading home := if_pos hw
      refine ⟨_, rfl, ?_⟩
      rw [hl, finish_motionFault hh]
      have hz := hx { home with mot.motionFaults := bump home.mot.motionFaults } ⟨rfl, rfl, rfl, rfl⟩
      rw [show MotionState.unthreading.code = 14 from rfl, hz, hx s .rfl]
      exact ⟨rfl, rfl, rfl, rfl, rfl, hi.record, fun _ => ⟨rfl, rfl⟩, fun h => absurd hw h⟩
    · have hl : leaderIsHome s = emit .seated home := if_neg hw
      refine ⟨{ home with ord.recovering := false }, ?_, rfl, rfl, rfl, rfl, rfl, hi.record, fun h => absurd h hw,
        fun _ => ⟨rfl, rfl, rfl⟩⟩
      rw [hl, finish_emit (x := .seated) hh (onSeated_idle hh) hh.recovered]
  · rw [hexp, hx, expired_early hlate, Bool.and_false]
    rfl
  · rw [hexp, hx, expired_due hdue, if_pos (by simp [hst])]
    exact congrArg Host.Outcome.next (finish_motionFault (s := { s with
      mot.state := .faultHeld, mot.leader := .inPath, mot.pos := none, mot.threadTimer := none, mot.tension := .off })
      (hi.tape _ s.cml) 3 .unthreading)

/-! ### The stop, the backhitch and travel (R90, R97, R103) -/

theorem enterTravel_eq (d : Destination) (s : State) : enterTravel d s = { s with mot := (enterTravel d s).mot } := rfl

/-- Settles O52. -/
theorem stopAndBackhitch : Obligations.StopAndBackhitch := by
  intro p sp s hi
  have hdwell : exec .dwellTimerExpiry s = .next (if expired s.mot.dwellTimer s
      && (s.mot.state = .threadedIdle || s.mot.state = .positioned) then relaxTape s else s) := rfl
  have hstop : s.mot.state = .stopping → exec .tapeAtRest s = .next (finish (atRest s)) := fun h => by
    change Host.Outcome.next (if _ then _ else s) = _
    rw [if_pos (by simpa using h)]
  refine ⟨fun x hx hdue hst => ?_, fun hn => ?_, fun x hx hlate => ?_, fun hne => ?_, fun hst hrest hpos hsp hw hlt => ?_,
    fun hst hrest hpos hsp hno => ?_, fun hne => ?_, fun hst hsp hheld hloc => ?_⟩
  · rw [hdwell, hx, expired_due hdue, if_pos (by simpa using hst)]
    rfl
  · rw [hdwell, hn, expired_none]
    rfl
  · rw [hdwell, hx, expired_early hlate]
    rfl
  · change Host.Outcome.next (if _ then _ else s) = _
    rw [if_neg (by simpa using hne)]
  · have ha : atRest s = { s with mot.state := .repositioning, mot.dwellTimer := none,
                                   mot.pos := some { p with dir := (wrapDirection p.wrap).opposite } } := by
      unfold atRest moveToRunUp
      rw [hrest, hpos, hsp]
      dsimp only [Option.getD_some]
      rw [if_pos (by simp [hw, hlt])]
    rw [hstop hst, ha, finish_idle (hi.tape _ s.cml)]
  · have ha : atRest s = enterTravel (.runUp true) s := by
      unfold atRest moveToRunUp
      rw [hrest, hpos, hsp]
      dsimp only [Option.getD_some]
      rw [if_neg (by simpa using hno)]
    refine ⟨enterTravel (.runUp true) s, ?_, rfl, rfl, hsp, rfl⟩
    have hf : finish (enterTravel (.runUp true) s) = enterTravel (.runUp true) s :=
      finish_idle (hi.tape (enterTravel (.runUp true) s).mot s.cml)
    rw [hstop hst, ha, hf]
  · change Host.Outcome.next (if _ then _ else s) = _
    rw [if_neg (by simpa using hne)]
  · have hx : exec .runUpPointReached s = .next (finish (arriveRunUp true s)) := by
      change Host.Outcome.next (if _ then _ else s) = _
      rw [if_pos (by simpa using hst)]
    let at' : State := startDwell { s with
      mot.state := .positioned, mot.backhitches := bump s.mot.backhitches
      mot.pos := some ⟨(runUpPoint s sp).1, (runUpPoint s sp).2, wrapDirection (runUpPoint s sp).1⟩ }
    have hat : Idle at' := hi.tape _ s.cml
    have ha : arriveRunUp true s = emit .positioned at' := by
      unfold arriveRunUp
      rw [hsp]
      simp [startDwell, hheld, hloc, at']
    rw [hx, ha, finish_emit (x := .positioned) hat (findDone_idle hat) hat]
    rfl

/-- Tape that comes to rest at a place, no request being held, with the signal its arrival sends to no one. -/
theorem finish_arrived (h : Idle s) (hh : s.mot.held = none) (place : Nat × Nat) :
    finish (emit .arrived (serveHeld (idleAt place s))) = idleAt place s := by
  have hx : Idle (idleAt place s) := h.tape _ s.cml
  have hs : serveHeld (idleAt place s) = idleAt place s := by
    have hheld : (idleAt place s).mot.held = none := hh
    unfold serveHeld
    rw [hheld]
  rw [hs, finish_emit (x := .arrived) hx (onArrived_idle hx) hx]

theorem exec_travelArrival (h : s.mot.state = .travel) : exec .travelArrival s = .next (finish (travelArrives s)) := by
  change Host.Outcome.next (if _ then _ else s) = _
  rw [if_pos (by simpa using h)]

/-- Settles O53. -/
theorem travelArrives_obligation : Obligations.TravelArrives := by
  intro x s hi hheld
  have hbot : exec .botSensor s = .next (if recoveryRewinds s then finish (recoveryEnds s) else s) := rfl
  refine ⟨fun hne => ⟨?_, ?_⟩, fun hst hd => ?_, fun hst hd hw => ?_, fun hst hd => ?_, fun hst hd => ?_⟩
  · change Host.Outcome.next (if _ then _ else s) = _
    rw [if_neg (by simpa using hne)]
  · rw [hbot, if_neg (by simp [recoveryRewinds, hne])]
  · have ha : travelArrives s = arriveNamed (destinationPlace s (.named x)) (countTravel s) := by
      unfold travelArrives; rw [hd]
    have hc : Idle (countTravel s) := hi.tape _ s.cml
    refine ⟨idleAt (destinationPlace s (.named x)) (countTravel s), ?_, rfl, ?_, rfl, rfl, rfl, rfl⟩
    · rw [exec_travelArrival hst, ha]
      exact congrArg Host.Outcome.next (finish_arrived hc hheld _)
    · change some (⟨(destinationPlace s (.named x)).1, (destinationPlace s (.named x)).2,
        wrapDirection (destinationPlace s (.named x)).1⟩ : Pos) = _
      rw [show destinationPlace s (.named x) = if physicalEnd s ≤ x then ((geometry s).wraps - 1, wrapLength s - 1)
        else (x / wrapLength s, x % wrapLength s) from rfl]
      split_ifs <;> rfl
  · have ha : travelArrives s = emit .arrived (serveHeld (idleAt (0, 0) { countTravel s with mot.afterRewind := .nothing })) := by
      unfold travelArrives arriveBot
      rw [hd]
      have hw' : (countTravel s).mot.afterRewind = .nothing := hw
      dsimp only
      rw [hw']
    let z : State := { s with mot := { s.mot with travels := bump s.mot.travels, afterRewind := .nothing } }
    have hc : Idle z := hi.tape _ s.cml
    have hz : { countTravel s with mot.afterRewind := .nothing } = z := rfl
    refine ⟨idleAt (0, 0) z, ?_, rfl, rfl, rfl, rfl, rfl⟩
    rw [exec_travelArrival hst, ha, hz, finish_arrived hc hheld]
  · have hx : Idle (idleAt (0, 0) s) := hi.tape _ s.cml
    have hs : serveHeld (idleAt (0, 0) s) = idleAt (0, 0) s := by
      have hh : (idleAt (0, 0) s).mot.held = none := hheld
      unfold serveHeld
      rw [hh]
    refine ⟨{ idleAt (0, 0) s with ord.recovering := false }, ?_, rfl, rfl, rfl, rfl, rfl, rfl, rfl⟩
    rw [hbot, if_pos (by simp [recoveryRewinds, hst, hd])]
    unfold recoveryEnds
    rw [hs, finish_emit (x := .threaded) hx (onThreaded_idle hx) hx.recovered]
  · rw [hbot, if_neg (by simp [recoveryRewinds, hd])]

/-! ### The turn (R99) -/

/-- The early-warning crossing changes its marks and what a raise brings. -/
theorem crossEarlyWarning_frame (s : State) : ∃ m e g1 g2 r f,
    crossEarlyWarning s = { s with mem := m, exu := e, marb.lastGeneral := g1, marb.lastGroup := g2, mot.ewReported := r,
                                   fmt.ewFlag := f }
      ∧ (portAtRest s → e.work = []) := by
  have hsame : s = { s with mem := s.mem, exu := s.exu, marb.lastGeneral := s.marb.lastGeneral
                            marb.lastGroup := s.marb.lastGroup, mot.ewReported := s.mot.ewReported
                            fmt.ewFlag := s.fmt.ewFlag } := rfl
  unfold crossEarlyWarning
  split
  · split_ifs
    · unfold earlyWarning
      split_ifs
      · exact ⟨s.mem, s.exu, s.marb.lastGeneral, s.marb.lastGroup, true, s.fmt.ewFlag, rfl, fun h => h.2.2⟩
      · let z : State := { s with mot.ewReported := true, fmt.ewFlag := true }
        obtain ⟨m, e, g1, g2, hr⟩ := raise_frame .earlyWarning s.fmt.lastPlaced 0 0 z
        refine ⟨m, e, g1, g2, true, true, hr, fun h => ?_⟩
        have hw := portAtRest_raise (s := z) h .earlyWarning s.fmt.lastPlaced 0 0
        rw [hr] at hw
        exact hw.2.2
    · exact ⟨_, _, _, _, _, _, hsame, fun h => h.2.2⟩
  · exact ⟨_, _, _, _, _, _, hsame, fun h => h.2.2⟩

/-- The beginning of a row time of STREAMING_WRITE changes the slots, the crossing's marks and what a raise brings. -/
theorem beginWriteRowTime_frame (s : State) : ∃ m e g1 g2 r f,
    beginWriteRowTime s = { s with mem := m, exu := e, marb.lastGeneral := g1, marb.lastGroup := g2, mot.ewReported := r,
                                   fmt.ewFlag := f, fmt.slots := activeChannels s.hcm, writeHeads := [] }
      ∧ (portAtRest s → e.work = []) :=
  crossEarlyWarning_frame { s with fmt.slots := activeChannels s.hcm, writeHeads := [] }

/-- A row time that begins leaves an idle part idle. -/
theorem Idle.beginWriteRowTime (h : Idle s) : Idle (beginWriteRowTime s) := by
  obtain ⟨m, e, g1, g2, r, f, hb, hw⟩ := beginWriteRowTime_frame s
  rw [hb]
  exact ⟨h.sig, h.stopped, h.noFetch, h.session, h.noRow, h.decoder, h.noAppend, h.record, h.noSearch,
    h.port.1, h.port.2.1, hw h.port⟩

/-- Settles O54: no request being held, streaming is resumed, and a row time of STREAMING_WRITE begins. -/
theorem turnEndsOnNextWrap : Obligations.TurnEndsOnNextWrap := by
  intro p s hi
  refine ⟨fun hne => ?_, fun hst hheld hpos => ?_⟩
  · change Host.Outcome.next (if _ then _ else s) = _
    rw [if_neg (by simpa using hne)]
  · have hx : exec .turnDone s = .next (finish (turnEnds (turnedHeads s))) := by
      change Host.Outcome.next (if _ then _ else s) = _
      rw [if_pos (by simpa using hst)]
    have hh : (turnedHeads s).mot.held = none := hheld
    have ht : turnEnds (turnedHeads s) = enterStreaming s.mot.turnFrom (startLimit (turnedHeads s)) := by
      unfold turnEnds heldStop
      rw [hh]
      rfl
    rw [hx, ht]
    let m : Mot := { s.mot with
      pos := some ⟨p.wrap + 1, 0, wrapDirection (p.wrap + 1)⟩, wrapTurns := bump s.mot.wrapTurns
      limitTimer := some (after s 2000), splice := none, startKind := none }
    have hm : dropSplice (startLimit (turnedHeads s)) = { s with mot := m } := by
      unfold turnedHeads startLimit dropSplice
      rw [hpos]
      rfl
    cases hk : s.mot.turnFrom with
    | read =>
      let x : State := { s with mot := { m with state := .streamingRead }, rdc.rowTime := none }
      have he : enterStreaming .read (startLimit (turnedHeads s)) = x :=
        congrArg (fun y : State => { y with mot.state := .streamingRead, rdc.rowTime := none }) hm
      have hid : Idle x := ⟨hi.sig, hi.stopped, hi.noFetch, hi.session, hi.noRow, hi.decoder, hi.noAppend, hi.record,
        hi.noSearch, hi.port⟩
      rw [he, finish_idle hid]
      exact ⟨x, rfl, rfl, rfl, rfl, rfl, rfl, rfl, rfl, rfl⟩
    | write =>
      let x : State := { s with mot := { m with state := .streamingWrite, ewReported := false } }
      have he : enterStreaming .write (startLimit (turnedHeads s)) = beginWriteRowTime x :=
        congrArg (fun y : State => beginWriteRowTime { y with mot.state := .streamingWrite, mot.ewReported := false }) hm
      have hid : Idle x := hi.tape _ s.cml
      rw [he, finish_idle hid.beginWriteRowTime]
      obtain ⟨mm, e, g1, g2, r, f, hb, -⟩ := beginWriteRowTime_frame x
      rw [hb]
      exact ⟨_, rfl, rfl, rfl, rfl, rfl, rfl, rfl, rfl, rfl⟩

end Sys2Proof.Machine
end

section
/-! SUPPORT. Working tension with a LOAD in hand (R131): the end of data that the copy gives may lie below the bundle at which a
read session with no bundle in hand stands, which then ends. -/

namespace Sys2Proof.Machine

/-- The motion state after a command. -/
def motionAfter (i : Instr) (s : State) : Option MotionState :=
  match exec i s with
  | .next t => some t.mot.state
  | .fault _ | .refused _ => none

/-- A LOAD whose tape comes under tension while a read session with no bundle in hand stands at bundle 5, below the end of data of
the map of before, 10, and above that of the copy, 2. -/
def tensionedInSession : State :=
  { Tests.tensioning .held none true with
    rdc.phase := .reading, rdc.next := some 5, cml.map := some ⟨10, 10, 0, 500⟩ }

theorem tensionedInSession_calm : Calm tensionedInSession where
  sig := rfl
  fmt := (Tests.tensioning_calm .held none true).1.fmt
  rdc := ⟨.inr (.inr ⟨rfl, rfl, rfl, by decide⟩), .inl rfl⟩
  dcp := .inr (.inl ⟨rfl, rfl⟩)
  cml := .inr ⟨rfl, rfl⟩

theorem tensionedInSession_after : motionAfter (.workingTension ⟨8, 1000, 100⟩) tensionedInSession = some .travel := by
  decide +kernel

/-- Refutes O50: the map of the copy ends the read session of `tensionedInSession` in the step of the completion, and the tape is
asked to stop, so that MOT is not left in THREADED_IDLE. -/
theorem not_threadingEvents : ¬ Obligations.ThreadingEvents := by
  intro h
  obtain ⟨hcopy, -⟩ := h.1 ⟨8, 1000, 100⟩ (Tests.plainOrder 8) tensionedInSession tensionedInSession_calm ⟨rfl, rfl, rfl⟩ rfl rfl rfl rfl
    rfl rfl rfl rfl rfl
  obtain ⟨c, hc⟩ : ∃ c, tensionedInSession.cml.copy = some c := ⟨_, rfl⟩
  obtain ⟨u, hu, -, -, -, -, -, -, -, hmot, -⟩ := hcopy c rfl rfl rfl hc
  have hm : motionAfter (.workingTension ⟨8, 1000, 100⟩) tensionedInSession = some u.mot.state := by
    unfold motionAfter
    rw [hu]
    exact congrArg some (by rw [finishActive_mot])
  rw [tensionedInSession_after, hmot] at hm
  cases hm

end Sys2Proof.Machine
end

section
/-! SUPPORT. The soft reset (R110): the lock dropped from LOCKED is a lock loss, and is counted. -/

namespace Sys2Proof.Machine

/-- The lock losses counted after a command. -/
def lockLossesAfter (i : Instr) (s : State) : Option Nat :=
  match exec i s with
  | .next t => some t.mot.lockLosses
  | .fault _ | .refused _ => none

/-- A tape streaming at LOCKED, no lock loss counted. -/
def streamingLocked : State :=
  { Tests.loaded with mot.state := .streamingWrite, mot.lock := .locked, mot.lockCount := 64 }

theorem streamingLocked_after : lockLossesAfter .softReset streamingLocked = some 1 := by decide +kernel

/-- Refutes O7: the soft reset drops the lock of `streamingLocked` and counts the loss, so that the counters are not kept. -/
theorem not_softResetState : ¬ Obligations.SoftResetState := by
  intro h
  obtain ⟨t, ht, -, -, -, -, -, -, -, -, -, -, hcount, -⟩ := h streamingLocked rfl
  have hlost : t.mot.lockLosses = 0 := congrArg (fun l : List Nat => l.getD 17 0) hcount
  have hafter : lockLossesAfter .softReset streamingLocked = some t.mot.lockLosses := by unfold lockLossesAfter; rw [ht]
  rw [streamingLocked_after, hlost] at hafter
  cases hafter

end Sys2Proof.Machine
end

section
/-! SUPPORT. The abort of a LOCATE in its work (R191): the tape stops at the heads, and a stop from STREAMING_READ ends the row time
in hand, row slots of FMT that are left over from another motion state included (R45). -/

namespace Sys2Proof.Machine

/-- The row slots after a command. -/
def slotsAfter (i : Instr) (s : State) : List Nat :=
  match exec i s with
  | .next t => t.fmt.slots
  | .fault _ | .refused _ => []

/-- A LOCATE that reads, with a row slot left over. -/
def locatingWithSlot : State :=
  { Tests.taking (Tests.locateOf 3 0) Tests.streaming with ord.stage := .positioning, fmt.slots := [0] }

theorem locatingWithSlot_after : slotsAfter (.abort 1) locatingWithSlot = [] := by decide +kernel

/-- Refutes O19: the stop at the heads of `locatingWithSlot` drops its row slot, so that FMT is not left as it was. -/
theorem not_abortOfWriteInIntake : ¬ Obligations.AbortOfWriteInIntake := by
  intro h
  obtain ⟨-, -, hpos, -⟩ := h 1 0 (Tests.locateOf 3 0) locatingWithSlot ⟨rfl, rfl, rfl⟩ rfl (by decide) rfl rfl
  obtain ⟨-, hwork⟩ := hpos .locate rfl (by decide) (Tests.calm_of (by decide))
  obtain ⟨u, hu, -, -, -, -, -, hf, -⟩ := hwork ⟨0, 5, .forward⟩ rfl rfl (.inl rfl)
  have hafter : slotsAfter (.abort 1) locatingWithSlot = u.fmt.slots := by
    unfold slotsAfter
    rw [hu]
    exact congrArg Fmt.slots (finishActive_fmt _ u)
  rw [locatingWithSlot_after, hf] at hafter
  cases hafter

end Sys2Proof.Machine
end

section
/-! SUPPORT. Completions handed to EXU in the step of a write of CMP_OUT (R38): the statements about them leave out that the last
grantee of the tape group is one of that group. -/

namespace Sys2Proof.Machine

/-- How many accesses of EXU wait after a command. -/
def waitingAfter (i : Instr) (s : State) : Option Nat :=
  match exec i s with
  | .next t => some t.exu.work.length
  | .fault _ | .refused _ => none

/-- A state after grants of which that of the tape group names EXU, as no state met from reset on has it. -/
def exuForTape (s : State) : State :=
  { s with marb.lastTape := .exu, marb.lastGeneral := .exu, marb.lastGroup := .general }

theorem exuForTape_calm {s : State} (h : Tests.restful s = true) : Calm (exuForTape s) := by
  have hc := Tests.calm_of h
  exact ⟨hc.sig, hc.fmt, hc.rdc, hc.dcp, hc.cml⟩

/-- A completion handed over where EXU is the last grantee of the general group leaves two accesses waiting. -/
theorem CompletionHanded.two_wait {slot : Nat} {k : Ticket} {q : OrderResult} {s t : State}
    (h : CompletionHanded slot k q (exuForTape s) t) : t.exu.work.length = 2 := by
  rw [(h.waits (show Requester.exu ∉ [Requester.cmpOut, .dcpIn, .dcpOut] by decide)).1]
  rfl

theorem chunkCommit_after : waitingAfter .chunkCommit (exuForTape (Tests.chunkReady 0 32768 0)) = some 0 := by
  decide +kernel

/-- Refutes O40: the port goes to EXU before CMP_OUT, and no access of EXU waits, where the statement has two. -/
theorem not_chunkCommitMovesBundleOn : ¬ Obligations.ChunkCommitMovesBundleOn := by
  intro h
  obtain ⟨t, ht, -, -, -, -, -, -, -, -, -, -, -, -, hdone, -⟩ := h.2.1 (Tests.orderOf 1 0 1 (toBytes 4 16777216 ++ toBytes 4 32768))
    ⟨.plain, [1, 2, 3], [1, 2, 3], []⟩ ⟨0, 0, 10⟩ 0 (exuForTape (Tests.chunkReady 0 32768 0)) (exuForTape_calm (by decide))
    ⟨rfl, rfl, rfl⟩ rfl rfl rfl rfl rfl rfl rfl rfl rfl (by decide) (by decide) (by decide) (by decide)
  have hx := hdone 0 1 (by decide +kernel) (by decide) rfl
  have hw : waitingAfter .chunkCommit (exuForTape (Tests.chunkReady 0 32768 0)) = some t.exu.work.length := by
    unfold waitingAfter; rw [ht]
  rw [chunkCommit_after, hx.two_wait] at hw
  cases hw

theorem mark_after : waitingAfter .mark (exuForTape (Tests.taking Tests.markOrder (Tests.holding 1022))) = some 0 := by
  decide +kernel

theorem mark_passes : OrderPasses .mark Tests.markOrder (exuForTape (Tests.taking Tests.markOrder (Tests.holding 1022))) :=
  ⟨⟨rfl, rfl, rfl⟩, rfl, by decide +kernel⟩

/-- Refutes O30: the port goes to EXU before the seal's write, and no access of EXU waits, where the statement has two. -/
theorem not_markCommitsItsMarks : ¬ Obligations.MarkCommitsItsMarks := by
  intro h
  obtain ⟨-, -, hfull, -⟩ := h Tests.markOrder 0 0 1 (exuForTape (Tests.taking Tests.markOrder (Tests.holding 1022)))
    mark_passes (exuForTape_calm (by decide)) ⟨rfl, rfl, rfl⟩ rfl rfl (by decide) rfl rfl rfl rfl
    (by decide) rfl rfl
  obtain ⟨t, ht, -, -, -, -, -, hdone⟩ := hfull rfl (by decide) (by decide +kernel) (by decide +kernel) (.inr rfl)
  have hx := hdone (by decide +kernel)
  have hw : waitingAfter .mark (exuForTape (Tests.taking Tests.markOrder (Tests.holding 1022))) = some t.exu.work.length := by
    unfold waitingAfter; rw [ht]
  rw [mark_after, hx.two_wait] at hw
  cases hw

end Sys2Proof.Machine
end

section
/-! SUPPORT. A read frame's header (R64): it is set when the writing of row 0 begins (`storeRow`), not with the last burst of that
writing, so that a header that has changed in between stands. -/

namespace Sys2Proof.Machine

/-- Which frames hold a header after a command. -/
def headersAfter (i : Instr) (s : State) : List Bool :=
  match exec i s with
  | .next t => t.bsm.frames.map (fun f => f.header.isSome)
  | .fault _ | .refused _ => []

/-- Row 0 of bundle 1 with its header, its last byte in hand, its frame without one. -/
def storingHeader : State :=
  { Tests.storing with
    rdc.inBuffer := [⟨1, 0, 5, Tests.headerRow⟩]
    marb.transfers := [⟨.rowIn, .rowStore, true, 1048576, 1, [0]⟩], marb.burst := some ⟨.rowIn, 1⟩ }

theorem storingHeader_after :
    headersAfter .burstDone storingHeader = [false, false, false, false, false, false, false, false] := by decide +kernel

theorem storingHeader_steady (m : Memory) (fs : List Frame) : Steady { storingHeader with
    marb.burst := none, marb.transfers := [], rdc.inBuffer := [], mem := m, bsm.frames := fs,
    rdc.assemblies := [⟨1, 0, [0], 5, 5, 0, .gathering, false, [0], 0⟩] } :=
  Calm.steady ⟨rfl, ⟨.inl rfl, .inl (by change StoreMode.read ≠ .write; decide)⟩,
    ⟨.inr (.inl ⟨.inl rfl, List.forall_mem_singleton.mpr ⟨rfl, .inr ⟨rfl, rfl⟩⟩⟩), .inl rfl⟩, .inr (.inl ⟨rfl, rfl⟩),
    .inr ⟨rfl, rfl⟩⟩

/-- Refutes O44: the last burst of row 0 leaves the frame of `storingHeader` without the header of the row. -/
theorem not_readHeadsReport : ¬ Obligations.ReadHeadsReport := by
  intro h
  have hstored := h.2.1 ⟨1, 0, 5, Tests.headerRow⟩ [] 0 ⟨.filling, some 1, some 0, none, []⟩
    ⟨1, 0, [], 5, 5, 0, .gathering, false, [0], 0⟩ true 1048576 1 [0] storingHeader rfl (by decide) (by decide) rfl
    (by decide) rfl rfl rfl rfl (fun _ => rfl)
  have hexec := hstored (storingHeader_steady _ _)
  have hafter := storingHeader_after
  unfold headersAfter at hafter
  rw [hexec] at hafter
  cases hafter

end Sys2Proof.Machine
end

section
/-! SUPPORT. The evaluation of the head care monitor (R148): what it leaves of the other blocks, and its own values as a function of
those before it. -/

namespace Sys2Proof.Machine

variable {s t u : State}

/-! ### What the evaluation changes -/

/-- Nothing but the head care monitor, the signals and what raises bring differs, and a port at rest stays so. -/
structure HeadCareOnly (s t : State) : Prop where
  eq   : ∃ m e g1 g2 h l, t = { exchanged m e g1 g2 s with hcm := h, sig := l }
  port : portAtRest s → portAtRest t
  exu  : t.exu.alertSet = s.exu.alertSet ∧ t.exu.trigger = s.exu.trigger ∧ t.exu.quietTime = s.exu.quietTime
    ∧ t.exu.active = s.exu.active ∧ t.exu.postMark = s.exu.postMark ∧ t.exu.takenMark = s.exu.takenMark
    ∧ t.exu.bind = s.exu.bind

theorem HeadCareOnly.refl (s : State) : HeadCareOnly s s :=
  ⟨⟨s.mem, s.exu, s.marb.lastGeneral, s.marb.lastGroup, s.hcm, s.sig, rfl⟩, id, rfl, rfl, rfl, rfl, rfl, rfl, rfl⟩

theorem HeadCareOnly.trans (h : HeadCareOnly s t) (k : HeadCareOnly t u) : HeadCareOnly s u where
  eq := by
    obtain ⟨m, e, g1, g2, x, l, rfl⟩ := h.eq
    obtain ⟨m', e', g1', g2', x', l', rfl⟩ := k.eq
    exact ⟨m', e', g1', g2', x', l', rfl⟩
  port hp := k.port (h.port hp)
  exu := by
    obtain ⟨h1, h2, h3, h4, h5, h6, h7⟩ := h.exu
    obtain ⟨k1, k2, k3, k4, k5, k6, k7⟩ := k.exu
    exact ⟨k1.trans h1, k2.trans h2, k3.trans h3, k4.trans h4, k5.trans h5, k6.trans h6, k7.trans h7⟩

theorem headCareOnly_hcm (s : State) (h : Hcm) : HeadCareOnly s { s with hcm := h } :=
  ⟨⟨s.mem, s.exu, s.marb.lastGeneral, s.marb.lastGroup, h, s.sig, rfl⟩, id, rfl, rfl, rfl, rfl, rfl, rfl, rfl⟩

theorem headCareOnly_emit (x : Signal) (s : State) : HeadCareOnly s (emit x s) :=
  ⟨⟨s.mem, s.exu, s.marb.lastGeneral, s.marb.lastGroup, s.hcm, s.sig ++ [x], rfl⟩, id, rfl, rfl, rfl, rfl, rfl, rfl, rfl⟩

theorem headCareOnly_raise (c : Condition) (a b d : Nat) (s : State) : HeadCareOnly s (raise c a b d s) where
  eq := by
    obtain ⟨m, e, g1, g2, h⟩ := raise_same c a b d s
    exact ⟨m, e, g1, g2, s.hcm, s.sig, h s .rfl⟩
  port hp := portAtRest_raise hp c a b d
  exu := ⟨raise_exu_alertSet .., raise_exu_trigger .., raise_exu_quietTime .., raise_exu_active .., raise_exu_postMark ..,
    raise_exu_takenMark .., raise_exu_bind ..⟩

theorem headCareOnly_retireOrFence (c score : Nat) (s : State) : HeadCareOnly s (retireOrFence c score s) := by
  unfold retireOrFence retireChannel fenceHead
  split
  · exact (headCareOnly_hcm s _).trans (headCareOnly_raise ..)
  · split
    · exact .refl s
    · exact ((headCareOnly_hcm s _).trans (headCareOnly_raise ..)).trans (headCareOnly_emit ..)

theorem headCareOnly_retirementTest (cs : List (Nat × Channel)) (s : State) : HeadCareOnly s (retirementTest cs s) := by
  induction cs generalizing s with
  | nil => exact .refl s
  | cons c cs ih => exact (headCareOnly_retireOrFence c.1 c.2.score s).trans (ih _)

theorem headCareOnly_raiseCall (call : CleanCall) (cause : Nat) (s : State) : HeadCareOnly s (raiseCall call cause s) :=
  (headCareOnly_hcm s _).trans (headCareOnly_raise ..)

theorem headCareOnly_wornTest (s : State) : HeadCareOnly s (wornTest s) := by
  unfold wornTest
  split
  · exact (headCareOnly_hcm s _).trans (headCareOnly_raise ..)
  · exact .refl s

theorem headCareOnly_callTest (s : State) : HeadCareOnly s (callTest s) := by
  unfold callTest
  split
  · split
    · split
      · exact (headCareOnly_raiseCall _ _ s).trans (headCareOnly_wornTest _)
      · exact headCareOnly_raiseCall _ _ s
    · exact .refl s
  · exact .refl s

theorem headCareOnly_evaluate (s : State) : HeadCareOnly s (evaluate s) :=
  ((headCareOnly_retirementTest _ s).trans (headCareOnly_hcm _ _)).trans (headCareOnly_callTest _)

/-! ### The monitor's own values -/

/-- A channel taken out of service. -/
def outOfService (c : Channel) : Channel := { c with active := false }

/-- The monitor with a channel retired (R151). -/
def retiredHcm (c : Nat) (h : Hcm) : Hcm :=
  { h with channels := modifyAt outOfService h.channels c, n := h.n - 1, retirements := bump h.retirements }

/-- The monitor with the head fenced (R152). -/
def fencedHcm (h : Hcm) : Hcm := if h.fence then h else { h with fence := true, fences := bump h.fences }

/-- The monitor after the retirement test (R151, R152). -/
def testedHcm : List (Nat × Channel) → Hcm → Hcm
  | [], h => h
  | c :: cs, h => testedHcm cs (if 12 < h.n then retiredHcm c.1 h else fencedHcm h)

/-- The monitor after the head index (R149). -/
def indexedHcm (h : Hcm) : Hcm := { h with h := activeSum h.channels / h.n }

/-- The monitor after the call and the worn test (R150, R153). -/
def calledHcm (h : Hcm) : Hcm :=
  match callWanted h with
  | some (call, _) =>
    if callRises h.call call then
      { h with call := call, rises := bump h.rises,
               worn := h.worn || (decide (call = .required) && decide (h.bundles < 500)) }
    else h
  | none => h

/-- The monitor after the evaluation (R148). -/
def evaluatedHcm (h : Hcm) : Hcm := calledHcm (indexedHcm (testedHcm (retirees h) h))

theorem retireOrFence_hcm (c score : Nat) (s : State) :
    (retireOrFence c score s).hcm = if 12 < s.hcm.n then retiredHcm c s.hcm else fencedHcm s.hcm := by
  unfold retireOrFence retireChannel fenceHead fencedHcm
  split
  · exact raise_hcm ..
  · split
    · rfl
    · exact raise_hcm ..

theorem retirementTest_hcm (cs : List (Nat × Channel)) (s : State) :
    (retirementTest cs s).hcm = testedHcm cs s.hcm := by
  induction cs generalizing s with
  | nil => rfl
  | cons c cs ih => exact (ih _).trans (by rw [retireOrFence_hcm]; rfl)

theorem raiseCall_hcm (call : CleanCall) (cause : Nat) (s : State) :
    (raiseCall call cause s).hcm = { s.hcm with call := call, rises := bump s.hcm.rises } := raise_hcm ..

theorem wornTest_hcm (s : State) : (wornTest s).hcm = { s.hcm with worn := s.hcm.worn || decide (s.hcm.bundles < 500) } := by
  unfold wornTest
  by_cases hb : s.hcm.bundles < 500
  · rw [decide_eq_true hb, Bool.or_true]
    split
    · exact raise_hcm ..
    · rename_i hn
      have hw : s.hcm.worn = true := by simpa using hn
      rw [← hw]
  · rw [decide_eq_false hb, Bool.or_false]
    rfl

theorem callTest_none (hc : callWanted s.hcm = none) : callTest s = s := by
  simp only [callTest, hc]

theorem callTest_some {call : CleanCall} {cause : Nat} (hc : callWanted s.hcm = some (call, cause)) : callTest s =
    if callRises s.hcm.call call then
      (if call = .required then wornTest (raiseCall call cause s) else raiseCall call cause s)
    else s := by
  simp only [callTest, hc]

theorem calledHcm_none {h : Hcm} (hc : callWanted h = none) : calledHcm h = h := by
  simp only [calledHcm, hc]

theorem calledHcm_some {h : Hcm} {call : CleanCall} {cause : Nat} (hc : callWanted h = some (call, cause)) : calledHcm h =
    if callRises h.call call then
      { h with call := call, rises := bump h.rises,
               worn := h.worn || (decide (call = .required) && decide (h.bundles < 500)) }
    else h := by
  simp only [calledHcm, hc]

theorem callTest_hcm (s : State) : (callTest s).hcm = calledHcm s.hcm := by
  cases hc : callWanted s.hcm with
  | none => rw [callTest_none hc, calledHcm_none hc]
  | some w =>
    obtain ⟨call, cause⟩ := w
    rw [callTest_some hc, calledHcm_some hc]
    split
    · split
      · rename_i hr
        rw [wornTest_hcm, raiseCall_hcm, hr, decide_eq_true rfl, Bool.true_and]
      · rename_i hr
        rw [raiseCall_hcm, decide_eq_false hr, Bool.false_and, Bool.or_false]
    · rfl

theorem evaluate_hcm (s : State) : (evaluate s).hcm = evaluatedHcm s.hcm := by
  unfold evaluate evaluatedHcm
  rw [callTest_hcm]
  exact congrArg (fun h => calledHcm (indexedHcm h)) (retirementTest_hcm _ s)

/-! ### The FENCED signal -/

theorem retireOrFence_sig (c score : Nat) (s : State) : (retireOrFence c score s).sig = s.sig
    ∨ (retireOrFence c score s).sig = s.sig ++ [.fenced] ∧ (retireOrFence c score s).hcm.fence = true := by
  unfold retireOrFence retireChannel fenceHead
  split
  · exact .inl (raise_sig ..)
  · split
    · exact .inl rfl
    · refine .inr ⟨?_, ?_⟩
      · exact congrArg (· ++ [Signal.fenced]) (raise_sig ..)
      · rw [emit_hcm, raise_hcm]

theorem testedHcm_fence (cs : List (Nat × Channel)) (h : Hcm) (hf : h.fence = true) : (testedHcm cs h).fence = true := by
  induction cs generalizing h with
  | nil => exact hf
  | cons c cs ih =>
    refine ih _ ?_
    split
    · exact hf
    · unfold fencedHcm
      rw [if_pos hf]
      exact hf

theorem retirementTest_sig_fenced (cs : List (Nat × Channel)) (s : State) (hf : s.hcm.fence = true) :
    (retirementTest cs s).sig = s.sig := by
  induction cs generalizing s with
  | nil => rfl
  | cons c cs ih =>
    have hfence : (retireOrFence c.1 c.2.score s).hcm.fence = true := by
      have h := testedHcm_fence [c] s.hcm hf
      rwa [← retirementTest_hcm] at h
    refine (ih _ hfence).trans ?_
    unfold retireOrFence retireChannel fenceHead
    rw [if_pos hf]
    split
    · exact raise_sig ..
    · rfl

theorem retirementTest_sig (cs : List (Nat × Channel)) (s : State) :
    (retirementTest cs s).sig = s.sig ∨ (retirementTest cs s).sig = s.sig ++ [.fenced] := by
  induction cs generalizing s with
  | nil => exact .inl rfl
  | cons c cs ih =>
    rcases retireOrFence_sig c.1 c.2.score s with h | ⟨h, hf⟩
    · have := ih (retireOrFence c.1 c.2.score s)
      rw [h] at this
      exact this
    · exact .inr ((retirementTest_sig_fenced cs _ hf).trans h)

theorem callTest_sig (s : State) : (callTest s).sig = s.sig := by
  unfold callTest wornTest raiseCall
  split
  · split
    · split
      · split
        · rw [raise_sig, raise_sig]
        · exact raise_sig ..
      · exact raise_sig ..
    · rfl
  · rfl

theorem evaluate_sig (s : State) : (evaluate s).sig = s.sig ∨ (evaluate s).sig = s.sig ++ [.fenced] := by
  unfold evaluate
  rw [callTest_sig]
  exact retirementTest_sig _ s

/-! ### No order hears of a fence -/

theorem onFenced_idle (h : Idle s) : onFenced s = s := by
  have hw : takenWrites s = false := by unfold takenWrites; rw [h.takenKind]; rfl
  unfold onFenced
  rw [hw]
  rfl

theorem Idle.headCare (h : Idle s) (ht : HeadCareOnly s t) (hs : t.sig = []) : Idle t := by
  have hp := ht.port h.port
  obtain ⟨m, e, g1, g2, x, l, rfl⟩ := ht.eq
  exact ⟨hs, h.stopped, h.noFetch, h.session, h.noRow, h.decoder, h.noAppend, h.record, h.noSearch, hp⟩

theorem Idle.motionAndHead (h : Idle s) (m : Mot) (x : Hcm) : Idle { s with mot := m, hcm := x } :=
  ⟨h.sig, h.stopped, h.noFetch, h.session, h.noRow, h.decoder, h.noAppend, h.record, h.noSearch, h.port⟩

/-- An evaluation of a part left idle ends there: the signal that the head is fenced, if it is sent, is heard by no order. -/
theorem finish_headCare (h : Idle s) (ht : HeadCareOnly s t) (hs : t.sig = [] ∨ t.sig = [.fenced]) :
    finish t = { t with sig := [] } := by
  have hi : Idle { t with sig := [] } := by
    refine h.headCare (ht.trans ?_) rfl
    exact ⟨⟨t.mem, t.exu, t.marb.lastGeneral, t.marb.lastGroup, t.hcm, [], rfl⟩, id, rfl, rfl, rfl, rfl, rfl, rfl, rfl⟩
  rcases hs with hs | hs
  · have he : t = { t with sig := [] } := by
      cases t
      cases hs
      rfl
    rw [← he] at hi ⊢
    exact finish_rest hi.calm hi.port
  · have he : t = emit .fenced { t with sig := [] } := by
      cases t
      cases hs
      rfl
    have hf := finish_emit (x := .fenced) hi (onFenced_idle hi) hi
    rwa [← he] at hf

theorem evaluate_sig_idle (h : Idle s) : (evaluate s).sig = [] ∨ (evaluate s).sig = [.fenced] := by
  have he := evaluate_sig s
  rwa [h.sig] at he

/-! ### A motion second -/

theorem modifyAt_scores (f : Channel → Channel) (hf : ∀ c, (f c).score = c.score) :
    ∀ (cs : List Channel) (i : Nat), (modifyAt f cs i).map (fun c => c.score) = cs.map (fun c => c.score)
  | [], _ => rfl
  | c :: cs, 0 => by simp [modifyAt, hf]
  | c :: cs, i + 1 => by simp [modifyAt, modifyAt_scores f hf cs i]

/-- What the retirement test leaves of the monitor. -/
theorem testedHcm_kept (cs : List (Nat × Channel)) (h : Hcm) :
    (testedHcm cs h).channels.map (fun c => c.score) = h.channels.map (fun c => c.score)
      ∧ (testedHcm cs h).seconds = h.seconds ∧ (testedHcm cs h).bundles = h.bundles := by
  induction cs generalizing h with
  | nil => exact ⟨rfl, rfl, rfl⟩
  | cons c cs ih =>
    obtain ⟨h1, h2, h3⟩ := ih (if 12 < h.n then retiredHcm c.1 h else fencedHcm h)
    unfold testedHcm
    rw [h1, h2, h3]
    split
    · exact ⟨modifyAt_scores outOfService (fun _ => rfl) h.channels c.1, rfl, rfl⟩
    · unfold fencedHcm
      split <;> exact ⟨rfl, rfl, rfl⟩

/-- The call and the worn test leave all but the call, the rises and the worn flag. -/
theorem calledHcm_frame (h : Hcm) : ∃ c r w, calledHcm h = { h with call := c, rises := r, worn := w } := by
  unfold calledHcm
  split
  · split
    · exact ⟨_, _, _, rfl⟩
    · exact ⟨h.call, h.rises, h.worn, rfl⟩
  · exact ⟨h.call, h.rises, h.worn, rfl⟩

theorem evaluate_scores (s : State) :
    (evaluate s).hcm.channels.map (fun c => c.score) = s.hcm.channels.map (fun c => c.score) := by
  obtain ⟨c, r, w, h⟩ := calledHcm_frame (indexedHcm (testedHcm (retirees s.hcm) s.hcm))
  rw [evaluate_hcm, evaluatedHcm, h]
  exact (testedHcm_kept _ _).1

theorem evaluate_seconds (s : State) : (evaluate s).hcm.seconds = s.hcm.seconds := by
  obtain ⟨c, r, w, h⟩ := calledHcm_frame (indexedHcm (testedHcm (retirees s.hcm) s.hcm))
  rw [evaluate_hcm, evaluatedHcm, h]
  exact (testedHcm_kept _ _).2.1

theorem evaluate_bundles (s : State) : (evaluate s).hcm.bundles = s.hcm.bundles := by
  obtain ⟨c, r, w, h⟩ := calledHcm_frame (indexedHcm (testedHcm (retirees s.hcm) s.hcm))
  rw [evaluate_hcm, evaluatedHcm, h]
  exact (testedHcm_kept _ _).2.2

theorem HeadCareOnly.bsm (h : HeadCareOnly s t) : t.bsm = s.bsm := by
  obtain ⟨m, e, g1, g2, x, l, rfl⟩ := h.eq
  rfl

theorem moving_iff (m : MotionState) : m.moving = true ↔
    m ∈ [.starting, .streamingWrite, .streamingRead, .stopping, .repositioning, .turning, .travel, .cleaning] := by
  cases m <;> decide

/-- The state whose evaluation a motion second is. -/
def secondCounted (m : Mot) (n : Nat) (s : State) : State := { s with mot := m, hcm.seconds := n }

theorem exec_motionSecond {m : Mot} {n : Nat} (hi : Idle s) (hm : s.mot.state.moving = true)
    (hn : bump s.hcm.seconds = n) (hmot : { s.mot with motionTime := s.mot.motionTime - 1000 } = m) :
    exec .motionSecond s = .next { evaluate (secondCounted m n s) with sig := [] } := by
  have hi' : Idle (secondCounted m n s) := hi.motionAndHead _ _
  have hsecond : takeSecond s = evaluate (secondCounted m n s) := by
    rw [← hn, ← hmot, takeSecond, addMotionSecond, secondCounted]
  change Host.Outcome.next (if _ then finish (takeSecond s) else s) = _
  rw [if_pos (by rw [hm]; rfl), hsecond, finish_headCare hi' (headCareOnly_evaluate _) (evaluate_sig_idle hi')]

/-- Settles O56: the evaluation ends in the same step, a fence being heard by no order, and keeps scores and seconds. -/
theorem motionSecondCounts : Obligations.MotionSecondCounts := by
  intro b x s hi
  refine ⟨fun hm => ?_, moving_iff, evaluate_seconds _, rfl, rfl⟩
  obtain ⟨n, hn⟩ : ∃ n, min (s.hcm.seconds + 1) 4294967295 = n := ⟨_, rfl⟩
  obtain ⟨m, hmot⟩ : ∃ m, { s.mot with motionTime := s.mot.motionTime - 1000 } = m := ⟨_, rfl⟩
  rw [hn]
  refine ⟨_, exec_motionSecond hi hm hn hmot, ?_, evaluate_seconds (secondCounted m n s),
    evaluate_scores (secondCounted m n s), (headCareOnly_evaluate (secondCounted m n s)).bsm⟩
  exact (evaluate_hcm (secondCounted m n s)).trans (evaluate_hcm { s with hcm.seconds := n }).symm

end Sys2Proof.Machine
end

section
/-! SUPPORT. The retirement test, the call and the worn test in closed form (R150 to R153), and what they raise. -/

namespace Sys2Proof.Machine

variable {s t : State}

/-! ### The order in which channels are taken -/

/-- The order in which channels are taken: descending score, equal scores in ascending number (R151). -/
def takenBefore (a b : Nat × Channel) : Bool :=
  decide (b.2.score < a.2.score) || (decide (b.2.score = a.2.score) && decide (a.1 < b.1))

theorem takenBefore_iff {a b : Nat × Channel} :
    takenBefore a b = true ↔ b.2.score < a.2.score ∨ b.2.score = a.2.score ∧ a.1 < b.1 := by
  simp [takenBefore]

theorem takenBefore_asymm {a b : Nat × Channel} (h : takenBefore a b = true) : takenBefore b a = false := by
  rw [← Bool.not_eq_true, takenBefore_iff]
  rw [takenBefore_iff] at h
  omega

theorem takenBefore_self (a : Nat × Channel) : takenBefore a a = false := by
  rw [← Bool.not_eq_true, takenBefore_iff]
  omega

theorem mem_insertByScore {x y : Nat × Channel} {l : List (Nat × Channel)} : y ∈ insertByScore x l ↔ y = x ∨ y ∈ l := by
  rw [(insertByScore_perm x l).mem_iff, List.mem_cons]

/-- A channel of a higher number joins the order. -/
theorem insertByScore_sorted (x : Nat × Channel) : ∀ l : List (Nat × Channel), l.Pairwise (fun a b => takenBefore a b) →
    (∀ y ∈ l, y.1 < x.1) → (insertByScore x l).Pairwise (fun a b => takenBefore a b)
  | [], _, _ => List.pairwise_singleton ..
  | y :: ys, hs, hx => by
    rw [List.pairwise_cons] at hs
    obtain ⟨hy, hys⟩ := hs
    unfold insertByScore
    split
    · rename_i hlt
      refine List.pairwise_cons.2 ⟨fun z hz => ?_, List.pairwise_cons.2 ⟨hy, hys⟩⟩
      rcases List.mem_cons.1 hz with rfl | hz
      · exact takenBefore_iff.2 (.inl hlt)
      · have hyz := takenBefore_iff.1 (hy z hz)
        exact takenBefore_iff.2 (.inl (by omega))
    · rename_i hge
      refine List.pairwise_cons.2 ⟨fun z hz => ?_,
        insertByScore_sorted x ys hys (fun z hz => hx z (List.mem_cons_of_mem _ hz))⟩
      rcases mem_insertByScore.1 hz with rfl | hz
      · have := hx y (List.mem_cons_self ..)
        exact takenBefore_iff.2 (by omega)
      · exact hy z hz

theorem insertAll_sorted : ∀ l acc : List (Nat × Channel), acc.Pairwise (fun a b => takenBefore a b) →
    l.Pairwise (fun a b => a.1 < b.1) → (∀ y ∈ acc, ∀ x ∈ l, y.1 < x.1) →
    (l.foldl (fun acc c => insertByScore c acc) acc).Pairwise (fun a b => takenBefore a b)
  | [], _, hs, _, _ => hs
  | c :: l, acc, hs, hl, hb => by
    rw [List.pairwise_cons] at hl
    refine insertAll_sorted l _ (insertByScore_sorted c acc hs (fun y hy => hb y hy c (List.mem_cons_self ..))) hl.2 ?_
    intro y hy x hx
    rcases mem_insertByScore.1 hy with rfl | hy
    · exact hl.1 x hx
    · exact hb y hy x (List.mem_cons_of_mem _ hx)

theorem numbered_ascending {α : Type} : ∀ (l : List α) (i : Nat), (numbered i l).Pairwise (fun a b => a.1 < b.1)
  | [], _ => .nil
  | _ :: xs, i => List.pairwise_cons.2 ⟨fun y hy => (numbered_mem xs (i + 1) y hy).1, numbered_ascending xs (i + 1)⟩

theorem retirees_sorted (h : Hcm) : (retirees h).Pairwise (fun a b => takenBefore a b) :=
  insertAll_sorted _ _ .nil ((numbered_ascending h.channels 0).filter _) (fun _ hy => absurd hy (List.not_mem_nil))

/-- Of a list in the order taken, the first `k` are those with fewer than `k` before them. -/
theorem mem_take_iff_countP (x : Nat × Channel) : ∀ (l : List (Nat × Channel)) (k : Nat),
    l.Pairwise (fun a b => takenBefore a b) → x ∈ l → (x ∈ l.take k ↔ l.countP (fun y => takenBefore y x) < k)
  | [], _, _, h => absurd h (List.not_mem_nil)
  | _ :: _, 0, _, _ => by simp
  | a :: l, k + 1, hs, hx => by
    rw [List.pairwise_cons] at hs
    rcases List.mem_cons.1 hx with rfl | hx
    · have hzero : (x :: l).countP (fun y => takenBefore y x) = 0 := by
        rw [List.countP_eq_zero]
        intro y hy
        rcases List.mem_cons.1 hy with rfl | hy
        · rw [takenBefore_self]; exact Bool.false_ne_true
        · rw [takenBefore_asymm (hs.1 y hy)]; exact Bool.false_ne_true
      rw [hzero]
      exact ⟨fun _ => Nat.succ_pos k, fun _ => List.mem_cons_self ..⟩
    · have hne : x ≠ a := fun he => by
        have h := hs.1 x hx
        rw [he, takenBefore_self] at h
        exact Bool.false_ne_true h
      rw [List.take_succ_cons, List.mem_cons, or_iff_right hne, List.countP_cons, if_pos (hs.1 x hx),
        mem_take_iff_countP x l k hs.2 hx]
      omega

/-! ### The channels that reach the threshold, by their numbers -/

/-- A channel by its number. -/
def channelAt (h : Hcm) (j : Nat) : Channel := h.channels.getD j ⟨0, false⟩

/-- An ACTIVE channel at or above the retire threshold. -/
def reaches (h : Hcm) (j : Nat) : Bool := (channelAt h j).active && decide (h.retire ≤ (channelAt h j).score)

/-- How many channels at the threshold are taken before one. -/
def aheadOf (h : Hcm) (i : Nat) : Nat :=
  ((List.range 16).filter (fun j => reaches h j && (decide ((channelAt h i).score < (channelAt h j).score)
    || (decide ((channelAt h i).score = (channelAt h j).score) && decide (j < i))))).length

/-- How many channels reach the threshold. -/
def reachCount (h : Hcm) : Nat := ((List.range 16).filter (reaches h)).length

theorem numbered_eq {α : Type} (d : α) : ∀ (l : List α) (i : Nat),
    numbered i l = (List.range l.length).map (fun j => (i + j, l.getD j d))
  | [], _ => rfl
  | _ :: xs, i => by
    rw [numbered, numbered_eq d xs (i + 1), List.length_cons, List.range_succ_eq_map, List.map_cons, List.map_map]
    refine congrArg₂ List.cons rfl (List.map_congr_left fun j _ => ?_)
    simp [Nat.add_comm, Nat.add_left_comm]

theorem retirees_perm {h : Hcm} (hl : h.channels.length = 16) :
    (retirees h).Perm (((List.range 16).filter (reaches h)).map (fun j => (j, channelAt h j))) := by
  have hp := insertAll_perm
    ((numbered 0 h.channels).filter (fun c => c.2.active && decide (h.retire ≤ c.2.score))) []
  have hnum : numbered 0 h.channels = (List.range 16).map (fun j => (j, channelAt h j)) := by
    rw [numbered_eq ⟨0, false⟩, hl]
    exact List.map_congr_left fun j _ => by rw [Nat.zero_add]; rfl
  rw [List.append_nil, hnum, List.filter_map] at hp
  unfold retirees
  rw [hnum, List.filter_map]
  exact hp

theorem mem_retirees {h : Hcm} (hl : h.channels.length = 16) {i : Nat} (hi : i < 16) :
    (∃ c ∈ retirees h, c.1 = i) ↔ reaches h i = true := by
  constructor
  · rintro ⟨c, hc, rfl⟩
    rw [(retirees_perm hl).mem_iff, List.mem_map] at hc
    obtain ⟨j, hj, rfl⟩ := hc
    exact (List.mem_filter.1 hj).2
  · intro hr
    refine ⟨(i, channelAt h i), ?_, rfl⟩
    rw [(retirees_perm hl).mem_iff]
    exact List.mem_map_of_mem (List.mem_filter.2 ⟨List.mem_range.2 hi, hr⟩)

theorem retirees_length {h : Hcm} (hl : h.channels.length = 16) : (retirees h).length = reachCount h := by
  rw [(retirees_perm hl).length_eq, List.length_map, reachCount]

theorem retirees_countP {h : Hcm} (hl : h.channels.length = 16) (i : Nat) :
    (retirees h).countP (fun y => takenBefore y (i, channelAt h i)) = aheadOf h i := by
  rw [(retirees_perm hl).countP_eq, List.countP_map, List.countP_filter, List.countP_eq_length_filter, aheadOf]
  refine congrArg List.length (List.filter_congr fun j _ => ?_)
  rw [Bool.and_comm]
  rfl

/-- The channels retired: those that reach the threshold with fewer ahead of them than may be retired. -/
theorem mem_take_retirees {h : Hcm} (hl : h.channels.length = 16) {i k : Nat} (hi : i < 16) :
    (∃ c ∈ (retirees h).take k, c.1 = i) ↔ (reaches h i && decide (aheadOf h i < k)) = true := by
  rw [Bool.and_eq_true, decide_eq_true_iff]
  constructor
  · rintro ⟨c, hc, hci⟩
    have hm := List.mem_of_mem_take hc
    have hr := (mem_retirees hl hi).1 ⟨c, hm, hci⟩
    have hp := hm
    rw [(retirees_perm hl).mem_iff, List.mem_map] at hp
    obtain ⟨j, -, rfl⟩ := hp
    obtain rfl : j = i := hci
    rw [mem_take_iff_countP _ _ _ (retirees_sorted h) hm, retirees_countP hl] at hc
    exact ⟨hr, hc⟩
  · rintro ⟨hr, hlt⟩
    refine ⟨(i, channelAt h i), ?_, rfl⟩
    have hm : (i, channelAt h i) ∈ retirees h := by
      rw [(retirees_perm hl).mem_iff]
      exact List.mem_map_of_mem (List.mem_filter.2 ⟨List.mem_range.2 hi, hr⟩)
    rwa [mem_take_iff_countP _ _ _ (retirees_sorted h) hm, retirees_countP hl]

/-! ### The retirement test in closed form -/

/-- The channels listed taken out of service. -/
def outAll (cs : List (Nat × Channel)) (chs : List Channel) : List Channel :=
  cs.foldl (fun acc c => modifyAt outOfService acc c.1) chs

theorem modifyAt_getElem? {α : Type} (f : α → α) : ∀ (l : List α) (i j : Nat),
    (modifyAt f l i)[j]? = if i = j then l[j]?.map f else l[j]?
  | [], i, j => by simp [modifyAt]
  | x :: xs, 0, 0 => rfl
  | x :: xs, 0, j + 1 => rfl
  | x :: xs, i + 1, 0 => rfl
  | x :: xs, i + 1, j + 1 => by simp [modifyAt, modifyAt_getElem? f xs i j]

theorem outAll_getElem? (cs : List (Nat × Channel)) (chs : List Channel) (i : Nat) :
    (outAll cs chs)[i]? = chs[i]?.map (fun x => ⟨x.score, x.active && !decide (∃ c ∈ cs, c.1 = i)⟩) := by
  induction cs generalizing chs with
  | nil => simp [outAll]
  | cons c cs ih =>
    have h := ih (modifyAt outOfService chs c.1)
    rw [outAll, List.foldl_cons]
    refine h.trans ?_
    rw [modifyAt_getElem?]
    by_cases hc : c.1 = i
    · rw [if_pos hc, Option.map_map]
      refine congrArg (fun f => Option.map f chs[i]?) (funext fun x => ?_)
      simp [outOfService, hc]
    · rw [if_neg hc]
      refine congrArg (fun f => Option.map f chs[i]?) (funext fun x => ?_)
      have hx : (∃ d ∈ c :: cs, d.1 = i) ↔ ∃ d ∈ cs, d.1 = i := by simp [hc]
      simp only [hx]

theorem testedHcm_eq (cs : List (Nat × Channel)) (h : Hcm) (hn : 12 ≤ h.n) : testedHcm cs h =
    { h with channels := outAll (cs.take (h.n - 12)) h.channels, n := max 12 (h.n - cs.length)
             retirements := if max 12 (h.n - cs.length) = h.n then h.retirements
               else min (h.retirements + (h.n - max 12 (h.n - cs.length))) maxWord
             fence := h.fence || decide (h.n - 12 < cs.length)
             fences := if h.fence = false ∧ h.n - 12 < cs.length then bump h.fences else h.fences } := by
  induction cs generalizing h with
  | nil =>
    have hm : max 12 h.n = h.n := by omega
    simp [testedHcm, outAll, hm]
  | cons c cs ih =>
    unfold testedHcm
    by_cases hlt : 12 < h.n
    · obtain ⟨k, hk⟩ : ∃ k, h.n = k + 13 := ⟨h.n - 13, by omega⟩
      rw [if_pos hlt, ih _ (by change 12 ≤ h.n - 1; omega)]
      have h1 : (retiredHcm c.1 h).n = k + 12 := by change h.n - 1 = _; omega
      have h2 : (c :: cs).take (h.n - 12) = c :: cs.take k := by rw [hk]; rfl
      have h3 : max 12 (h.n - (c :: cs).length) = max 12 (k + 12 - cs.length) := by rw [List.length_cons]; omega
      have h4 : h.n - 12 < (c :: cs).length ↔ k < cs.length := by rw [List.length_cons]; omega
      have h5 : k + 12 - 12 = k := by omega
      rw [h2, h3, h1, h5]
      generalize hx : max 12 (k + 12 - cs.length) = x
      have hret : (if x = k + 12 then (retiredHcm c.1 h).retirements
            else min ((retiredHcm c.1 h).retirements + (k + 12 - x)) maxWord)
          = if x = h.n then h.retirements else min (h.retirements + (h.n - x)) maxWord := by
        have hb : (retiredHcm c.1 h).retirements = min (h.retirements + 1) maxWord := rfl
        rw [hb, if_neg (by omega : ¬ x = h.n)]
        split <;> omega
      rw [hret]
      simp only [h4]
      rfl
    · have h12 : h.n = 12 := by omega
      rw [if_neg hlt, ih _ (by unfold fencedHcm; split <;> exact hn)]
      have hfn : (fencedHcm h).n = 12 := by unfold fencedHcm; split <;> exact h12
      have hm : ∀ l, max 12 (12 - l) = 12 := fun l => by omega
      rw [hfn, hm, h12, hm, if_pos rfl, if_pos rfl]
      unfold fencedHcm
      by_cases hf : h.fence = true
      · simp [hf, outAll]
      · rw [Bool.not_eq_true] at hf
        simp [hf, outAll, h12]

/-! ### The call and the worn test in closed form -/

/-- The call that the values bring (R150). -/
def callDue (h : Hcm) : CleanCall :=
  if h.require ≤ h.h ∨ h.fence = true then .required
  else if h.advise ≤ h.h ∨ h.hours ≤ h.seconds then .advised else .none

/-- The cause of the call (R150; log 78). -/
def causeDue (h : Hcm) : Nat :=
  if h.require ≤ h.h then 1 else if h.fence = true then 3 else if h.advise ≤ h.h then 1 else 2

theorem callWanted_eq (h : Hcm) :
    callWanted h = if callDue h = .none then none else some (callDue h, causeDue h) := by
  unfold callWanted callDue causeDue
  by_cases h1 : h.require ≤ h.h
  · simp [h1]
  · by_cases h2 : h.fence = true
    · simp [h1, h2]
    · by_cases h3 : h.advise ≤ h.h
      · simp [h1, h2, h3]
      · by_cases h4 : h.hours ≤ h.seconds
        · simp [h1, h2, h3, h4]
        · simp [h1, h2, h3, h4]

/-- The call rises (R150). -/
abbrev CallRises (h : Hcm) : Prop := h.call.code < (callDue h).code

/-- The head becomes worn (R153). -/
abbrev HeadWears (h : Hcm) : Prop := CallRises h ∧ callDue h = .required ∧ h.bundles < 500 ∧ h.worn = false

theorem callDue_of_rises {h : Hcm} (hr : CallRises h) : callWanted h = some (callDue h, causeDue h) := by
  rw [callWanted_eq, if_neg]
  intro hd
  have hr : h.call.code < (callDue h).code := hr
  rw [hd] at hr
  exact absurd hr (Nat.not_lt_zero _)

theorem calledHcm_eq (h : Hcm) : calledHcm h =
    { h with call := if CallRises h then callDue h else h.call
             rises := if CallRises h then bump h.rises else h.rises
             worn := h.worn || decide (HeadWears h) } := by
  by_cases hr : CallRises h
  · have hc : callRises h.call (callDue h) = true := decide_eq_true hr
    unfold calledHcm
    rw [callDue_of_rises hr]
    dsimp only
    rw [if_pos hc, if_pos hr, if_pos hr]
    have hworn : (h.worn || (decide (callDue h = .required) && decide (h.bundles < 500)))
        = (h.worn || decide (HeadWears h)) := by
      by_cases hw : h.worn = true
      · simp [hw]
      · simp [HeadWears, hr, hw]
    rw [hworn]
  · have hnw : ¬ HeadWears h := fun hw => hr hw.1
    unfold calledHcm
    rw [callWanted_eq, if_neg hr, if_neg hr, decide_eq_false hnw, Bool.or_false]
    split
    · rename_i call cause hw
      split at hw
      · cases hw
      · obtain ⟨rfl, rfl⟩ := Prod.mk.inj (Option.some.inj hw)
        have hc : ¬ callRises h.call (callDue h) = true := by
          unfold callRises
          rwa [decide_eq_true_iff]
        rw [if_neg hc]
    · rfl

/-! ### What is raised -/

/-- A raise after a change of the monitor. -/
theorem SameExchange.raiseChanged {told : State} (h : SameExchange s told) (x : Hcm) (c : Condition) (a b d : Nat) :
    SameExchange (Machine.raise c a b d { s with hcm := x }) (Machine.raise c a b d told) :=
  SameExchange.raise (z := { s with hcm := x }) ⟨h.mem, h.exu, h.time, h.marb⟩ c a b d

/-- The conditions of the call and of the worn test, after those of the retirement test. -/
theorem callTest_told {told : State} (h : SameExchange s told) :
    let called := if CallRises s.hcm then raise .cleanCall 0 (callDue s.hcm).code (causeDue s.hcm) told else told
    SameExchange (callTest s) (if HeadWears s.hcm then raise .headWorn s.hcm.bundles 0 0 called else called) := by
  intro called
  have hx := calledHcm_eq s.hcm
  by_cases hr : CallRises s.hcm
  · have hcalled : called = raise .cleanCall 0 (callDue s.hcm).code (causeDue s.hcm) told := if_pos hr
    have hc : callRises s.hcm.call (callDue s.hcm) = true := decide_eq_true hr
    have hraised : SameExchange (raiseCall (callDue s.hcm) (causeDue s.hcm) s) called := by
      rw [hcalled]
      exact h.raiseChanged _ _ _ _ _
    unfold callTest
    rw [callDue_of_rises hr]
    dsimp only
    rw [if_pos hc]
    by_cases hq : callDue s.hcm = .required
    · rw [if_pos hq]
      unfold wornTest
      rw [raiseCall_hcm]
      by_cases hw : HeadWears s.hcm
      · rw [if_pos (by simp [hw.2.2.1, hw.2.2.2]), if_pos hw]
        exact hraised.raiseChanged _ _ _ _ _
      · rw [if_neg (fun hb => hw ⟨hr, hq, by simpa using hb⟩), if_neg hw]
        exact hraised
    · rw [if_neg hq, if_neg (fun hw : HeadWears s.hcm => hq hw.2.1)]
      exact hraised
  · have hcalled : called = told := if_neg hr
    rw [if_neg (fun hw : HeadWears s.hcm => hr hw.1), hcalled]
    have hnone : callTest s = s := by
      unfold callTest
      split
      · rename_i call cause hw
        rw [callWanted_eq] at hw
        split at hw
        · cases hw
        · obtain ⟨rfl, rfl⟩ := Prod.mk.inj (Option.some.inj hw)
          exact if_neg (by unfold callRises; rwa [decide_eq_true_iff])
      · rfl
    rw [hnone]
    exact h

/-- The condition of a channel that alone reaches the threshold. -/
def toldOf (i : Nat) (s : State) : State :=
  if reaches s.hcm i = false then s
  else if 12 < s.hcm.n then raise .channelRetired (channelAt s.hcm i).score i (s.hcm.n - 1) s
  else if s.hcm.fence = true then s else raise .fenced (channelAt s.hcm i).score i 0 s

theorem retirees_alone (hl : s.hcm.channels.length = 16) {i : Nat}
    (halone : ∀ j, j < 16 → reaches s.hcm j = true → j = i) :
    retirees s.hcm = if reaches s.hcm i = true then [(i, channelAt s.hcm i)] else [] := by
  have hp := retirees_perm hl
  by_cases hr : reaches s.hcm i = true
  · have hi : i < 16 := by
      by_contra hge
      have hd : channelAt s.hcm i = ⟨0, false⟩ := by
        unfold channelAt
        rw [List.getD_eq_getElem?_getD, List.getElem?_eq_none (by omega)]
        rfl
      rw [reaches, hd] at hr
      cases hr
    have hf : (List.range 16).filter (reaches s.hcm) = [i] := by
      have hcongr : (List.range 16).filter (reaches s.hcm) = (List.range 16).filter (fun j => j == i) := by
        refine List.filter_congr fun j hj => ?_
        rw [Bool.eq_iff_iff, beq_iff_eq]
        exact ⟨halone j (List.mem_range.1 hj), fun h => h ▸ hr⟩
      rw [hcongr, List.filter_beq, List.count_eq_one_of_mem (List.nodup_range) (List.mem_range.2 hi)]
      rfl
    rw [hf] at hp
    rw [if_pos hr]
    exact List.perm_singleton.1 hp
  · have hf : (List.range 16).filter (reaches s.hcm) = [] := by
      refine List.filter_eq_nil_iff.2 fun j hj hjr => hr ?_
      have := halone j (List.mem_range.1 hj) hjr
      rwa [← this]
    rw [hf] at hp
    rw [if_neg hr]
    exact List.perm_nil.1 hp

theorem retirementTest_told (hl : s.hcm.channels.length = 16) {i : Nat}
    (halone : ∀ j, j < 16 → reaches s.hcm j = true → j = i) :
    SameExchange (retirementTest (retirees s.hcm) s) (toldOf i s) := by
  rw [retirees_alone hl halone]
  unfold toldOf
  by_cases hr : reaches s.hcm i = true
  · rw [if_pos hr, if_neg (by rw [hr]; exact Bool.noConfusion)]
    change SameExchange (retireOrFence i (channelAt s.hcm i).score s) _
    unfold retireOrFence retireChannel fenceHead
    split
    · exact SameExchange.rfl.raiseChanged _ _ _ _ _
    · split
      · exact .rfl
      · have h := (SameExchange.rfl (s := s)).raiseChanged { s.hcm with fence := true, fences := bump s.hcm.fences }
          .fenced (channelAt s.hcm i).score i 0
        exact ⟨h.mem, h.exu, h.time, h.marb⟩
  · rw [if_neg hr, if_pos (by rwa [Bool.not_eq_true] at hr)]
    exact .rfl

/-! ### The evaluation -/

theorem testedHcm_frame (cs : List (Nat × Channel)) (h : Hcm) : ∃ chs n r f fs, testedHcm cs h =
    { h with channels := chs, n := n, retirements := r, fence := f, fences := fs } := by
  induction cs generalizing h with
  | nil => exact ⟨h.channels, h.n, h.retirements, h.fence, h.fences, rfl⟩
  | cons c cs ih =>
    obtain ⟨chs, n, r, f, fs, ht⟩ := ih (if 12 < h.n then retiredHcm c.1 h else fencedHcm h)
    refine ⟨chs, n, r, f, fs, ?_⟩
    rw [testedHcm, ht]
    unfold retiredHcm fencedHcm
    split
    · rfl
    · split <;> rfl

theorem channels_after (hl : s.hcm.channels.length = 16) (k : Nat) :
    outAll ((retirees s.hcm).take k) s.hcm.channels = (List.range 16).map (fun i =>
      ⟨(channelAt s.hcm i).score, (channelAt s.hcm i).active && !(reaches s.hcm i && decide (aheadOf s.hcm i < k))⟩) := by
  refine List.ext_getElem? fun i => ?_
  rw [outAll_getElem?, List.getElem?_map]
  by_cases hi : i < 16
  · have hget : s.hcm.channels[i]? = some (channelAt s.hcm i) := by
      unfold channelAt
      rw [List.getD_eq_getElem?_getD, List.getElem?_eq_getElem (by omega)]
      rfl
    have hmem : decide (∃ c ∈ (retirees s.hcm).take k, c.1 = i) = (reaches s.hcm i && decide (aheadOf s.hcm i < k)) := by
      rw [Bool.eq_iff_iff, decide_eq_true_iff]
      exact mem_take_retirees hl hi
    rw [hget, List.getElem?_range hi, Option.map_some, Option.map_some, hmem]
  · rw [List.getElem?_eq_none (by omega), List.getElem?_eq_none (by rw [List.length_range]; omega)]
    rfl

/-- The evaluation keeps the monitor sound. -/
theorem evaluate_headCareSound (hs : HeadCareSound s.hcm) : HeadCareSound (evaluate s).hcm := by
  have hr : Sound { State.reset with hcm := s.hcm } := { resetIsSound with head := hs }
  have hk := (evaluate_kept (.refl { State.reset with hcm := s.hcm })).sound hr
  have hh := hk.head
  rwa [evaluate_hcm, ← evaluate_hcm (s := s)] at hh

theorem scores_getElem? {α : Type} (f : α → Nat) (l : List α) (j : Nat) :
    (l.map f).getD j 0 = (l[j]?.map f).getD 0 := by
  rw [List.getD_eq_getElem?_getD, List.getElem?_map]

theorem wearEvent_score (c w j : Nat) (s : State) : ((wearEvent c w s).hcm.channels.map (fun x => x.score)).getD j 0 =
    (if j = c ∧ (s.hcm.channels[j]?).any (fun x => x.active) = true then
      min ((s.hcm.channels.map (fun x => x.score)).getD j 0 + w) 65535
    else (s.hcm.channels.map (fun x => x.score)).getD j 0) := by
  have h : (wearEvent c w s).hcm.channels.map (fun x => x.score)
      = (modifyAt (addWear w) s.hcm.channels c).map (fun x => x.score) := evaluate_scores _
  rw [h, scores_getElem?, scores_getElem?, modifyAt_getElem?]
  by_cases hj : c = j
  · subst hj
    cases hx : s.hcm.channels[c]? with
    | none => simp
    | some x => by_cases ha : x.active = true <;> simp [addWear, ha]
  · simp [hj, Ne.symm hj]

theorem bundleVerified_score (j : Nat) (s : State) :
    ((bundleVerified s).hcm.channels.map (fun x => x.score)).getD j 0 =
    (if (s.hcm.channels[j]?).any (fun x => x.active) = true then
      (s.hcm.channels.map (fun x => x.score)).getD j 0 - (s.hcm.channels.map (fun x => x.score)).getD j 0 / 64
    else (s.hcm.channels.map (fun x => x.score)).getD j 0) := by
  have h : (bundleVerified s).hcm.channels.map (fun x => x.score)
      = (s.hcm.channels.map easeChannel).map (fun x => x.score) := evaluate_scores _
  rw [h, scores_getElem?, scores_getElem?, List.getElem?_map]
  cases hx : s.hcm.channels[j]? with
  | none => simp
  | some x => by_cases ha : x.active = true <;> simp [easeChannel, ha]

theorem applyCleaning_score (j : Nat) (s : State) :
    ((applyCleaning s).hcm.channels.map (fun x => x.score)).getD j 0
      = (s.hcm.channels.map (fun x => x.score)).getD j 0 / 4 := by
  have h : (applyCleaning s).hcm.channels.map (fun x => x.score)
      = (s.hcm.channels.map (cleanChannel s.hcm.worn)).map (fun x => x.score) := evaluate_scores _
  rw [h, scores_getElem?, scores_getElem?, List.getElem?_map]
  cases hx : s.hcm.channels[j]? with
  | none => rfl
  | some x => rfl

/-- The monitor before the call in closed form. -/
def beforeCall (h : Hcm) : Hcm := indexedHcm (testedHcm (retirees h) h)

theorem beforeCall_kept (h : Hcm) : (beforeCall h).require = h.require ∧ (beforeCall h).advise = h.advise
    ∧ (beforeCall h).hours = h.hours ∧ (beforeCall h).seconds = h.seconds ∧ (beforeCall h).call = h.call
    ∧ (beforeCall h).rises = h.rises ∧ (beforeCall h).worn = h.worn ∧ (beforeCall h).bundles = h.bundles := by
  obtain ⟨chs, n, r, f, fs, ht⟩ := testedHcm_frame (retirees h) h
  unfold beforeCall
  rw [ht]
  exact ⟨rfl, rfl, rfl, rfl, rfl, rfl, rfl, rfl⟩

theorem beforeCall_tested (hs : HeadCareSound s.hcm) :
    (beforeCall s.hcm).channels = (List.range 16).map (fun i => ⟨(channelAt s.hcm i).score,
        (channelAt s.hcm i).active && !(reaches s.hcm i && decide (aheadOf s.hcm i < s.hcm.n - 12))⟩)
      ∧ (beforeCall s.hcm).n = max 12 (s.hcm.n - reachCount s.hcm)
      ∧ (beforeCall s.hcm).retirements = (if max 12 (s.hcm.n - reachCount s.hcm) = s.hcm.n then s.hcm.retirements
          else min (s.hcm.retirements + (s.hcm.n - max 12 (s.hcm.n - reachCount s.hcm))) maxWord)
      ∧ (beforeCall s.hcm).fence = (s.hcm.fence || decide (s.hcm.n - 12 < reachCount s.hcm))
      ∧ (beforeCall s.hcm).fences = (if s.hcm.fence = false ∧ s.hcm.n - 12 < reachCount s.hcm then bump s.hcm.fences
          else s.hcm.fences) := by
  unfold beforeCall
  rw [testedHcm_eq _ _ hs.2.2.1, retirees_length hs.1]
  exact ⟨channels_after hs.1 _, rfl, rfl, rfl, rfl⟩

theorem evaluate_called (s : State) : (evaluate s).hcm =
    { beforeCall s.hcm with
      call := if CallRises (beforeCall s.hcm) then callDue (beforeCall s.hcm) else (beforeCall s.hcm).call
      rises := if CallRises (beforeCall s.hcm) then bump (beforeCall s.hcm).rises else (beforeCall s.hcm).rises
      worn := (beforeCall s.hcm).worn || decide (HeadWears (beforeCall s.hcm)) } := by
  rw [evaluate_hcm]
  exact calledHcm_eq _

theorem evaluate_told (hl : s.hcm.channels.length = 16) {i : Nat}
    (halone : ∀ j, j < 16 → reaches s.hcm j = true → j = i) :
    let b := beforeCall s.hcm
    let called := if CallRises b then raise .cleanCall 0 (callDue b).code (causeDue b) (toldOf i s) else toldOf i s
    SameExchange (evaluate s) (if HeadWears b then raise .headWorn b.bundles 0 0 called else called) := by
  intro b called
  have ht := retirementTest_told hl halone
  have hx : SameExchange (computeHeadIndex (retirementTest (retirees s.hcm) s)) (toldOf i s) :=
    ⟨ht.mem, ht.exu, ht.time, ht.marb⟩
  have hb : (computeHeadIndex (retirementTest (retirees s.hcm) s)).hcm = b :=
    congrArg indexedHcm (retirementTest_hcm _ s)
  have hc := callTest_told hx
  rw [hb] at hc
  exact hc

/-- Settles O59, by the closed forms of the retirement test, of the call and of the worn test. -/
theorem scoresWearAndEase : Obligations.ScoresWearAndEase := by
  intro c w s hs
  have hafter := evaluate_headCareSound hs
  refine ⟨fun j _ => wearEvent_score c w j s, fun j _ => bundleVerified_score j s, evaluate_bundles _,
    fun j _ => applyCleaning_score j s, rfl, hafter.2.2.1, hafter.2.1, ?_, ?_⟩
  · rw [evaluate_called]
    rfl
  · intro ch reaching ahead count e wanted rises cause wears
    obtain ⟨hch, hn, hret, hfence, hfences⟩ := beforeCall_tested hs
    obtain ⟨hreq, hadv, hhours, hsec, hcall, hrises, hworn, hbund⟩ := beforeCall_kept s.hcm
    have he := evaluate_called s
    have hh : e.hcm.h = (beforeCall s.hcm).h := by rw [he]
    have hf : e.hcm.fence = (beforeCall s.hcm).fence := by rw [he]
    have hen : e.hcm.n = max 12 (s.hcm.n - count) := (congrArg Hcm.n he).trans hn
    have hwanted : callDue (beforeCall s.hcm) = wanted := by
      unfold callDue wanted
      rw [hreq, hadv, hhours, hsec, ← hh, ← hf]
    have hcause : causeDue (beforeCall s.hcm) = cause := by
      unfold causeDue cause
      rw [hreq, hadv, ← hh, ← hf]
    have hrise : CallRises (beforeCall s.hcm) ↔ rises := by
      unfold CallRises rises
      rw [hcall, hwanted]
    have hwear : HeadWears (beforeCall s.hcm) ↔ wears := by
      unfold HeadWears wears
      rw [hrise, hwanted, hbund, hworn]
    refine ⟨(congrArg Hcm.channels he).trans hch, hen, ?_, (congrArg Hcm.fence he).trans hfence,
      (congrArg Hcm.fences he).trans hfences, ?_, ?_, ?_, fun i hi => ?_⟩
    · rw [hen]
      exact (congrArg Hcm.retirements he).trans hret
    · refine (congrArg Hcm.call he).trans ?_
      simp only [hrise, hwanted, hcall]
    · refine (congrArg Hcm.rises he).trans ?_
      simp only [hrise, hrises]
      rfl
    · refine (congrArg Hcm.worn he).trans ?_
      simp only [hwear, hworn]
    · intro told called worn
      have ht := evaluate_told (i := i) hs.1 hi
      simp only [hrise, hwear, hwanted, hcause, hbund] at ht
      exact ⟨ht.exu, ht.mem⟩

end Sys2Proof.Machine
end

section
/-! SUPPORT. TUNE (R194): the settings taken, the evaluation that follows, and the refusal of a speed table. -/

namespace Sys2Proof.Machine

variable {s t u z : State}

/-! ### A completion after an evaluation -/

theorem Calm.headCare (h : Calm s) (ht : HeadCareOnly s t) : Calm { t with sig := [] } := by
  obtain ⟨m, e, g1, g2, x, l, rfl⟩ := ht.eq
  exact ⟨rfl, h.fmt, h.rdc, h.dcp, h.cml⟩

theorem onFenced_unordered (h : s.ord.record = none) : onFenced s = s := by
  have hk : takenKind s = none := by unfold takenKind; rw [h]
  have hw : takenWrites s = false := by unfold takenWrites; rw [hk]; rfl
  unfold onFenced
  rw [hw]
  rfl

/-- A completion after an evaluation: the signal that the head is fenced finds no order TAKEN. -/
theorem finish_evaluated (h : Calm z) (hp : portAtRest z) (hn : noneWaits z) (ha : z.exu.active.isSome = true)
    (ht : HeadCareOnly z t) (hs : t.sig = [] ∨ t.sig = [.fenced]) (q : OrderResult) :
    finish (finishActive q t) = finishActive q { t with sig := [] } := by
  obtain ⟨-, -, -, hact, hpost, htaken, -⟩ := ht.exu
  have hc : Calm { t with sig := [] } := h.headCare ht
  have hp' : portAtRest { t with sig := [] } := ht.port hp
  have hn' : noneWaits { t with sig := [] } := hpost.trans (hn.trans htaken.symm)
  have ha' : t.exu.active.isSome = true := by rw [hact]; exact ha
  have hdone := hc.finish_completed hp' hn' ha' q
  rcases hs with hs | hs
  · have he : t = { t with sig := [] } := by
      cases t
      cases hs
      rfl
    rw [← he] at hdone ⊢
    exact hdone
  · obtain ⟨m, e, g1, g2, hw, hx⟩ := finishActive_same hp' hn' ha' q
    have h1 := hx t ⟨rfl, rfl, rfl, rfl⟩
    have h2 := hx _ .rfl
    have hcalm : Calm (exchanged m e g1 g2 (dropOrder { t with sig := [] })) := calm_of_none rfl hc.fmt hc.rdc rfl rfl
    have hport : portAtRest (exchanged m e g1 g2 (dropOrder { t with sig := [] })) := ⟨hp'.1, hp'.2.1, hw⟩
    rw [h1, h2]
    have hnone : onFenced (exchanged m e g1 g2 (dropOrder { t with sig := [] }))
        = exchanged m e g1 g2 (dropOrder { t with sig := [] }) := onFenced_unordered rfl
    exact (finish_answered_calm (x := .fenced) (s := exchanged m e g1 g2 (dropOrder t)) hs hnone hcalm).trans
      (grant_atRest hport)

/-! ### The settings taken -/

/-- A state whose settings are those of another, with the store, the position and the order. -/
structure SettingsOf (z u : State) : Prop where
  cmp : u.cmp = z.cmp
  fmt : u.fmt = z.fmt
  rdc : u.rdc = z.rdc
  mot : u.mot = z.mot
  spm : u.spm = z.spm
  bsm : u.bsm = z.bsm
  ord : u.ord = z.ord
  thresholds : u.hcm.advise = z.hcm.advise ∧ u.hcm.require = z.hcm.require ∧ u.hcm.retire = z.hcm.retire
    ∧ u.hcm.hours = z.hcm.hours
  exu : u.exu.alertSet = z.exu.alertSet ∧ u.exu.trigger = z.exu.trigger ∧ u.exu.quietTime = z.exu.quietTime

theorem evaluate_thresholds (z : State) : (evaluate z).hcm.advise = z.hcm.advise
    ∧ (evaluate z).hcm.require = z.hcm.require ∧ (evaluate z).hcm.retire = z.hcm.retire
    ∧ (evaluate z).hcm.hours = z.hcm.hours := by
  obtain ⟨chs, n, r, f, fs, ht⟩ := testedHcm_frame (retirees z.hcm) z.hcm
  rw [evaluate_called]
  unfold beforeCall
  rw [ht]
  exact ⟨rfl, rfl, rfl, rfl⟩

theorem settingsOf_evaluate (z : State) : SettingsOf z { evaluate z with sig := [] } := by
  have ht := headCareOnly_evaluate z
  obtain ⟨h1, h2, h3, -⟩ := ht.exu
  have hth := evaluate_thresholds z
  obtain ⟨m, e, g1, g2, x, l, he⟩ := ht.eq
  refine ⟨?_, ?_, ?_, ?_, ?_, ?_, ?_, hth, h1, h2, h3⟩ <;> rw [he] <;> rfl

/-- What TUNE changes: the settings alone. -/
theorem applyTunables_frame (n : Named) (k : Nat) (s : State) : ∃ c i th re li dw al tr q ta x, applyTunables n k s =
    { s with cmp.compression := c, cmp.idleSeal := i, fmt.threshold := th, fmt.restart := re, rdc.limit := li,
             mot.dwellTime := dw, exu.alertSet := al, exu.trigger := tr, exu.quietTime := q, spm.table := ta, hcm := x } := by
  unfold applyTunables setThresholds
  exact ⟨_, _, _, _, _, _, _, _, _, _, _, rfl⟩

/-- The settings taken leave the part calm and the port at rest. -/
theorem Calm.tuned (h : Calm s) (n : Named) (k : Nat) : Calm (applyTunables n k s) := by
  obtain ⟨c, i, th, re, li, dw, al, tr, q, ta, x, hx⟩ := applyTunables_frame n k s
  rw [hx]
  exact ⟨h.sig, h.fmt, h.rdc, h.dcp, h.cml⟩

/-! ### The values in force after it -/

theorem clampChanges_eq_false {n : Named} {j : Nat} {f : Nat → Nat} :
    clampChanges n j f = false ↔ ∀ v, namedAt n j = some v → f v = v := by
  unfold clampChanges
  cases h : namedAt n j with
  | none => simp
  | some v => simp

theorem hours_in_force (hs : Sound s) (n : Named) : clamp 3600 1800000 ((namedAt n 9).getD s.hcm.hours)
    = ((namedAt n 9).map (clamp 3600 1800000)).getD s.hcm.hours := by
  obtain ⟨-, -, -, -, -, -, -, -, -, -, h1, h2⟩ := hs.head
  cases namedAt n 9 with
  | some v => rfl
  | none => simp only [Option.getD_none, Option.map_none, clamp]; omega

/-- The table in force is that of the clamped entries. -/
theorem table_in_force (hs : Sound s) : (List.range 6).map (fun i => clampSpeed (s.spm.table.getD i 0)) = s.spm.table := by
  obtain ⟨hl, hv, -⟩ := hs.speeds
  refine List.ext_getElem (by rw [List.length_map, List.length_range, hl]) fun i hi hi' => ?_
  have := hv _ (List.getElem_mem hi')
  rw [List.getElem_map, List.getElem_range, List.getD_eq_getElem _ _ hi']
  unfold clampSpeed clamp
  omega

theorem resultingTable_unnamed (hs : Sound s) {n : Named} (h : ∀ k, k < 6 → namedAt n (13 + k) = none) :
    resultingTable n s = s.spm.table := by
  rw [← table_in_force hs]
  refine List.map_congr_left fun i hi => ?_
  unfold orInForce
  rw [h i (List.mem_range.1 hi)]
  rfl

/-- With nothing named the settings are those in force. -/
theorem applyTunables_none (hs : Sound s) {n : Named} (h : ∀ j, namedAt n j = none) (k : Nat) : applyTunables n k s = s := by
  obtain ⟨-, -, -, -, h1, h2, h3, h4, h5, h6, h7, h8⟩ := hs.head
  have ha : clamp 256 32768 s.hcm.advise = s.hcm.advise := by unfold clamp; omega
  have hq : max s.hcm.advise (min 49152 s.hcm.require) = s.hcm.require := by omega
  have hr : max s.hcm.require (min 65535 s.hcm.retire) = s.hcm.retire := by omega
  have hh : clamp 3600 1800000 s.hcm.hours = s.hcm.hours := by unfold clamp; omega
  unfold applyTunables setThresholds orInForce
  simp only [h, Option.getD_none, ha, hq, hr, hh, resultingTable_unnamed hs (fun k _ => h (13 + k))]

theorem anyClamped_none {n : Named} (h : ∀ j, namedAt n j = none) (k : Nat) (s : State) : anyClamped n k s s = false := by
  simp [anyClamped, clampChanges, orInForce, h]

/-- The values that a TUNE leaves in force. -/
theorem applied_values (hs : Sound s) (n : Named) :
    let z := applyTunables n s.bsm.frames.length s
    z.cmp.compression = ((namedAt n 0).map (fun v => decide (v ≠ 0))).getD s.cmp.compression
      ∧ z.cmp.idleSeal = ((namedAt n 1).map (clamp 100 10000)).getD s.cmp.idleSeal
      ∧ z.fmt.threshold = ((namedAt n 2).map (min 8)).getD s.fmt.threshold
      ∧ z.fmt.restart = ((namedAt n 3).map (clampRestart s.bsm.frames.length)).getD s.fmt.restart
      ∧ z.rdc.limit = ((namedAt n 4).map (clamp 1 8)).getD s.rdc.limit
      ∧ z.mot.dwellTime = ((namedAt n 5).map clampDwell).getD s.mot.dwellTime
      ∧ z.hcm.advise = clamp 256 32768 ((namedAt n 6).getD s.hcm.advise)
      ∧ z.hcm.require = max z.hcm.advise (min 49152 ((namedAt n 7).getD s.hcm.require))
      ∧ z.hcm.retire = max z.hcm.require (min 65535 ((namedAt n 8).getD s.hcm.retire))
      ∧ z.hcm.hours = ((namedAt n 9).map (clamp 3600 1800000)).getD s.hcm.hours
      ∧ z.exu.alertSet = ((namedAt n 10).map alertSetOf).getD s.exu.alertSet
      ∧ z.exu.trigger = ((namedAt n 11).map (clamp 1 16)).getD s.exu.trigger
      ∧ z.exu.quietTime = ((namedAt n 12).map (min 255)).getD s.exu.quietTime := by
  intro z
  have hz : z = applyTunables n s.bsm.frames.length s := rfl
  unfold applyTunables setThresholds at hz
  refine ⟨?_, ?_, ?_, ?_, ?_, ?_, ?_, ?_, ?_, ?_, ?_, ?_, ?_⟩
  · rw [hz]; cases namedAt n 0 <;> rfl
  · rw [hz]; cases namedAt n 1 <;> rfl
  · rw [hz]; cases namedAt n 2 <;> rfl
  · rw [hz]; cases namedAt n 3 <;> rfl
  · rw [hz]; cases namedAt n 4 <;> rfl
  · rw [hz]; cases namedAt n 5 <;> rfl
  · rw [hz]; rfl
  · rw [hz]; rfl
  · rw [hz]; rfl
  · rw [hz]; exact hours_in_force hs n
  · rw [hz]; cases namedAt n 10 <;> rfl
  · rw [hz]; cases namedAt n 11 <;> rfl
  · rw [hz]; cases namedAt n 12 <;> rfl

theorem applied_table (n : Named) (k : Nat) (s : State) : (applyTunables n k s).spm.table = resultingTable n s := rfl

theorem resultingTable_getD (n : Named) (s : State) {i : Nat} (h : i < 6) :
    (resultingTable n s).getD i 0 = clampSpeed ((namedAt n (13 + i)).getD (s.spm.table.getD i 0)) := by
  unfold resultingTable orInForce
  rw [List.getD_eq_getElem?_getD, List.getElem?_map, List.getElem?_range h]
  rfl

/-- The flag CLAMPED: every value named stands as it was given, and the thresholds as named or in force. -/
theorem anyClamped_eq_false (n : Named) (s : State) (hs : Sound s) :
    let z := applyTunables n s.bsm.frames.length s
    anyClamped n s.bsm.frames.length s z = false ↔
      (∀ v, (namedAt n 1 = some v → z.cmp.idleSeal = v) ∧ (namedAt n 2 = some v → z.fmt.threshold = v)
        ∧ (namedAt n 3 = some v → z.fmt.restart = v) ∧ (namedAt n 4 = some v → z.rdc.limit = v)
        ∧ (namedAt n 5 = some v → z.mot.dwellTime = v) ∧ (namedAt n 9 = some v → z.hcm.hours = v)
        ∧ (namedAt n 10 = some v → v % 2 = 0) ∧ (namedAt n 11 = some v → z.exu.trigger = v)
        ∧ (namedAt n 12 = some v → z.exu.quietTime = v)
        ∧ ∀ i, i < 6 → namedAt n (13 + i) = some v → z.spm.table.getD i 0 = v)
      ∧ z.hcm.advise = (namedAt n 6).getD s.hcm.advise ∧ z.hcm.require = (namedAt n 7).getD s.hcm.require
      ∧ z.hcm.retire = (namedAt n 8).getD s.hcm.retire := by
  intro z
  obtain ⟨-, h1, h2, h3, h4, h5, -, -, -, h9, -, h11, h12⟩ := applied_values hs n
  have named : ∀ {j x d : Nat} {f : Nat → Nat}, x = ((namedAt n j).map f).getD d →
      (clampChanges n j f = false ↔ ∀ v, namedAt n j = some v → x = v) := fun {j x d f} hx => by
    rw [clampChanges_eq_false]
    refine forall_congr' fun v => forall_congr' fun hv => ?_
    rw [hx, hv]
    rfl
  have halert : clampChanges n 10 (fun v => v - v % 2) = false ↔ ∀ v, namedAt n 10 = some v → v % 2 = 0 := by
    rw [clampChanges_eq_false]
    refine forall_congr' fun v => forall_congr' fun _ => ?_
    omega
  have hspeeds : (List.range 6).any (fun i => clampChanges n (13 + i) clampSpeed) = false
      ↔ ∀ v i, i < 6 → namedAt n (13 + i) = some v → z.spm.table.getD i 0 = v := by
    rw [List.any_eq_false]
    constructor
    · intro h v i hi hv
      have hc := h i (List.mem_range.2 hi)
      rw [Bool.not_eq_true, clampChanges_eq_false] at hc
      rw [applied_table, resultingTable_getD n s hi, hv]
      exact hc v hv
    · intro h i hi
      have hi := List.mem_range.1 hi
      rw [Bool.not_eq_true, clampChanges_eq_false]
      intro v hv
      have hz := h v i hi hv
      rwa [applied_table, resultingTable_getD n s hi, hv] at hz
  unfold anyClamped orInForce
  simp only [Bool.or_eq_false_iff, decide_eq_false_iff_not, not_not, named h1, named h2, named h3, named h4, named h5,
    named h9, named h11, named h12, halert, hspeeds]
  constructor
  · rintro ⟨⟨⟨⟨⟨⟨⟨⟨⟨⟨⟨⟨k1, k2⟩, k3⟩, k4⟩, k5⟩, k6⟩, k7⟩, k8⟩, k9⟩, k10⟩, k11⟩, k12⟩, k13⟩
    exact ⟨fun v => ⟨k1 v, k2 v, k3 v, k4 v, k5 v, k9 v, k10 v, k11 v, k12 v, k13 v⟩, k6, k7, k8⟩
  · rintro ⟨hv, k6, k7, k8⟩
    exact ⟨⟨⟨⟨⟨⟨⟨⟨⟨⟨⟨⟨fun v => (hv v).1, fun v => (hv v).2.1⟩, fun v => (hv v).2.2.1⟩, fun v => (hv v).2.2.2.1⟩,
      fun v => (hv v).2.2.2.2.1⟩, k6⟩, k7⟩, k8⟩, fun v => (hv v).2.2.2.2.2.1⟩, fun v => (hv v).2.2.2.2.2.2.1⟩,
      fun v => (hv v).2.2.2.2.2.2.2.1⟩, fun v => (hv v).2.2.2.2.2.2.2.2.1⟩, fun v => (hv v).2.2.2.2.2.2.2.2.2⟩

/-! ### The TUNE -/

theorem resultFlags_tune (hk : takenKind s = some .tune) (d c : Bool) :
    resultFlags s false d c = (if d then 4 else 0) + (if c then 8 else 0) := by
  have hb : ewBit s = 0 := by
    unfold ewBit takenWrites
    rw [hk, show (decide (some Kind.tune = some .write) || decide (some Kind.tune = some .mark)
      || decide (some Kind.tune = some .flush)) = false from rfl, Bool.and_false]
    rfl
  unfold resultFlags
  rw [hb]
  simp

theorem namedAt_none_of_all {n : Named} (h : n.all (fun v => v.isNone) = true) (j : Nat) : namedAt n j = none := by
  unfold namedAt
  cases hj : n[j]? with
  | none => rfl
  | some v =>
    have hv := List.all_eq_true.1 h v (List.mem_of_getElem? hj)
    rw [Option.isNone_iff_eq_none] at hv
    rw [hv]
    rfl

/-- What a TUNE whose table ascends brings: the settings, whether anything is clamped, and the completion. -/
theorem exec_tune {r : OrderRec} (h : OrderPasses .tune r s) (hs : Sound s) (hc : Calm s) (hp : portAtRest s)
    (hn : noneWaits s) (ha : s.exu.active.isSome = true) (ht : tableAscends (resultingTable (tuneNamed r) s) = true) :
    ∃ u, exec .tune s = .next (finishActive ⟨.ok, .none, (if s.ord.discardSeen then 4 else 0)
          + (if anyClamped (tuneNamed r) s.bsm.frames.length s (applyTunables (tuneNamed r) s.bsm.frames.length s) then 8 else 0),
        0, s.ord.position, 0, 0, []⟩ u)
      ∧ portAtRest u ∧ SettingsOf (applyTunables (tuneNamed r) s.bsm.frames.length s) u := by
  have hk := h.toOrderTaken.kindOf
  have hexec : exec .tune s = .next (finish (beginTune r s)) := exec_passes h
  obtain ⟨n, hr⟩ : ∃ n, n = tuneNamed r := ⟨_, rfl⟩
  rw [← hr] at ht ⊢
  rw [hexec]
  unfold beginTune
  dsimp only
  rw [← hr]
  obtain ⟨z, hz⟩ : ∃ z, z = applyTunables n s.bsm.frames.length s := ⟨_, rfl⟩
  rw [← hz]
  by_cases hnone : n.all (fun v => v.isNone) = true
  · have hall := namedAt_none_of_all hnone
    have hzs : z = s := hz.trans (applyTunables_none hs hall _)
    have hcomplete : complete .ok .none s
        = finishActive ⟨.ok, .none, resultFlags s false s.ord.discardSeen false, 0, s.ord.position, 0, 0, []⟩ s := by
      rw [complete_eq hk (by decide)]
      simp only [valueA, valueC, valueD, resultExtents, hk]
      rfl
    refine ⟨s, ?_, hp, ?_⟩
    · rw [if_pos hnone, hzs, anyClamped_none hall, hcomplete, hc.finish_completed hp hn ha, resultFlags_tune hk]
    · rw [hzs]
      exact ⟨rfl, rfl, rfl, rfl, rfl, rfl, rfl, ⟨rfl, rfl, rfl, rfl⟩, rfl, rfl, rfl⟩
  · obtain ⟨c, i, th, re, li, dw, al, tr, q, ta, x, hx⟩ := applyTunables_frame n s.bsm.frames.length s
    have hcz : Calm z := hz ▸ hc.tuned n _
    have hsame : z.marb = s.marb ∧ z.exu.work = s.exu.work ∧ z.exu.postMark = s.exu.postMark
        ∧ z.exu.takenMark = s.exu.takenMark ∧ z.exu.active = s.exu.active ∧ z.ord = s.ord := by
      rw [hz, hx]
      exact ⟨rfl, rfl, rfl, rfl, rfl, rfl⟩
    obtain ⟨hm, hw, hpost, htaken, hact, hord⟩ := hsame
    have hpz : portAtRest z := by rw [portAtRest, hm, hw]; exact hp
    have hnz : noneWaits z := by rw [noneWaits, hpost, htaken]; exact hn
    have hset := settingsOf_evaluate z
    have hev : (evaluate z).ord = s.ord := hset.ord.trans hord
    have hkz : takenKind (evaluate z) = some .tune := by unfold takenKind; rw [hev]; exact hk
    refine ⟨{ evaluate z with sig := [] }, ?_, (headCareOnly_evaluate z).port hpz, hset⟩
    have hsig := evaluate_sig z
    rw [hcz.sig] at hsig
    rw [if_neg hnone, if_pos ht, resultFlags_tune hkz, hev,
      finish_evaluated hcz hpz hnz (by rw [hact]; exact ha) (headCareOnly_evaluate z) hsig]

/-- The entry whose offset a refused TUNE gives: the first named one not above the one before, or the lowest named. -/
theorem refusedOffset_spec {n : Named} {t : List Nat} (h : ∃ k, k < 6 ∧ namedAt n (13 + k) ≠ none) :
    ∃ k, k < 6 ∧ namedAt n (13 + k) ≠ none ∧ refusedOffset n t = 72 + 4 * k
      ∧ (notAbove t k = true → ∀ j, j < k → namedAt n (13 + j) ≠ none → notAbove t j = false)
      ∧ (notAbove t k = false → (∀ j, j < 6 → namedAt n (13 + j) ≠ none → notAbove t j = false)
          ∧ ∀ j, j < k → namedAt n (13 + j) = none) := by
  unfold refusedOffset
  dsimp only
  cases hf : (List.range 6).find? (fun i => (namedAt n (13 + i)).isSome && notAbove t i) with
  | some k =>
    rw [List.find?_range_eq_some] at hf
    obtain ⟨hk, hmem, hbelow⟩ := hf
    rw [Bool.and_eq_true, Option.isSome_iff_ne_none] at hk
    refine ⟨k, List.mem_range.1 hmem, hk.1, by dsimp only; omega, fun _ j hj hnamed => ?_, fun hno => ?_⟩
    · have := hbelow j hj
      rw [Option.isSome_iff_ne_none.2 hnamed] at this
      simpa using this
    · rw [hk.2] at hno
      cases hno
  | none =>
    rw [List.find?_eq_none] at hf
    have hnot : ∀ j, j < 6 → namedAt n (13 + j) ≠ none → notAbove t j = false := fun j hj hnamed => by
      have := hf j (List.mem_range.2 hj)
      rw [Option.isSome_iff_ne_none.2 hnamed] at this
      simpa using this
    cases hg : (List.range 6).find? (fun i => (namedAt n (13 + i)).isSome) with
    | none =>
      rw [List.find?_eq_none] at hg
      obtain ⟨k, hk, hnamed⟩ := h
      exact absurd (Option.isSome_iff_ne_none.2 hnamed) (hg k (List.mem_range.2 hk))
    | some k =>
      rw [List.find?_range_eq_some] at hg
      obtain ⟨hk, hmem, hbelow⟩ := hg
      rw [Option.isSome_iff_ne_none] at hk
      have hk6 := List.mem_range.1 hmem
      refine ⟨k, hk6, hk, by dsimp only; omega, fun hyes => ?_, fun _ => ⟨hnot, fun j hj => ?_⟩⟩
      · rw [hnot k hk6 hk] at hyes
        cases hyes
      · simpa using hbelow j hj

/-- A TUNE whose table does not ascend is refused whole. -/
theorem exec_tune_refused {r : OrderRec} (h : OrderPasses .tune r s) (hs : Sound s) (hc : Calm s) (hp : portAtRest s)
    (hn : noneWaits s) (ha : s.exu.active.isSome = true) (ht : tableAscends (resultingTable (tuneNamed r) s) = false) :
    (∃ k, k < 6 ∧ namedAt (tuneNamed r) (13 + k) ≠ none)
      ∧ exec .tune s = .next (finishActive ⟨.badOrder, .none, (if s.ord.discardSeen then 4 else 0),
          refusedOffset (tuneNamed r) (resultingTable (tuneNamed r) s), s.ord.position, 0, 0, []⟩ s) := by
  have hexec : exec .tune s = .next (finish (beginTune r s)) := exec_passes h
  obtain ⟨n, hr⟩ : ∃ n, n = tuneNamed r := ⟨_, rfl⟩
  rw [hexec]
  unfold beginTune
  dsimp only
  rw [← hr] at ht ⊢
  have hnamed : ∃ k, k < 6 ∧ namedAt n (13 + k) ≠ none := by
    by_contra hno
    have hall : ∀ k, k < 6 → namedAt n (13 + k) = none := fun k hk => by
      by_contra hne
      exact hno ⟨k, hk, hne⟩
    rw [resultingTable_unnamed hs hall, hs.speeds.2.2.1] at ht
    cases ht
  have hnone : ¬ n.all (fun v => v.isNone) = true := fun hall => by
    obtain ⟨k, -, hk⟩ := hnamed
    exact hk (namedAt_none_of_all hall _)
  refine ⟨hnamed, ?_⟩
  rw [if_neg hnone, if_neg (by rw [ht]; exact Bool.false_ne_true), hc.finish_completed hp hn ha,
    resultFlags_tune h.toOrderTaken.kindOf]
  rfl

/-- Settles O37, by the values that the settings taken leave in force, and by the place of the entry refused. -/
theorem tuneTakesNamedValues : Obligations.TuneTakesNamedValues := by
  intro r s h hs hc hp hn ha n table notAbove flags
  have htable : ∀ i, notAbove i ↔ Machine.notAbove (resultingTable n s) i = true := fun i => by
    unfold Machine.notAbove
    rw [Bool.and_eq_true, decide_eq_true_iff, decide_eq_true_iff]
    exact Iff.rfl
  refine ⟨fun hup => ?_, fun i hi hnot => ?_⟩
  · have ht : tableAscends (resultingTable n s) = true := by
      unfold tableAscends
      rw [List.all_eq_true]
      intro i hi
      have := hup i (List.mem_range.1 hi)
      rw [htable] at this
      simpa using this
    obtain ⟨u, hexec, hpu, hu⟩ := exec_tune h hs hc hp hn ha ht
    obtain ⟨h0, h1, h2, h3, h4, h5, h6, h7, h8, h9, h10, h11, h12⟩ := applied_values hs n
    obtain ⟨t1, t2, t3, t4⟩ := hu.thresholds
    obtain ⟨x1, x2, x3⟩ := hu.exu
    have hclamped := anyClamped_eq_false n s hs
    obtain ⟨c, i, th, re, li, dw, al, tr, q, ta, x, hx⟩ := applyTunables_frame n s.bsm.frames.length s
    refine ⟨u, _, hexec, hpu, ?_, ?_, ?_, ?_, ?_, ?_, ?_, ?_, ?_, ?_, ?_, ?_, ?_, ?_, ?_, ?_, ?_, ?_, ?_, ?_⟩
    · rw [hu.cmp]; exact h0
    · rw [hu.cmp]; exact h1
    · rw [hu.fmt]; exact h2
    · rw [hu.fmt]; exact h3
    · rw [hu.rdc]; exact h4
    · rw [hu.mot]; exact h5
    · rw [t1]; exact h6
    · rw [t2, t1]; exact h7
    · rw [t3, t2]; exact h8
    · rw [t4]; exact h9
    · intro hnone; rw [x1]; exact h10.trans (by rw [hnone]; rfl)
    · intro v hv
      have hal : u.exu.alertSet = alertSetOf v := by rw [x1]; exact h10.trans (by rw [hv]; rfl)
      rw [hal]
      exact ⟨alertSetOf_completions v, fun i h0 h => alertSetOf_condition v h0 h⟩
    · rw [x2]; exact h11
    · rw [x3]; exact h12
    · rw [hu.spm]; rfl
    · rw [hu.spm]; rfl
    · rw [hu.spm]; rfl
    · rw [hu.bsm]; rfl
    · rw [hu.ord]; rfl
    · rw [hu.cmp, hu.fmt, hu.rdc, hu.mot, hu.spm, t1, t2, t3, t4, x2, x3]
      exact hclamped
  · have ht : tableAscends (resultingTable n s) = false := by
      unfold tableAscends
      rw [List.all_eq_false]
      exact ⟨i, List.mem_range.2 hi, by rw [(htable i).1 hnot]; exact Bool.noConfusion⟩
    obtain ⟨hnamed, hexec⟩ := exec_tune_refused h hs hc hp hn ha ht
    obtain ⟨k, hk, hkn, hoff, hyes, hno⟩ := refusedOffset_spec (t := resultingTable n s) hnamed
    refine ⟨k, hk, hkn, ?_, fun hka j hj hjn => ?_, fun hka => ?_⟩
    · rw [hexec, hoff]
      rfl
    · rw [htable, hyes ((htable k).1 hka) j hj hjn]
      exact Bool.false_ne_true
    · rw [htable, Bool.not_eq_true] at hka
      obtain ⟨hlow, hnone⟩ := hno hka
      refine ⟨fun j hj hjn => ?_, hnone⟩
      rw [htable, hlow j hj hjn]
      exact Bool.false_ne_true

end Sys2Proof.Machine
end

section
/-! SUPPORT. Contents of cartridge memory: the checks of R128 as they are stated, and what an answer or a lost attempt brings
(R127 to R130). -/

namespace Sys2Proof.Machine

variable {s t : State}

/-! ### The first class -/

theorem firstClass_iff (c : CmContents) : firstClass c = true ↔ FirstClass c := by
  unfold firstClass geometryOk
  simp only [Bool.and_eq_true, Bool.or_eq_true, decide_eq_true_eq, Option.isSome_iff_ne_none]
  constructor
  · rintro ⟨⟨ht, ⟨⟨⟨h1, h2⟩, h3⟩, h4⟩, h5⟩, hc⟩
    refine ⟨ht, ⟨h1, h2⟩, ⟨h3, h4⟩, h5, fun hcl => ?_⟩
    rcases hc with hne | ⟨⟨h6, h7⟩, h8⟩
    · exact absurd hcl hne
    · exact ⟨h6, h7, h8⟩
  · rintro ⟨ht, ⟨h1, h2⟩, ⟨h3, h4⟩, h5, hc⟩
    refine ⟨⟨ht, ⟨⟨⟨h1, h2⟩, h3⟩, h4⟩, h5⟩, ?_⟩
    by_cases hcl : c.type = some .cleaning
    · obtain ⟨h6, h7, h8⟩ := hc hcl
      exact .inr ⟨⟨h6, h7⟩, h8⟩
    · exact .inl hcl

/-! ### The second class: a directory whose optional parts stand together -/

/-- The optional parts of a directory stand together: none, then some, then none. -/
def PartsTogether (d : List DirEntry) (a : Nat) (ps : List DirPart) (b : Nat) : Prop :=
  d.map (fun e => e.part) = List.replicate a none ++ (ps.map some ++ List.replicate b none)

theorem map_part_none {l : List DirEntry} (h : ∀ e ∈ l, e.part.isNone = true) :
    l.map (fun e => e.part) = List.replicate l.length none := by
  rw [List.eq_replicate_iff]
  refine ⟨List.length_map _, fun x hx => ?_⟩
  obtain ⟨e, he, rfl⟩ := List.mem_map.1 hx
  exact Option.isNone_iff_eq_none.1 (h e he)

theorem map_part_some : ∀ {l : List DirEntry}, (∀ e ∈ l, e.part.isSome = true) →
    l.map (fun e => e.part) = (dirParts l).map some
  | [], _ => rfl
  | e :: l, h => by
    obtain ⟨p, hp⟩ := Option.isSome_iff_exists.1 (h e (List.mem_cons_self ..))
    have ih := map_part_some (l := l) (fun x hx => h x (List.mem_cons_of_mem _ hx))
    have hparts : dirParts (e :: l) = p :: dirParts l := by
      unfold dirParts
      rw [List.filterMap_cons, hp]
    rw [List.map_cons, ih, hparts, hp]
    rfl

theorem noGap_together {d : List DirEntry} (h : noGap d = true) : ∃ a ps b, PartsTogether d a ps b := by
  obtain ⟨front, hfront⟩ : ∃ l, l = d.takeWhile (fun e => e.part.isNone) := ⟨_, rfl⟩
  obtain ⟨rest, hrest⟩ : ∃ l, l = d.dropWhile (fun e => e.part.isNone) := ⟨_, rfl⟩
  have hd : d = front ++ (rest.takeWhile (fun e => e.part.isSome) ++ rest.dropWhile (fun e => e.part.isSome)) := by
    rw [List.takeWhile_append_dropWhile, hfront, hrest, List.takeWhile_append_dropWhile]
  have hback : ∀ e ∈ rest.dropWhile (fun e => e.part.isSome), e.part.isNone = true := by
    rw [hrest]
    exact List.all_eq_true.1 h
  have hfirst : ∀ e ∈ front, e.part.isNone = true := fun e he => by
    rw [hfront] at he
    exact List.mem_takeWhile_imp (p := fun e : DirEntry => e.part.isNone) he
  have hmid : ∀ e ∈ rest.takeWhile (fun e => e.part.isSome), e.part.isSome = true := fun e he =>
    List.mem_takeWhile_imp (p := fun e : DirEntry => e.part.isSome) he
  refine ⟨front.length, dirParts (rest.takeWhile (fun e => e.part.isSome)),
    (rest.dropWhile (fun e => e.part.isSome)).length, ?_⟩
  unfold PartsTogether
  rw [← map_part_none hback, ← map_part_some hmid, ← map_part_none hfirst, ← List.map_append, ← List.map_append, ← hd]

theorem partAt_eq (c : CmContents) (i : Nat) : partAt c i = ((c.directory.map (fun e => e.part))[i]?).join := by
  unfold partAt
  rw [List.getElem?_map]
  cases c.directory[i]? <;> rfl

theorem partAt_together {c : CmContents} {a b : Nat} {ps : List DirPart} (h : PartsTogether c.directory a ps b) (i : Nat) :
    partAt c i = if i < a then none else ps[i - a]? := by
  rw [partAt_eq, h]
  by_cases hi : i < a
  · rw [if_pos hi, List.getElem?_append_left (by rwa [List.length_replicate]), List.getElem?_replicate, if_pos hi]
    rfl
  · rw [if_neg hi, List.getElem?_append_right (by rw [List.length_replicate]; omega), List.length_replicate]
    by_cases hj : i - a < ps.length
    · rw [List.getElem?_append_left (by rwa [List.length_map]), List.getElem?_map, List.getElem?_eq_getElem hj]
      rfl
    · rw [List.getElem?_append_right (by rw [List.length_map]; omega), List.getElem?_eq_none (by omega : ps.length ≤ i - a),
        List.getElem?_replicate]
      split <;> rfl

/-- With no entry without a part between two that have one, the parts stand together. -/
theorem noGap_of_parts {c : CmContents}
    (h : ∀ i j k, i < j → j < k → (partAt c i).isSome = true → (partAt c k).isSome = true → (partAt c j).isSome = true) :
    noGap c.directory = true := by
  obtain ⟨front, hfront⟩ : ∃ l, l = c.directory.takeWhile (fun e => e.part.isNone) := ⟨_, rfl⟩
  obtain ⟨rest, hrest⟩ : ∃ l, l = c.directory.dropWhile (fun e => e.part.isNone) := ⟨_, rfl⟩
  obtain ⟨mid, hmid⟩ : ∃ l, l = rest.takeWhile (fun e => e.part.isSome) := ⟨_, rfl⟩
  obtain ⟨back, hback⟩ : ∃ l, l = rest.dropWhile (fun e => e.part.isSome) := ⟨_, rfl⟩
  have hr : rest = mid ++ back := by rw [hmid, hback, List.takeWhile_append_dropWhile]
  have hd : c.directory = front ++ (mid ++ back) := by
    rw [← hr, hfront, hrest, List.takeWhile_append_dropWhile]
  have hall : back.all (fun e => e.part.isNone) = true := by
    rw [List.all_eq_true]
    intro x hx
    by_contra hsome
    rw [Bool.not_eq_true, Option.isNone_eq_false_iff] at hsome
    obtain ⟨k, hk⟩ := List.mem_iff_getElem?.1 hx
    obtain ⟨e, he, hnone⟩ : ∃ e, back[0]? = some e ∧ e.part.isSome = false := by
      cases hb : back with
      | nil => rw [hb] at hx; cases hx
      | cons e es =>
        have hh := List.head?_dropWhile_not (fun e : DirEntry => e.part.isSome) rest
        rw [← hback, hb] at hh
        exact ⟨e, rfl, by simpa using hh⟩
    obtain ⟨f, hf, hfsome⟩ : ∃ f, mid[0]? = some f ∧ f.part.isSome = true := by
      have hne : rest ≠ [] := fun h0 => by
        rw [h0] at hback
        rw [hback] at hx
        cases hx
      cases hc : rest with
      | nil => exact absurd hc hne
      | cons f fs =>
        have hh := List.head?_dropWhile_not (fun e : DirEntry => e.part.isNone) c.directory
        rw [← hrest, hc] at hh
        have hfs : f.part.isSome = true := by simpa [Option.isSome_iff_ne_none] using hh
        refine ⟨f, ?_, hfs⟩
        rw [hmid, hc, List.takeWhile_cons, if_pos hfs]
        rfl
    have hpos : 0 < mid.length := (List.getElem?_eq_some_iff.1 hf).1
    have hkpos : k ≠ 0 := fun h0 => by
      rw [h0, he] at hk
      obtain rfl := Option.some.inj hk
      rw [hnone] at hsome
      cases hsome
    have at' : ∀ j, (c.directory[front.length + j]?) = (mid ++ back)[j]? := fun j => by
      rw [hd, List.getElem?_append_right (Nat.le_add_right ..), Nat.add_sub_cancel_left]
    have atBack : ∀ j, (c.directory[front.length + (mid.length + j)]?) = back[j]? := fun j => by
      rw [at', List.getElem?_append_right (Nat.le_add_right ..), Nat.add_sub_cancel_left]
    have h1 : partAt c (front.length + 0) = f.part := by
      unfold partAt
      rw [at', List.getElem?_append_left hpos, hf]
      rfl
    have h2 : partAt c (front.length + (mid.length + 0)) = e.part := by
      unfold partAt
      rw [atBack, he]
      rfl
    have h3 : partAt c (front.length + (mid.length + k)) = x.part := by
      unfold partAt
      rw [atBack, hk]
      rfl
    have hmidpart := h (front.length + 0) (front.length + (mid.length + 0)) (front.length + (mid.length + k)) (by omega) (by omega)
      (by rw [h1]; exact hfsome) (by rw [h3]; exact hsome)
    rw [h2, hnone] at hmidpart
    cases hmidpart
  unfold noGap
  rw [← hrest]
  dsimp only
  rw [← hback]
  exact hall

theorem partsFollow_iff : ∀ ps : List DirPart, partsFollow ps = true ↔ ∀ j p q, ps[j]? = some p → ps[j + 1]? = some q →
    q.firstBundle = p.firstBundle + p.bundleCount ∧ q.firstObject = p.firstObject + p.objectCount
  | [] => by simp [partsFollow]
  | [x] => by simp [partsFollow]
  | x :: y :: rest => by
    rw [partsFollow, Bool.and_eq_true, Bool.and_eq_true, decide_eq_true_iff, decide_eq_true_iff, partsFollow_iff (y :: rest)]
    constructor
    · rintro ⟨hxy, hrest⟩ j p q hp hq
      cases j with
      | zero =>
        obtain rfl := Option.some.inj hp
        obtain rfl := Option.some.inj hq
        exact hxy
      | succ j => exact hrest j p q hp hq
    · intro h
      exact ⟨h 0 x y rfl rfl, fun j p q hp hq => h (j + 1) p q hp hq⟩

theorem dirParts_together {d : List DirEntry} {a b : Nat} {ps : List DirPart} (h : PartsTogether d a ps b) :
    dirParts d = ps := by
  have hf : dirParts d = (d.map (fun e => e.part)).filterMap id := by
    rw [List.filterMap_map]
    rfl
  have hnone : ∀ n, (List.replicate n (none : Option DirPart)).filterMap id = [] := fun n => by
    rw [List.filterMap_eq_nil_iff]
    exact fun x hx => List.eq_of_mem_replicate hx
  rw [hf, h, List.filterMap_append, List.filterMap_append, hnone, hnone, List.filterMap_map]
  simp

/-- What R133 asks of the parts of a directory, by their place among the parts that stand together. -/
theorem secondClass_iff (c : CmContents) : secondClass c = true ↔ SecondClass c := by
  by_cases hg : noGap c.directory = true
  · obtain ⟨a, ps, b, h⟩ := noGap_together hg
    have hat := partAt_together h
    have hpart : ∀ i p, partAt c i = some p ↔ a ≤ i ∧ ps[i - a]? = some p := fun i p => by
      rw [hat]
      split
      · simp; omega
      · exact ⟨fun hp => ⟨by omega, hp⟩, fun hp => hp.2⟩
    have hps : ∀ j p, ps[j]? = some p ↔ partAt c (a + j) = some p := fun j p => by
      rw [hpart, Nat.add_sub_cancel_left]
      exact ⟨fun hp => ⟨Nat.le_add_right .., hp⟩, fun hp => hp.2⟩
    have hgap : ∀ i j k, i < j → j < k → (partAt c i).isSome = true → (partAt c k).isSome = true →
        (partAt c j).isSome = true := fun i j k hij hjk hi hk => by
      obtain ⟨p, hp⟩ := Option.isSome_iff_exists.1 hi
      obtain ⟨q, hq⟩ := Option.isSome_iff_exists.1 hk
      have h1 := ((hpart i p).1 hp).1
      have h2 := (List.getElem?_eq_some_iff.1 ((hpart k q).1 hq).2).1
      rw [hat, if_neg (by omega), List.getElem?_eq_getElem (by omega)]
      rfl
    have hfollow : partsFollow ps = true ↔ ∀ i p q, partAt c i = some p → partAt c (i + 1) = some q →
        q.firstBundle = p.firstBundle + p.bundleCount ∧ q.firstObject = p.firstObject + p.objectCount := by
      rw [partsFollow_iff]
      constructor
      · intro hf i p q hp hq
        obtain ⟨hai, hp⟩ := (hpart i p).1 hp
        have hq := ((hpart (i + 1) q).1 hq).2
        rw [Nat.sub_add_comm hai] at hq
        exact hf (i - a) p q hp hq
      · exact fun hf j p q hp hq => hf (a + j) p q ((hps j p).1 hp) ((hps (j + 1) q).1 hq)
    have heach : ps.all (partOk c.geometry.length) = true ↔ ∀ i p, partAt c i = some p →
        1 ≤ p.bundleCount ∧ 1 ≤ p.rowTimes ∧ p.rowTimes ≤ c.geometry.length := by
      rw [List.all_eq_true]
      constructor
      · intro hall i p hp
        have hok := hall p (List.mem_of_getElem? ((hpart i p).1 hp).2)
        simp only [partOk, Bool.and_eq_true, decide_eq_true_eq] at hok
        exact ⟨hok.1.1, hok.1.2, hok.2⟩
      · intro hall p hp
        obtain ⟨j, hj⟩ := List.mem_iff_getElem?.1 hp
        obtain ⟨h1, h2, h3⟩ := hall (a + j) p ((hps j p).1 hj)
        simp [partOk, h1, h2, h3]
    have heod : (c.eod.eodBundle = (match ps.getLast? with | some p => p.firstBundle + p.bundleCount | none => 0)
          ∧ c.eod.eodObject = (match ps.getLast? with | some p => p.firstObject + p.objectCount | none => 0))
        ↔ (∀ i p, partAt c i = some p → partAt c (i + 1) = none →
            c.eod.eodBundle = p.firstBundle + p.bundleCount ∧ c.eod.eodObject = p.firstObject + p.objectCount)
          ∧ ((∀ i, partAt c i = none) → c.eod.eodBundle = 0 ∧ c.eod.eodObject = 0) := by
      cases hl : ps.getLast? with
      | none =>
        have hnil : ps = [] := List.getLast?_eq_none_iff.1 hl
        have hblank : ∀ i, partAt c i = none := fun i => by
          rw [hat, hnil]
          split <;> rfl
        exact ⟨fun he => ⟨fun i p hp => absurd hp (by rw [hblank]; exact nofun), fun _ => he⟩, fun he => he.2 hblank⟩
      | some p =>
        have hlast : ps[ps.length - 1]? = some p := by rw [← List.getLast?_eq_getElem?, hl]
        have hpos : ps.length - 1 < ps.length := (List.getElem?_eq_some_iff.1 hlast).1
        have hp : partAt c (a + (ps.length - 1)) = some p := (hps _ p).1 hlast
        have hnext : partAt c (a + (ps.length - 1) + 1) = none := by
          rw [hat, if_neg (by omega)]
          exact List.getElem?_eq_none (by omega)
        refine ⟨fun he => ⟨fun i q hq hn => ?_, fun hnone => ?_⟩, fun he => he.1 _ p hp hnext⟩
        · obtain ⟨hai, hq⟩ := (hpart i q).1 hq
          have hlt := (List.getElem?_eq_some_iff.1 hq).1
          rw [hat, if_neg (by omega), List.getElem?_eq_none_iff] at hn
          rw [show i - a = ps.length - 1 by omega, hlast] at hq
          obtain rfl := Option.some.inj hq
          exact he
        · rw [hnone] at hp
          cases hp
    unfold secondClass
    simp only [Bool.and_eq_true, decide_eq_true_eq, wrapsInOrder, hg, dirParts_together h, hfollow, heach, and_true]
    constructor
    · rintro ⟨⟨⟨⟨⟨⟨h1, h2⟩, h3⟩, h4⟩, h5⟩, h6⟩, h7⟩
      obtain ⟨h8, h9⟩ := heod.1 ⟨h4, h5⟩
      exact ⟨h1, hgap, h2, h3, h8, h9, h6, h7⟩
    · rintro ⟨h1, -, h2, h3, h8, h9, h6, h7⟩
      obtain ⟨h4, h5⟩ := heod.2 ⟨h8, h9⟩
      exact ⟨⟨⟨⟨⟨⟨h1, h2⟩, h3⟩, h4⟩, h5⟩, h6⟩, h7⟩
  · constructor
    · intro h
      unfold secondClass at h
      simp only [Bool.and_eq_true] at h
      obtain ⟨⟨⟨⟨⟨⟨⟨-, h⟩, -⟩, -⟩, -⟩, -⟩, -⟩, -⟩ := h
      exact absurd h hg
    · exact fun h => absurd (noGap_of_parts h.noGap) hg

/-! ### Accesses and their attempts (R127) -/

/-- Another attempt of the access in hand leaves the part calm. -/
theorem Calm.attempt (h : Calm s) (a : CmAccess) (n : Nat) : Calm { s with cml.access := some a, cml.retried := n } :=
  ⟨h.sig, h.fmt, h.rdc, h.dcp, .inl rfl⟩

/-- With no order TAKEN and no session, what CML holds and what a raise brings leave the part calm. -/
theorem Calm.memory (h : Calm s) (hp : s.rdc.phase = .none) (hr : s.ord.record = none) (m : Memory) (e : Exu) (g1 : Requester)
    (g2 : Group) (c : Cml) : Calm (exchanged m e g1 g2 { s with cml := c }) where
  sig := h.sig
  fmt := h.fmt
  rdc := ⟨.inl hp, h.rdc.2⟩
  dcp := by
    have hd : delivering s = false := by simp [delivering, atStage_none hr]
    rcases h.dcp with h1 | ⟨-, h2⟩ | ⟨h2, -⟩
    · exact .inl h1
    · exact .inr (.inl ⟨hd, h2⟩)
    · exact .inr (.inl ⟨hd, h2⟩)
  cml := by
    have hs : ∀ k st, atStage s k st = false := atStage_none hr
    exact .inr ⟨hs _ _, hs _ _⟩

theorem failAttempt_again {a : CmAccess} (h3 : a.attempt < 3) (ho : a.orphan = false) : failAttempt a s =
    { s with cml.access := some ⟨a.kind, a.attempt + 1, a.fields, a.orphan⟩, cml.retried := bump s.cml.retried } := by
  unfold failAttempt
  rw [if_pos (by simp [h3, ho])]

theorem exec_cmAttemptTimeout {a : CmAccess} (ha : s.cml.access = some a) :
    exec .cmAttemptTimeout s = .next (finish (failAttempt a s)) := by
  change execCmAttemptTimeout s = _
  unfold execCmAttemptTimeout
  rw [ha]

theorem exec_cmAnswer {a : CmAccess} (ha : s.cml.access = some a) (x : CmReply) :
    exec (.cmAnswer x) s = .next (finish (answerAccess x s)) := by
  change Host.Outcome.next (if s.cml.access.isSome then finish (answerAccess x s) else s) = _
  rw [if_pos (by rw [ha]; rfl)]

theorem answerAccess_contents {a : CmAccess} (ha : s.cml.access = some a) (c : CmContents) (agrees : Bool) :
    answerAccess (.contents c agrees) s = if a.kind = .loadRead && agrees then readAnswered a c s else failAttempt a s := by
  unfold answerAccess
  rw [ha]

theorem answerAccess_stored {a : CmAccess} (ha : s.cml.access = some a) :
    answerAccess .stored s = if a.kind = .loadRead then failAttempt a s else endAccess a true s := by
  unfold answerAccess
  rw [ha]

theorem takeUnreadable_seated (h : s.mot.state = .seated) : takeUnreadable s =
    { s with cml.state := .held, cml.copy := none, cml.readable := false, cml.stale := some .unreadable,
             cml.rebuilt := false, cml.dirtyWritten := false, cml.map := none } := by
  have hg : threadedGeometry s = none := by
    unfold threadedGeometry
    rw [h]
    rfl
  unfold takeUnreadable
  rw [hg]
  rfl

/-- A read failed for the third time, or found at fault, with no order for it: the memory is unreadable. -/
theorem finish_failAccess {a : CmAccess} (hc : Calm s) (hp : portAtRest s) (hphase : s.rdc.phase = .none)
    (hr : s.ord.record = none) (ho : a.orphan = false) (hk : a.kind = .loadRead) (hm : s.mot.state = .seated) :
    ∃ t, finish (failAccess a s) = t ∧ t.cml.access = none
      ∧ t.cml.failed = bump s.cml.failed ∧ t.cml.state = .held ∧ t.cml.copy = none
      ∧ t.cml.readable = false ∧ t.cml.stale = some .unreadable
      ∧ t.exu = (raise .cmFault 0 1 s.cml.state.code s).exu ∧ t.mem = (raise .cmFault 0 1 s.cml.state.code s).mem := by
  obtain ⟨k, attempt, fields, orphan⟩ := a
  obtain rfl : k = .loadRead := hk
  obtain rfl : orphan = false := ho
  obtain ⟨f, hf⟩ : ∃ f, f = bump s.cml.failed := ⟨_, rfl⟩
  obtain ⟨m, e, g1, g2, hraise⟩ := raise_same .cmFault 0 1 s.cml.state.code s
  have h1 := hraise { s with cml.failed := f } ⟨rfl, rfl, rfl, rfl⟩
  have h2 := hraise s .rfl
  have hport := portAtRest_raise hp .cmFault 0 1 s.cml.state.code
  rw [h2] at hport
  obtain ⟨u, hu⟩ : ∃ u, u = exchanged m e g1 g2 { s with
      cml.failed := f, cml.access := none, cml.state := .held, cml.copy := none, cml.readable := false,
      cml.stale := some .unreadable, cml.rebuilt := false, cml.dirtyWritten := false, cml.map := none } := ⟨_, rfl⟩
  have hcu : Calm u := by rw [hu]; exact hc.memory hphase hr m e g1 g2 _
  have hpu : portAtRest u := by rw [hu]; exact hport
  have hru : u.ord.record = none := by rw [hu]; exact hr
  have hfail : failAccess ⟨.loadRead, attempt, fields, false⟩ s = emit (.accessEnded .loadRead false) u := by
    have hcm : cmFault .loadRead { s with cml.failed := f } = exchanged m e g1 g2 { s with cml.failed := f } := h1
    unfold failAccess
    dsimp only
    rw [← hf, if_neg Bool.false_ne_true, hcm, if_pos (show readTaken _ _ = true from rfl), takeUnreadable_seated (s := exchanged m e g1 g2 { s with cml.failed := f }) hm, hu]
    rfl
  have hans : answerSignal (.accessEnded .loadRead false) { emit (.accessEnded .loadRead false) u with sig := [] } = u := by
    rw [taken_emit hcu.sig]
    change (if atStage u .load .loadMemory then loadReadEnded u else u) = u
    rw [atStage_none hru]
    rfl
  refine ⟨u, ?_, ?_⟩
  · rw [hfail, finish_answered_calm (by unfold emit; rw [hcu.sig]; rfl) hans hcu, grant_atRest hpu]
  · rw [h2, hu, hf]
    exact ⟨rfl, rfl, rfl, rfl, rfl, rfl, rfl, rfl⟩

/-- The write of an UNLOAD answered, its order gone. -/
theorem finish_unloadStored {a : CmAccess} (hc : Calm s) (hp : portAtRest s) (hphase : s.rdc.phase = .none)
    (hr : s.ord.record = none) (ha : s.cml.access = some a) (hk : a.kind = .unloadWrite) (ho : a.orphan = false) :
    finish (answerAccess .stored s) =
      { s with cml.access := none, cml.copy := s.cml.copy.map (fun x : CartCopy => { x with dirty := false }) } := by
  obtain ⟨k, attempt, fields, orphan⟩ := a
  obtain rfl : k = .unloadWrite := hk
  obtain rfl : orphan = false := ho
  obtain ⟨u, hu⟩ : ∃ u, u = { s with cml.access := none, cml.copy := s.cml.copy.map (fun x : CartCopy => { x with dirty := false }) } :=
    ⟨_, rfl⟩
  have hcu : Calm u := by
    rw [hu]
    exact hc.memory hphase hr s.mem s.exu s.marb.lastGeneral s.marb.lastGroup
      { s.cml with access := none, copy := s.cml.copy.map (fun x : CartCopy => { x with dirty := false }) }
  have hpu : portAtRest u := by rw [hu]; exact hp
  have hru : u.ord.record = none := by rw [hu]; exact hr
  have hend : answerAccess .stored s = emit (.accessEnded .unloadWrite true) u := by
    rw [answerAccess_stored ha, if_neg nofun, hu]
    rfl
  have hans : answerSignal (.accessEnded .unloadWrite true) { emit (.accessEnded .unloadWrite true) u with sig := [] } = u := by
    rw [taken_emit hcu.sig]
    change (if atStage u .unload .unloadMemory then unloadUnthread { u with ord.unloadFault := !true } else u) = u
    rw [atStage_none hru]
    rfl
  rw [hend, finish_answered_calm (by unfold emit; rw [hcu.sig]; rfl) hans hcu, grant_atRest hpu, hu]

/-- Contents taken by the LOAD in hand of a seated cartridge: threading begins. -/
theorem finish_loadTaken {r : OrderRec} {c : CmContents} {n : Nat} {w : Option CmWrite} (hc : Calm s) (hp : portAtRest s)
    (hphase : s.rdc.phase = .none) (ha : s.cml.access = some ⟨.loadRead, n, w, false⟩) (hr : s.ord.record = some r)
    (hk : kindOfCode r.kind = some .load) (hst : s.ord.stage = .loadMemory) (hab : s.ord.loadAborted = false)
    (hm : s.mot.state = .seated) (hf : FirstClass c) (hty : c.type ≠ some .cleaning) :
    finish (answerAccess (.contents c true) s) = { takeContents c s with
      cml.access := none, ord.stage := .loadThreading, mot.state := .threading, mot.threadPhase := .capture,
      mot.attempt := 1, mot.threadTimer := some (s.timebase + 3000), mot.ejecting := false } := by
  have hkind : takenKind s = some .load := by unfold takenKind; rw [hr]; exact hk
  obtain ⟨u, hu⟩ : ∃ u, u = { takeContents c s with cml.access := none } := ⟨_, rfl⟩
  have hsig : u.sig = [] := by rw [hu]; exact hc.sig
  have hend : answerAccess (.contents c true) s = emit (.accessEnded .loadRead true) u := by
    rw [answerAccess_contents ha, if_pos (show (decide (AccessKind.loadRead = .loadRead) && true) = true from rfl), readAnswered, if_pos ((firstClass_iff c).2 hf),
      if_pos (show readTaken _ _ = true from rfl), hu]
    rfl
  obtain ⟨t, ht⟩ : ∃ t, t = { takeContents c s with
      cml.access := none, ord.stage := .loadThreading, mot.state := .threading, mot.threadPhase := .capture,
      mot.attempt := 1, mot.threadTimer := some (s.timebase + 3000), mot.ejecting := false } := ⟨_, rfl⟩
  have hans : answerSignal (.accessEnded .loadRead true) { emit (.accessEnded .loadRead true) u with sig := [] } = t := by
    rw [taken_emit hsig]
    have hat : atStage u .load .loadMemory = true := by
      have hk' : takenKind u = some .load := by rw [hu]; exact hkind
      have hs' : u.ord.stage = .loadMemory := by rw [hu]; exact hst
      simp [atStage, hk', hs']
    change (if atStage u .load .loadMemory then loadReadEnded u else u) = t
    rw [hat, if_pos rfl]
    have hab' : u.ord.loadAborted = false := by rw [hu]; exact hab
    have hm' : u.mot.state = .seated := by rw [hu]; exact hm
    have hct : cartType u ≠ some .cleaning := by rw [hu]; exact hty
    unfold loadReadEnded
    rw [hab', if_neg Bool.false_ne_true, hm', if_neg (by decide)]
    unfold loadByType bringThreaded
    rw [if_neg hct, if_pos (show (setStage .loadThreading u).mot.state = .seated from hm')]
    unfold requestThread
    rw [if_pos (show (setStage .loadThreading u).mot.state = .seated from hm'), ht, hu]
    rfl
  have hct : Calm t := by
    have hkt : takenKind t = some .load := by rw [ht]; exact hkind
    have hdt : delivering t = false := by simp [delivering, atStage_ne hkt (by decide : Kind.load ≠ .read)]
    have hstage : t.ord.stage = .loadThreading := by rw [ht]
    refine ⟨by rw [ht]; exact hc.sig, ?_, ?_, ?_, .inr ⟨by simp [atStage, hstage], atStage_ne hkt (by decide) _⟩⟩
    · obtain ⟨hplace, hread⟩ := hc.fmt
      rw [ht]
      refine ⟨?_, hread⟩
      rcases hplace with h1 | h1 | ⟨h1, h2, -, -⟩ | h1
      · exact .inl h1
      · exact .inr (.inl h1)
      · exact .inr (.inr (.inl ⟨h1, h2, rfl, .inr (.inr (.inl nofun))⟩))
      · exact .inr (.inr (.inr h1))
    · rw [ht]
      exact ⟨.inl hphase, hc.rdc.2⟩
    · have hback : readingBack t = readingBack s := by rw [ht]; rfl
      have hph : t.dcp.phase = s.dcp.phase := by rw [ht]; rfl
      rcases hc.dcp with h1 | ⟨-, h2⟩ | ⟨h2, -⟩
      · exact .inl (by rw [hph]; exact h1)
      · exact .inr (.inl ⟨hdt, hback.trans h2⟩)
      · exact .inr (.inl ⟨hdt, hback.trans h2⟩)
  have hpt : portAtRest t := by rw [ht]; exact hp
  rw [hend, finish_answered_calm (by unfold emit; rw [hsig]; rfl) hans hct, grant_atRest hpt, ht]

/-- Settles O55: a loaded copy and the threading, another attempt, or the memory unreadable, by what CML's answer does and by the
signal that ORD answers in the same step. -/
theorem cartridgeMemoryAnswers : Obligations.CartridgeMemoryAnswers := by
  intro r c a s hc hp hphase
  refine ⟨fun hn x => ⟨?_, ?_⟩, fun ha hr hk hst hab hm hf hty => ?_, fun ha ho h3 => ?_, fun ha ho hk hr hm x hx => ?_,
    fun ha hk ho hr => ?_⟩
  · change Host.Outcome.next (if s.cml.access.isSome then finish (answerAccess x s) else s) = _
    rw [hn]
    rfl
  · change execCmAttemptTimeout s = _
    unfold execCmAttemptTimeout
    rw [hn]
  · refine ⟨staleOf c, fun hd => ?_, fun hd h2 => ?_, fun hd h2 => ?_, ?_⟩
    · unfold staleOf
      rw [if_pos hd]
    · unfold staleOf
      rw [hd, if_neg Bool.false_ne_true, if_neg (by simp [hty, (secondClass_iff c).2 h2])]
    · have h2' : secondClass c = false := by rw [← Bool.not_eq_true, secondClass_iff]; exact h2
      unfold staleOf
      rw [hd, if_neg Bool.false_ne_true, if_pos (by simp [hty, h2'])]
    · rw [exec_cmAnswer ha, finish_loadTaken hc hp hphase ha hr hk hst hab hm hf hty]
      rfl
  · have htime := exec_cmAttemptTimeout ha
    refine ⟨?_, fun hk => ⟨?_, ?_⟩, fun hk => ?_⟩
    · rw [htime, failAttempt_again h3 ho, finish_rest (hc.attempt _ _) hp]
      rfl
    · rw [htime, exec_cmAnswer ha, answerAccess_contents ha, if_neg (by simp)]
    · rw [htime, exec_cmAnswer ha, answerAccess_stored ha, if_pos hk]
    · rw [htime, exec_cmAnswer ha, answerAccess_contents ha, if_neg (by simp [hk])]
  · obtain ⟨t, ht, h⟩ := finish_failAccess hc hp hphase hr ho hk hm
    refine ⟨t, ?_, h⟩
    rcases hx with ⟨rfl, h3⟩ | ⟨rfl, hf⟩
    · have hfail : failAttempt a s = failAccess a s := by
        unfold failAttempt
        rw [if_neg (by simp [h3])]
      rw [exec_cmAttemptTimeout ha, hfail, ht]
    · have hfail : readAnswered a c s = failAccess a s := by
        unfold readAnswered
        rw [if_neg (by rw [firstClass_iff]; exact hf)]
      rw [exec_cmAnswer ha, answerAccess_contents ha, if_pos (by simp [hk]), hfail, ht]
  · exact ⟨_, (exec_cmAnswer ha _).trans (congrArg Host.Outcome.next (finish_unloadStored hc hp hphase hr ha hk ho)),
      rfl, rfl, rfl⟩

end Sys2Proof.Machine
end

section
/-! SUPPORT. The last burst of a transfer (R38). -/

namespace Sys2Proof.Machine

variable {s : State}

/-- A state after the last burst of the one transfer raised, with the memory it leaves. -/
def burstOver (m : Memory) (s : State) : State := { s with mem := m, marb.burst := none, marb.transfers := [] }

theorem transferOf_single {t : Transfer} {z : State} (h : z.marb.transfers = [t]) : transferOf z t.who = some t := by
  unfold transferOf
  rw [h, List.find?_cons_of_pos (by simp)]

/-- The last burst of a write. -/
theorem exec_lastWrite {r : Requester} {p : Purpose} {a n : Nat} {data : List Byte}
    (ht : s.marb.transfers = [⟨r, p, true, a, n, data⟩]) (hb : s.marb.burst = some ⟨r, n⟩) (hn : 1 ≤ n) :
    exec .burstDone s = .next (finish (transferDone ⟨r, p, true, a + n, n - n, data.drop n⟩
      (countWindow ⟨r, p, true, a, n, data⟩ n (countIntake ⟨r, p, true, a, n, data⟩ n
        (burstOver (memWriteN s.mem a (data.take n)) s))))) := by
  have hof : transferOf { s with marb.burst := none } r = some ⟨r, p, true, a, n, data⟩ :=
    transferOf_single (t := ⟨r, p, true, a, n, data⟩) (z := { s with marb.burst := none }) ht
  have hrest : replaceTransfer r none s.marb.transfers = [] := by
    rw [ht]
    exact if_pos rfl
  change execBurstDone s = _
  unfold execBurstDone
  rw [hb]
  dsimp only
  unfold endBurst
  dsimp only
  rw [hof]
  dsimp only
  rw [if_neg (by omega)]
  unfold moveBurst advanceTransfer burstMemory
  dsimp only
  rw [if_pos rfl, if_pos rfl]
  dsimp only
  rw [if_pos (Nat.sub_self n), if_pos (Nat.sub_self n), hrest]
  rfl

/-- The last burst of a read. -/
theorem exec_lastRead {r : Requester} {p : Purpose} {a n : Nat} {data : List Byte}
    (ht : s.marb.transfers = [⟨r, p, false, a, n, data⟩]) (hb : s.marb.burst = some ⟨r, n⟩) (hn : 1 ≤ n) :
    exec .burstDone s = .next (finish (transferDone ⟨r, p, false, a + n, n - n, data ++ memReadN s.mem a n⟩
      (countWindow ⟨r, p, false, a, n, data⟩ n (countIntake ⟨r, p, false, a, n, data⟩ n (burstOver s.mem s))))) := by
  have hof : transferOf { s with marb.burst := none } r = some ⟨r, p, false, a, n, data⟩ :=
    transferOf_single (t := ⟨r, p, false, a, n, data⟩) (z := { s with marb.burst := none }) ht
  have hrest : replaceTransfer r none s.marb.transfers = [] := by
    rw [ht]
    exact if_pos rfl
  change execBurstDone s = _
  unfold execBurstDone
  rw [hb]
  dsimp only
  unfold endBurst
  dsimp only
  rw [hof]
  dsimp only
  rw [if_neg (by omega)]
  unfold moveBurst advanceTransfer burstMemory
  dsimp only
  rw [if_neg Bool.false_ne_true, if_neg Bool.false_ne_true]
  dsimp only
  rw [if_pos (Nat.sub_self n), if_pos (Nat.sub_self n), hrest]
  rfl

end Sys2Proof.Machine
end

section
/-! SUPPORT. The burst of a window access, and the last burst of a row that FMT reads (R26, R40, R43). -/

namespace Sys2Proof.Machine

variable {s : State}

/-- What the end of a burst leaves of a part that is calm: the rows of the in-buffer have no transfer of their own. -/
theorem Calm.burstOver (h : Calm s) (hr : transferInHand s .rowStore = false) (m : Memory) : Calm (burstOver m s) where
  sig := h.sig
  fmt := h.fmt
  rdc := ⟨h.rdc.1, .inl (h.rdc.2.resolve_right (by rw [hr]; exact Bool.false_ne_true))⟩
  dcp := h.dcp
  cml := h.cml

theorem transferInHand_single {t : Transfer} {p : Purpose} (ht : s.marb.transfers = [t]) (hp : t.purpose ≠ p) :
    transferInHand s p = false := by
  unfold transferInHand
  rw [ht]
  simpa using hp

/-- Bytes written outside rows 0 and 1 of every frame change no header. -/
theorem tamperHeader_outside : ∀ (bs : List Byte) (a : Nat), (∀ x, a ≤ x → x < a + bs.length → headerFrameAt s x = none) →
    tamperHeader a bs s = s
  | [], _, _ => rfl
  | b :: bs, a, h => by
    have hnone : headerFrameAt s a = none := h a (Nat.le_refl a) (by rw [List.length_cons]; omega)
    unfold tamperHeader
    rw [hnone, ite_self]
    exact tamperHeader_outside bs (a + 1) fun x hx hx' => h x (by omega) (by rw [List.length_cons]; omega)

theorem headerFrameAt_none {x : Nat}
    (h : s.bsm.base ≤ x → x < s.bsm.base + s.bsm.frames.length * 1114112 → 32768 ≤ (x - s.bsm.base) % 1114112) :
    headerFrameAt s x = none := by
  unfold headerFrameAt
  refine if_neg ?_
  simp only [Bool.and_eq_true, decide_eq_true_eq]
  rintro ⟨⟨h1, h2⟩, h3⟩
  exact absurd h3 (Nat.not_lt.2 (h h1 h2))

/-- The bytes of a row read, as they join the out-buffer. -/
def fetchedBytes (r : OutRow) (f : Frame) (data work : List Byte) : List Byte :=
  if r.row < 66 then maskPayload r.row (payloadUsedOf f) data else parityRow work r.row

theorem maskPayload_eq (r : OutRow) (f : Frame) (data work : List Byte) : fetchedBytes r f data work =
    if r.row < 2 then data
    else if r.row < 66 then
      data.take (((f.header.map (fun h => h.payloadUsed)).getD 0) - (r.row - 2) * 16384)
        ++ List.replicate (data.length - (((f.header.map (fun h => h.payloadUsed)).getD 0) - (r.row - 2) * 16384)) 0
    else parityRow work r.row := by
  have hused : payloadUsedOf f = (f.header.map (fun h => h.payloadUsed)).getD 0 := by
    unfold payloadUsedOf
    cases f.header <;> rfl
  unfold fetchedBytes maskPayload
  rw [hused]
  by_cases h2 : r.row < 2
  · rw [if_pos h2, if_pos h2, if_pos (by omega)]
  · rw [if_neg h2, if_neg h2]

/-- What the last burst of a row that FMT reads brings. -/
theorem rowFetched_eq {r : OutRow} {i : Nat} {f : Frame} {data : List Byte} {z : State} (hr : z.fmt.reading = some r)
    (hf : frameOf z r.bundle = some i) (hfr : z.bsm.frames[i]? = some f) : rowFetched data z =
      { z with
        mem := if r.row < 66 ∧ r.attempt = 1 then
            memWriteN z.mem (frameBase z i + workOffset) (foldRow (if r.row = 0 then [] else workValues z i) r.row
              (fetchedBytes r f data (workValues z i)))
          else z.mem
        fmt.reading := none
        fmt.outBuffer := z.fmt.outBuffer ++ [{ r with data := fetchedBytes r f data (workValues z i) }] } := by
  have hframe : frameAt z i = some f := hfr
  unfold rowFetched foldWork
  rw [hr]
  dsimp only
  rw [hf]
  dsimp only
  rw [hframe]
  dsimp only
  rw [show (if r.row < 66 then maskPayload r.row (payloadUsedOf f) data else parityRow (workValues z i) r.row)
    = fetchedBytes r f data (workValues z i) from rfl]
  generalize fetchedBytes r f data (workValues z i) = bytes
  generalize (if r.row = 0 then [] else workValues z i) = old
  by_cases h : r.row < 66 ∧ r.attempt = 1
  · rw [if_pos h, if_pos (by simp [h.1, h.2])]
  · rw [if_neg h, if_neg (by simpa using h)]

/-- Settles O22: the one burst moves the bytes, and a row read joins the out-buffer. -/
theorem windowBurstMovesBytes : Obligations.WindowBurstMovesBytes := by
  refine ⟨fun a bs s hc hwf hw hn hblock => ⟨fun ht hb hout => ?_, fun ht hb => ?_, fun hb => ?_⟩,
    fun r i f addr n had s hr hf hfr hn hw ht hb => ?_⟩
  · obtain ⟨m, hm⟩ : ∃ m, m = memWriteN s.mem a bs := ⟨_, rfl⟩
    have hcalm := hc.burstOver (transferInHand_single ht nofun) m
    have htamper : tamperHeader a bs (burstOver m s) = burstOver m s :=
      tamperHeader_outside bs a fun x hx hx' => headerFrameAt_none (hout x hx hx')
    have hexec : exec .burstDone s = .next (burstOver m s) := by
      rw [exec_lastWrite ht hb hn, List.take_length, ← hm]
      change Host.Outcome.next (finish (tamperHeader a (bs.take bs.length) (burstOver m s))) = _
      rw [List.take_length, htamper, finish_rest hcalm ⟨rfl, rfl, hw⟩]
    refine ⟨_, hexec, ?_, fun x hx => ?_, rfl⟩
    · exact hm ▸ memReadN_memWriteN hwf a bs
    · exact hm ▸ memRead_memWriteN_outside hwf a x bs hx
  · have hcalm := hc.burstOver (transferInHand_single ht nofun) s.mem
    obtain ⟨bytes, hbytes⟩ : ∃ bytes, bytes = memReadN s.mem a bs.length := ⟨_, rfl⟩
    rw [exec_lastRead ht hb hn, List.nil_append, ← hbytes]
    change Host.Outcome.next (finish (windowReadDone bytes (burstOver s.mem s))) = _
    have hcalm' : Calm (windowReadDone bytes (burstOver s.mem s)) :=
      ⟨hcalm.sig, hcalm.fmt, hcalm.rdc, hcalm.dcp, hcalm.cml⟩
    rw [finish_rest hcalm' ⟨rfl, rfl, hw⟩]
    rfl
  · change execBurstDone s = _
    unfold execBurstDone
    rw [hb]
  · intro data work left bytes mem t htc
    have hbase : frameBase (burstOver s.mem s) i + workOffset = work := by
      change s.bsm.base + i * 1114112 + 1081344 = s.bsm.base + 1114112 * i + 1081344
      rw [Nat.mul_comm]
    have hvalues : workValues (burstOver s.mem s) i = memReadN s.mem work 32768 := by
      unfold workValues
      rw [hbase]
      rfl
    have hbytes : fetchedBytes r f data (workValues (burstOver s.mem s) i) = bytes := by
      rw [maskPayload_eq, hvalues]
    have hexec : exec .burstDone s = .next (finish (rowFetched data (burstOver s.mem s))) := by
      rw [exec_lastRead ht hb hn]
      change Host.Outcome.next (finish (transferDone ⟨.rowOut, .rowFetch, false, addr + n, n - n, data⟩ _)) = _
      clear_value data
      rfl
    have hmem : (if r.row < 66 ∧ r.attempt = 1 then
        memWriteN (burstOver s.mem s).mem work (foldRow (if r.row = 0 then [] else memReadN s.mem work 32768) r.row bytes)
        else (burstOver s.mem s).mem) = mem := rfl
    rw [hexec, rowFetched_eq (z := burstOver s.mem s) hr hf hfr, hbytes, hvalues, hbase, hmem]
    clear_value mem bytes
    exact congrArg Host.Outcome.next (finish_rest htc ⟨rfl, rfl, hw⟩)

end Sys2Proof.Machine
end

section
/-! SUPPORT. The idle timer's expiry, and a seal written (R15 to R17, R34). -/

namespace Sys2Proof.Machine

variable {s : State}

/-! ### The idle timer -/

theorem decodedFrame_none_iff {b : Nat} : decodedFrame s b = none ↔
    ∀ f ∈ s.bsm.frames, ¬(f.bundle = some b ∧ f.state = .decoded) := by
  unfold decodedFrame findFrame
  rw [List.findIdx?_eq_none_iff]
  simp

/-- CMP's values and a frame without a DECODED bundle leave the part calm. -/
theorem Calm.frameSet (h : Calm s) {i : Nat} {f : Frame} (hf : f.state ≠ .decoded) (c : Cmp) (ts : List Transfer)
    (ht : s.marb.transfers = []) : Calm { s with bsm.frames := s.bsm.frames.set i f, cmp := c, marb.transfers := ts } where
  sig := h.sig
  fmt := h.fmt
  rdc := by
    refine ⟨h.rdc.1, .inl (h.rdc.2.resolve_right ?_)⟩
    unfold transferInHand
    rw [ht]
    exact Bool.false_ne_true
  dcp := by
    rcases h.dcp with h1 | h1 | ⟨h1, hw, hfr, hn, b, hb, hd, he, hx⟩
    · exact .inl h1
    · exact .inr (.inl h1)
    · refine .inr (.inr ⟨h1, hw, hfr, hn, b, hb, ?_, he, hx⟩)
      rw [decodedFrame_none_iff] at hd ⊢
      intro g hg
      rcases List.mem_or_eq_of_mem_set hg with hg | rfl
      · exact hd g hg
      · exact fun hgf => hf hgf.2
  cml := h.cml

theorem Calm.cmp (h : Calm s) (c : Cmp) : Calm { s with cmp := c } := ⟨h.sig, h.fmt, h.rdc, h.dcp, h.cml⟩

theorem idleExpiry_notDue (h : expired s.cmp.idleTimer s = false) : idleExpiry s = s := by
  unfold idleExpiry
  rw [h]
  rfl

theorem idleExpiry_due (h : expired s.cmp.idleTimer s = true) : idleExpiry s =
    (if s.cmp.sealing.isSome then { s with cmp.idleTimer := none }
     else if s.cmp.index.isEmpty then returnEmptyBundle { s with cmp.idleTimer := none }
     else beginSeal .idle { s with cmp.idleTimer := none }) := by
  unfold idleExpiry
  rw [h]
  rfl

theorem beginSeal_none (h : openFrame s = none) (c : SealCause) : beginSeal c s = s := by
  unfold beginSeal
  rw [h]

theorem returnEmptyBundle_none (h : openFrame s = none) : returnEmptyBundle s = s := by
  unfold returnEmptyBundle
  rw [h]

/-- The idle timer's expiry with nothing to seal. -/
theorem idleExpiry_stops (h : expired s.cmp.idleTimer s = true) (ho : s.cmp.sealing.isSome = true ∨ openFrame s = none) :
    idleExpiry s = { s with cmp.idleTimer := none } := by
  rw [idleExpiry_due h]
  rcases ho with ho | ho
  · rw [if_pos ho]
  · have ho' : openFrame { s with cmp.idleTimer := none } = none := ho
    rw [returnEmptyBundle_none ho', beginSeal_none ho', ite_self, ite_self]

/-! ### A seal written -/

theorem applyChoice_frame (k : Nat) (s : State) : ∃ m, applyChoice k s = { s with spm := m } ∧ m.start = s.spm.start
    ∧ m.excluded = s.spm.excluded ∧ m.writeSamples = s.spm.writeSamples := by
  unfold applyChoice
  dsimp only
  split
  · exact ⟨_, rfl, rfl, rfl, rfl⟩
  · split
    · exact ⟨_, rfl, rfl, rfl, rfl⟩
    · split
      · exact ⟨_, rfl, rfl, rfl, rfl⟩
      · exact ⟨_, rfl, rfl, rfl, rfl⟩

/-- What a seal handed to SPM changes (R116). -/
theorem writeSample_frame (p : Nat) (s : State) : ∃ m, writeSample p s = { s with spm := m }
    ∧ (s.spm.session ≠ .write → m = s.spm)
    ∧ (s.spm.session = .write → m.start = some s.timebase ∧ m.excluded = 0
        ∧ m.writeSamples = (if p = 0 then s.spm.writeSamples else bump s.spm.writeSamples)) := by
  unfold writeSample
  by_cases hs : s.spm.session = .write
  · rw [if_neg (not_not.2 hs)]
    by_cases hp : p = 0
    · rw [if_pos hp, if_pos hp]
      exact ⟨_, rfl, fun h => absurd hs h, fun _ => ⟨rfl, rfl, rfl⟩⟩
    · rw [if_neg hp, if_neg hp]
      dsimp only
      unfold useSample
      dsimp only
      obtain ⟨m, hm, h1, h2, h3⟩ := applyChoice_frame _ _
      rw [hm]
      exact ⟨m, rfl, fun h => absurd hs h, fun _ => ⟨h1, h2, h3⟩⟩
  · rw [if_pos hs]
    exact ⟨s.spm, rfl, fun _ => rfl, fun h => absurd h hs⟩

theorem frameCount_eq (s : State) (st : FrameState) : frameCount s st = s.bsm.frames.countP (fun f => f.state = st) := by
  unfold frameCount
  rw [List.countP_eq_length_filter]

/-- One more frame is SEALED once the OPEN one is. -/
theorem frameCount_sealed {i : Nat} {f : Frame} {z : State} (hf : s.bsm.frames[i]? = some f) (ho : f.state = .opened)
    (hz : z.bsm.frames = s.bsm.frames.set i { f with state := .sealed }) :
    frameCount z .sealed = frameCount s .sealed + 1 := by
  obtain ⟨hi, hget⟩ := List.getElem?_eq_some_iff.1 hf
  rw [frameCount_eq, frameCount_eq, hz, List.countP_set hi, hget]
  simp [ho]

/-- FMT keeps a seal's cause, and restarts nothing below the threshold (R15, R43, R58). -/
theorem fmtSealed_waits {c : SealCause} (hcur : s.fmt.cursor.isSome = true) (h : s.fmt.phase = .held
    ∨ (s.fmt.phase = .stopped ∧ (c = .full ∨ c = .index) ∧ frameCount s .sealed < restartThreshold s)) :
    fmtSealed c s = { s with fmt.lastCause := some c } := by
  have hcount : sealedCountCheck { s with fmt.lastCause := some c } = { s with fmt.lastCause := some c } := by
    refine if_neg ?_
    simp only [Bool.and_eq_true, decide_eq_true_eq, not_and, Nat.not_le]
    intro hst
    rcases h with h | ⟨-, -, h⟩
    · exact absurd (hst.symm.trans h) nofun
    · exact h
  have hrest : (s.fmt.phase = .stopped && flushType c) = false := by
    rcases h with h | ⟨-, rfl | rfl, -⟩
    · rw [h]; rfl
    · exact Bool.and_false _
    · exact Bool.and_false _
  have hcheck : fmtCheck { s with fmt.lastCause := some c } = { s with fmt.lastCause := some c } := by
    unfold fmtCheck
    rcases h with h | ⟨h, -⟩
    · rw [show ({ s with fmt.lastCause := some c } : State).fmt.phase = .held from h]
    · rw [show ({ s with fmt.lastCause := some c } : State).fmt.phase = .stopped from h]
  unfold fmtSealed
  dsimp only
  rw [if_pos hcur, hrest, if_neg Bool.false_ne_true, hcount, hcheck]

/-- The last burst of a seal's header: the frame is SEALED, and nothing waits for it. -/
theorem sealDone_eq {x : Sealing} {i : Nat} {f : Frame} (hx : s.cmp.sealing = some x) (ho : openFrame s = some i)
    (hf : s.bsm.frames[i]? = some f) (hcand : s.cmp.candidate = none) (hmarks : s.cmp.marksLeft = 0)
    (hflush : x.flushSeen = false) (hcur : s.fmt.cursor.isSome = true) (hphase : s.fmt.phase = .held
      ∨ (s.fmt.phase = .stopped ∧ (x.header.cause = .full ∨ x.header.cause = .index)
        ∧ frameCount s .sealed + 1 < min s.fmt.restart (s.bsm.frames.length / 2))) :
    ∃ m, sealDone s = { s with
        cmp.sealing := none, bsm.frames := s.bsm.frames.set i { f with state := .sealed },
        bsm.sealedThrough := s.bsm.sealedThrough + 1, fmt.lastCause := some x.header.cause,
        cml.map := s.cml.map.map (fun m => { m with eodBundle := s.bsm.sealedThrough + 1 }), spm := m }
      ∧ (s.spm.session ≠ .write → m = s.spm)
      ∧ (s.spm.session = .write → m.start = some s.timebase ∧ m.excluded = 0
          ∧ m.writeSamples = (if x.header.payloadUsed = 0 then s.spm.writeSamples else bump s.spm.writeSamples)) := by
  obtain ⟨f', hf', hopen⟩ := openFrame_some ho
  rw [hf] at hf'
  obtain rfl := Option.some.inj hf'
  obtain ⟨y, hy⟩ : ∃ y : State, y = { s with
      cmp.sealing := none, bsm.frames := s.bsm.frames.set i { f with state := .sealed },
      bsm.sealedThrough := s.bsm.sealedThrough + 1,
      cml.map := s.cml.map.map (fun m => { m with eodBundle := s.bsm.sealedThrough + 1 }) } := ⟨_, rfl⟩
  have heod : setEod (eodObject (setFrameState i .sealed s)) (s.bsm.sealedThrough + 1)
      { setFrameState i .sealed s with cmp.sealing := none, bsm.sealedThrough := s.bsm.sealedThrough + 1 } = y := by
    rw [hy]
    unfold setEod setFrameState updateFrame eodObject
    dsimp only
    rw [modifyAt_some hf]
    cases s.cml.map <;> rfl
  obtain ⟨m, hm, hsame, hsample⟩ := writeSample_frame x.header.payloadUsed y
  have hmy : { y with spm := m } = { y with spm := m } := rfl
  have hcount : frameCount { y with spm := m } .sealed = frameCount s .sealed + 1 :=
    frameCount_sealed hf hopen (by rw [hy])
  have hfmt : fmtSealed x.header.cause { y with spm := m } = { y with spm := m, fmt.lastCause := some x.header.cause } := by
    refine fmtSealed_waits (s := { y with spm := m }) (by rw [hy]; exact hcur) ?_
    rcases hphase with h | ⟨h, hc, hlt⟩
    · exact .inl (by rw [hy]; exact h)
    · refine .inr ⟨by rw [hy]; exact h, hc, ?_⟩
      rw [hcount, hy]
      unfold restartThreshold
      dsimp only
      rw [List.length_set]
      exact hlt
  have hresume : resumeIntake { y with spm := m, fmt.lastCause := some x.header.cause }
      = { y with spm := m, fmt.lastCause := some x.header.cause } := by
    unfold resumeIntake
    rw [hy]
    dsimp only
    rw [hcand]
    exact if_neg (by rw [hmarks]; exact Nat.lt_irrefl 0)
  refine ⟨m, ?_, ?_, ?_⟩
  · unfold sealDone
    rw [hx, ho]
    dsimp only
    rw [heod, hm, hfmt, hflush, if_neg Bool.false_ne_true]
    refine (if_neg ?_).trans ?_
    · rw [hy]
      simp [hcand]
    · rw [hresume, hy]
  · intro hn
    rw [hsame (by rw [hy]; exact hn), hy]
  · intro hw
    have h := hsample (by rw [hy]; exact hw)
    rw [hy] at h
    exact h

/-- Settles O41, by what the expiry finds in the store, and by what follows a seal written. -/
theorem idleTimerSeals : Obligations.IdleTimerSeals := by
  refine ⟨fun i s hc hp => ⟨fun ht => ?_, fun x ht => ⟨fun hearly => ?_, fun hdue => ⟨fun ho => ?_, fun hx ho hix hm ⟨j, f, hj, hf, hw⟩ => ?_,
    fun e rest hx ho hix => ?_⟩⟩⟩, fun x i f addr n data s hx ho hf hcand hmarks hflush hcur hn hlen ht hb hw hphase => ?_⟩
  · change Host.Outcome.next (finish (idleExpiry s)) = _
    rw [idleExpiry_notDue (by rw [ht]; exact expired_none), finish_rest hc hp]
  · change Host.Outcome.next (finish (idleExpiry s)) = _
    rw [idleExpiry_notDue (by rw [ht]; exact expired_early hearly), finish_rest hc hp]
  · change Host.Outcome.next (finish (idleExpiry s)) = _
    rw [idleExpiry_stops (by rw [ht]; exact expired_due hdue) ho]
    exact congrArg Host.Outcome.next (finish_rest (hc.cmp { s.cmp with idleTimer := none }) hp)
  · have hr := (returnEmptyBundle_others (s := { s with cmp.idleTimer := none }) ho hm hj hf hw).1
    have hcx := hc.frameSet (i := i) (f := freeFrame) nofun (emptiedCmp { s.cmp with idleTimer := none }) s.marb.transfers hp.1
    change Host.Outcome.next (finish (idleExpiry s)) = _
    rw [idleExpiry_due (by rw [ht]; exact expired_due hdue), if_neg (by rw [hx]; exact Bool.false_ne_true),
      if_pos (by rw [hix]; rfl), hr]
    refine congrArg Host.Outcome.next ((finish_rest hcx hp).trans ?_)
    unfold emptiedCmp
    dsimp only
    rw [hix]
  · obtain ⟨f, hf, hfo⟩ := openFrame_some ho
    obtain ⟨z, hz⟩ : ∃ z : State, z = { s with cmp.idleTimer := none } := ⟨_, rfl⟩
    have hoz : openFrame z = some i := by rw [hz]; exact ho
    have hfz : z.bsm.frames[i]? = some f := by rw [hz]; exact hf
    have hcz : Calm z := by rw [hz]; exact hc.cmp _
    have hpz : portAtRest z := by rw [hz]; exact hp
    have hcx : Calm (beginSeal .idle z) := by
      rw [beginSeal_eq hoz hfz]
      exact hcz.frameSet (by rw [hfo]; exact nofun) _ _ hpz.1
    obtain ⟨t, hfin, hbegun, hkept, hcand, hcur⟩ := finish_beginSeal (s := s) hoz hpz hcx (by rw [hz]) (by rw [hz])
    refine ⟨t, ?_, ?_, ?_, ?_, ?_⟩
    · change Host.Outcome.next (finish (idleExpiry s)) = _
      rw [idleExpiry_due (by rw [ht]; exact expired_due hdue), if_neg (by rw [hx]; exact Bool.false_ne_true),
        if_neg (by rw [hix]; exact Bool.false_ne_true), ← hz, hfin]
    · rw [← hix]
      rw [hz] at hbegun
      exact hbegun
    · rw [hcand, hz]
    · rw [hcur, hz]
    · have h := congrArg (fun y : State => { y with cmp := s.cmp }) hkept
      rw [hz] at h
      exact h
  · intro u hcu
    obtain ⟨y, hy⟩ : ∃ y, y = memWriteN s.mem addr data := ⟨_, rfl⟩
    have hexec : exec .burstDone s = .next (finish (sealDone (burstOver y s))) := by
      rw [exec_lastWrite ht hb hn, List.take_of_length_le (Nat.le_of_eq hlen), ← hy]
      rfl
    obtain ⟨m, hm, hsame, hsample⟩ := sealDone_eq (s := burstOver y s) hx ho hf hcand hmarks hflush hcur hphase
    have hu : sealDone (burstOver y s) = { u with spm := m } := by
      rw [hm, hy]
      rfl
    have hcm : Calm { u with spm := m } := ⟨hcu.sig, hcu.fmt, hcu.rdc, hcu.dcp, hcu.cml⟩
    refine ⟨m, ?_, hsame, hsample⟩
    rw [hexec, hu]
    exact congrArg Host.Outcome.next (finish_rest hcm ⟨rfl, rfl, hw⟩)

end Sys2Proof.Machine
end

section
/-! SUPPORT. REPORT (R195 to R197): the fields of the report record at their offsets, and the clearing of the counters. -/

namespace Sys2Proof.Machine

variable {s : State}

/-! ### Fields of bytes that follow one another -/

theorem fromBytes_toBytes_mod : ∀ n v : Nat, fromBytes (toBytes n v) = v % 256 ^ n
  | 0, v => by rw [Nat.pow_zero, Nat.mod_one]; rfl
  | n + 1, v => by
    have hb : (BitVec.ofNat 8 (v % 256)).toNat = v % 256 := by
      rw [BitVec.toNat_ofNat, Nat.mod_eq_of_lt (Nat.mod_lt v (by decide) : v % 256 < 2 ^ 8)]
    rw [toBytes, fromBytes, fromBytes_toBytes_mod n (v / 256), hb, Nat.pow_succ', Nat.mod_mul]

theorem field_append_right {a b : List Byte} {o n : Nat} : field (a ++ b) (a.length + o) n = field b o n := by
  unfold field
  rw [List.drop_append, List.drop_eq_nil_of_le (Nat.le_add_right ..), Nat.add_sub_cancel_left, List.nil_append]

theorem field_append_left {a b : List Byte} {o n : Nat} (h : o + n ≤ a.length) : field (a ++ b) o n = field a o n := by
  unfold field
  rw [List.drop_append_of_le_length (by omega), List.take_append_of_le_length (by rw [List.length_drop]; omega)]

theorem field_toBytes (n v : Nat) : field (toBytes n v) 0 n = v % 256 ^ n := by
  unfold field
  rw [List.drop_zero, List.take_of_length_le (Nat.le_of_eq (toBytes_length n v)), fromBytes_toBytes_mod]

/-- Bytes that stand at the end. -/
theorem field_end {a b : List Byte} {o n k : Nat} (ha : a.length = k) : field (a ++ b) (k + o) n = field b o n := by
  rw [← ha, field_append_right]

/-- Bytes that stand at an offset. -/
theorem field_middle {a b c : List Byte} {o n k : Nat} (ha : a.length = k) (h : o + n ≤ b.length) :
    field (a ++ (b ++ c)) (k + o) n = field b o n := by
  rw [← ha, field_append_right, field_append_left h]

theorem length_flatten_map {α : Type} {g : α → List Byte} {k : Nat} (hg : ∀ x, (g x).length = k) :
    ∀ l : List α, (l.map g).flatten.length = k * l.length
  | [] => by simp
  | x :: xs => by
    rw [List.map_cons, List.flatten_cons, List.length_append, hg, length_flatten_map hg xs, List.length_cons, Nat.mul_succ,
      Nat.add_comm]

/-- A field of one of several entries of equal length. -/
theorem field_flatten_map {α : Type} {g : α → List Byte} {k : Nat} (hg : ∀ x, (g x).length = k) :
    ∀ (l : List α) (i : Nat) (x : α) (o n : Nat), l[i]? = some x → o + n ≤ k →
      field (l.map g).flatten (k * i + o) n = field (g x) o n
  | [], _, _, _, _, h, _ => by simp at h
  | y :: ys, 0, x, o, n, h, hk => by
    obtain rfl := Option.some.inj h
    rw [List.map_cons, List.flatten_cons, Nat.mul_zero, Nat.zero_add, field_append_left (by rw [hg]; exact hk)]
  | y :: ys, i + 1, x, o, n, h, hk => by
    rw [List.map_cons, List.flatten_cons, show k * (i + 1) + o = (g y).length + (k * i + o) by rw [hg, Nat.mul_succ]; omega,
      field_append_right]
    exact field_flatten_map hg ys i x o n h hk

/-! ### A section of 4-byte fields -/

theorem reportSection_length {n : Nat} {l : List Nat} (h : 4 * l.length ≤ n) : (reportSection n l).length = n := by
  unfold reportSection
  rw [List.length_append, List.length_replicate, length_flatten_map (toBytes_length 4)]
  omega

theorem reportSection_field {n i v : Nat} {l : List Nat} (h : l[i]? = some v) :
    field (reportSection n l) (4 * i) 4 = v % 4294967296 := by
  have hlen := length_flatten_map (toBytes_length 4) l
  have hi := (List.getElem?_eq_some_iff.1 h).1
  have hf := field_flatten_map (toBytes_length 4) l i v 0 4 h (by omega)
  unfold reportSection
  rw [field_append_left (by rw [hlen]; omega)]
  exact hf.trans (field_toBytes 4 v)

/-- The fields of a section that begins at an offset, each with its own. -/
def sectionFields (o : Nat) (l : List Nat) : List (Nat × Nat) := (l.zipIdx).map (fun x => (o + 4 * x.2, x.1))

theorem sectionFields_field {a c : List Byte} {n o : Nat} {l : List Nat} (ha : a.length = o) (h : 4 * l.length ≤ n) :
    ∀ x ∈ sectionFields o l, field (a ++ (reportSection n l ++ c)) x.1 4 = x.2 % 4294967296 := by
  intro x hx
  obtain ⟨⟨v, i⟩, hi, rfl⟩ := List.mem_map.1 hx
  have hget : l[i]? = some v := List.mem_zipIdx_iff_getElem?.1 hi
  have hlt := (List.getElem?_eq_some_iff.1 hget).1
  rw [field_middle ha (by rw [reportSection_length h]; omega)]
  exact reportSection_field hget

/-! ### The record's sections -/

theorem headHistoryBlock_length {h : Hcm} (hl : h.channels.length = 16) : (headHistoryBlock h).length = 64 := by
  have h1 := length_flatten_map (g := fun c : Channel => toBytes 2 c.score) (fun _ => toBytes_length 2 _) h.channels
  have h2 := length_flatten_map (g := fun c : Channel => toBytes 1 (if c.active then 0 else 1))
    (fun _ => toBytes_length 1 _) h.channels
  unfold headHistoryBlock
  simp only [List.length_append, h1, h2, hl, toBytes_length]

theorem frameEntry_length (f : Frame) : (frameEntry f).length = 8 := by
  unfold frameEntry
  simp only [List.length_append, toBytes_length]

theorem frameTable_length {fs : List Frame} (h : fs.length ≤ 128) : (frameTable fs).length = 1024 := by
  unfold frameTable
  rw [List.length_append, List.length_replicate, length_flatten_map frameEntry_length]
  omega

theorem identityWords_length (s : State) : (identityWords s).length = 2 := by
  unfold identityWords
  cases identityOf s <;> rfl

theorem generalFields_length (s : State) : (generalFields s).length = 16 := by
  unfold generalFields
  simp only [List.length_append, identityWords_length, List.length_cons, List.length_nil]

/-- The fields of the record, by its sections. -/
theorem reportFields_eq (s : State) : reportFields s =
    sectionFields 0 (generalFields s) ++ sectionFields 64 (motionFields s) ++ sectionFields 128 (storeFields s)
      ++ sectionFields 192 (speedFields s) ++ [(308, s.hcm.seconds), (312, s.hcm.bundles)]
      ++ sectionFields 320 (headFields s.hcm) ++ sectionFields 384 (counterFields s) := by
  have hdef : s.ord.deferred.map (fun d => fromZero d.2.code)
      = s.ord.deferred.map (fun d => match d.2 with | .rowFailure => 0 | .endOfMedia => 1) :=
    congrArg (fun f => s.ord.deferred.map f) (funext fun d => by cases d.2 <;> rfl)
  have hst : s.cml.stale.map (fun x => fromZero x.code)
      = s.cml.stale.map (fun x => match x with | .dirty => 0 | .inconsistent => 1 | .unreadable => 2) :=
    congrArg (fun f => s.cml.stale.map f) (funext fun x => by cases x <;> rfl)
  have hid : identityWords s = [((identityOf s).map (fun i => i.toNat % 4294967296)).getD 4294967295,
      ((identityOf s).map (fun i => i.toNat / 4294967296)).getD 4294967295] := by
    unfold identityWords
    cases identityOf s <;> rfl
  have hload : orAbsent (if s.cml.readable then s.cml.copy.map (fun c => c.loadCount) else none)
      = if s.cml.readable then (s.cml.copy.map (fun c => c.loadCount)).getD 4294967295 else 4294967295 := by
    split <;> rfl
  unfold generalFields
  rw [hdef, hst, hid, hload]
  rfl

/-! ### The head history block -/

theorem scoreBytes_length {h : Hcm} (hl : h.channels.length = 16) :
    (h.channels.map (fun c => toBytes 2 c.score)).flatten.length = 32 := by
  rw [length_flatten_map (g := fun c : Channel => toBytes 2 c.score) (fun _ => toBytes_length 2 _), hl]

theorem stateBytes_length {h : Hcm} (hl : h.channels.length = 16) :
    (h.channels.map (fun c => toBytes 1 (if c.active then 0 else 1))).flatten.length = 16 := by
  rw [length_flatten_map (g := fun c : Channel => toBytes 1 (if c.active then 0 else 1)) (fun _ => toBytes_length 1 _), hl]

theorem history_score {h : Hcm} (hl : h.channels.length = 16) {c : Nat} {x : Channel} (hx : h.channels[c]? = some x) :
    field (headHistoryBlock h) (2 * c) 2 = x.score % 65536 := by
  have hc := (List.getElem?_eq_some_iff.1 hx).1
  have hf := field_flatten_map (g := fun c : Channel => toBytes 2 c.score) (fun _ => toBytes_length 2 _) h.channels c x 0 2
    hx (Nat.le_refl 2)
  unfold headHistoryBlock
  simp only [List.append_assoc]
  rw [field_append_left (by rw [scoreBytes_length hl]; omega)]
  exact hf.trans (field_toBytes 2 x.score)

theorem history_state {h : Hcm} (hl : h.channels.length = 16) {c : Nat} {x : Channel} (hx : h.channels[c]? = some x) :
    field (headHistoryBlock h) (32 + c) 1 = if x.active then 0 else 1 := by
  have hc := (List.getElem?_eq_some_iff.1 hx).1
  have hf := field_flatten_map (g := fun c : Channel => toBytes 1 (if c.active then 0 else 1)) (fun _ => toBytes_length 1 _)
    h.channels c x 0 1 hx (Nat.le_refl 1)
  unfold headHistoryBlock
  simp only [List.append_assoc]
  rw [field_middle (scoreBytes_length hl) (by rw [stateBytes_length hl]; omega)]
  rw [Nat.one_mul, Nat.add_zero] at hf
  refine hf.trans ((field_toBytes 1 _).trans ?_)
  split <;> rfl

/-- What follows the channels in a head history block. -/
def historyTail (h : Hcm) : List Byte :=
  toBytes 1 h.call.code ++ toBytes 1 h.worn.toNat ++ toBytes 1 h.fence.toNat ++ toBytes 1 0
    ++ toBytes 4 h.seconds ++ toBytes 4 h.bundles ++ toBytes 4 0

theorem history_tail {h : Hcm} (hl : h.channels.length = 16) (o n : Nat) :
    field (headHistoryBlock h) (48 + o) n = field (historyTail h) o n := by
  have hlen : ((h.channels.map (fun c => toBytes 2 c.score)).flatten
      ++ (h.channels.map (fun c => toBytes 1 (if c.active then 0 else 1))).flatten).length = 48 := by
    rw [List.length_append, scoreBytes_length hl, stateBytes_length hl]
  have hb : headHistoryBlock h = ((h.channels.map (fun c => toBytes 2 c.score)).flatten
      ++ (h.channels.map (fun c => toBytes 1 (if c.active then 0 else 1))).flatten) ++ historyTail h := by
    unfold headHistoryBlock historyTail
    simp only [List.append_assoc]
  rw [hb, ← hlen, field_append_right]

theorem historyTail_fields (h : Hcm) : field (historyTail h) 0 1 = h.call.code ∧ field (historyTail h) 1 1 = h.worn.toNat
    ∧ field (historyTail h) 2 1 = h.fence.toNat ∧ field (historyTail h) 4 4 = h.seconds % 4294967296
    ∧ field (historyTail h) 8 4 = h.bundles % 4294967296 := by
  have hl := toBytes_length
  have hbit : ∀ b : Bool, b.toNat % 256 ^ 1 = b.toNat := fun b => by cases b <;> rfl
  have hcall : h.call.code % 256 ^ 1 = h.call.code := by cases h.call <;> rfl
  unfold historyTail
  simp only [List.append_assoc]
  refine ⟨?_, ?_, ?_, ?_, ?_⟩
  · rw [field_append_left (by rw [hl]), field_toBytes, hcall]
  · rw [field_middle (o := 0) (k := 1) (hl 1 _) (by rw [hl]), field_toBytes, hbit]
  · rw [← List.append_assoc, field_middle (o := 0) (k := 2) (by rw [List.length_append, hl, hl]) (by rw [hl]),
      field_toBytes, hbit]
  · rw [← List.append_assoc, ← List.append_assoc, ← List.append_assoc,
      field_middle (o := 0) (k := 4) (by simp only [List.length_append, hl]) (by rw [hl]), field_toBytes]
    rfl
  · rw [← List.append_assoc, ← List.append_assoc, ← List.append_assoc, ← List.append_assoc,
      field_middle (o := 0) (k := 8) (by simp only [List.length_append, hl]) (by rw [hl]), field_toBytes]
    rfl

/-! ### The frame table -/

theorem frameEntry_fields (f : Frame) : field (frameEntry f) 0 1 = f.state.code
    ∧ field (frameEntry f) 1 1 = f.copy.getD 255 % 256
    ∧ field (frameEntry f) 4 4 = f.bundle.getD 4294967295 % 4294967296 := by
  have hl := toBytes_length
  have hcode : f.state.code % 256 ^ 1 = f.state.code := by cases f.state <;> rfl
  unfold frameEntry
  simp only [List.append_assoc]
  refine ⟨?_, ?_, ?_⟩
  · rw [field_append_left (by rw [hl]), field_toBytes, hcode]
  · rw [field_middle (o := 0) (k := 1) (hl 1 _) (by rw [hl]), field_toBytes, Nat.pow_one]
  · rw [← List.append_assoc, ← List.append_assoc, field_end (o := 0) (k := 4) (by simp only [List.length_append, hl]),
      field_toBytes]
    rfl

theorem frameTable_field {fs : List Frame} {i : Nat} {f : Frame} {o n : Nat} (h : fs[i]? = some f) (ho : o + n ≤ 8) :
    field (frameTable fs) (8 * i + o) n = field (frameEntry f) o n := by
  have hlt := (List.getElem?_eq_some_iff.1 h).1
  unfold frameTable
  rw [field_append_left (by rw [length_flatten_map frameEntry_length]; omega)]
  exact field_flatten_map frameEntry_length fs i f o n h ho

theorem field_zeros (m o n : Nat) : field (List.replicate m 0) o n = 0 := by
  have hz : ∀ k, fromBytes (List.replicate k (0 : Byte)) = 0 := fun k => by
    induction k with
    | zero => rfl
    | succ k ih => rw [List.replicate_succ, fromBytes, ih]; rfl
  unfold field
  rw [List.drop_replicate, List.take_replicate, hz]

theorem frameTable_rest {fs : List Frame} {i : Nat} (h : fs.length ≤ i) : field (frameTable fs) (8 * i) 8 = 0 := by
  unfold frameTable
  dsimp only
  rw [show 8 * i = 8 * fs.length + (8 * i - 8 * fs.length) by omega,
    field_end (length_flatten_map frameEntry_length fs), field_zeros]

/-! ### The record -/

theorem reportRecord_eq (s : State) : reportRecord s = reportSection 64 (generalFields s) ++ (reportSection 64 (motionFields s)
    ++ (reportSection 64 (storeFields s) ++ (reportSection 64 (speedFields s) ++ (headHistoryBlock s.hcm
      ++ (reportSection 64 (headFields s.hcm) ++ (reportSection 128 (counterFields s) ++ frameTable s.bsm.frames)))))) := by
  unfold reportRecord
  simp only [List.append_assoc]

theorem generalSection_length (s : State) : (reportSection 64 (generalFields s)).length = 64 :=
  reportSection_length (by rw [generalFields_length])

theorem motionSection_length (s : State) : (reportSection 64 (motionFields s)).length = 64 :=
  reportSection_length (by decide : 4 * 13 ≤ 64)

theorem storeSection_length (s : State) : (reportSection 64 (storeFields s)).length = 64 :=
  reportSection_length (by decide : 4 * 14 ≤ 64)

theorem speedSection_length (s : State) : (reportSection 64 (speedFields s)).length = 64 :=
  reportSection_length (by decide : 4 * 7 ≤ 64)

theorem headSection_length (s : State) : (reportSection 64 (headFields s.hcm)).length = 64 :=
  reportSection_length (by decide : 4 * 10 ≤ 64)

theorem counterSection_length (s : State) : (reportSection 128 (counterFields s)).length = 128 :=
  reportSection_length (by decide : 4 * 29 ≤ 128)

/-- The record's bytes before the head history block, and after it. -/
def reportFront (s : State) : List Byte := reportSection 64 (generalFields s) ++ (reportSection 64 (motionFields s)
  ++ (reportSection 64 (storeFields s) ++ reportSection 64 (speedFields s)))

def reportBack (s : State) : List Byte :=
  reportSection 64 (headFields s.hcm) ++ (reportSection 128 (counterFields s) ++ frameTable s.bsm.frames)

theorem reportRecord_split (s : State) : reportRecord s = reportFront s ++ (headHistoryBlock s.hcm ++ reportBack s) := by
  rw [reportRecord_eq]
  unfold reportFront reportBack
  simp only [List.append_assoc]

theorem reportFront_length (s : State) : (reportFront s).length = 256 := by
  unfold reportFront
  simp only [List.length_append, generalSection_length, motionSection_length, storeSection_length, speedSection_length]

theorem reportRecord_history {o n : Nat} (hl : s.hcm.channels.length = 16) (h : o + n ≤ 64) :
    field (reportRecord s) (256 + o) n = field (headHistoryBlock s.hcm) o n := by
  rw [reportRecord_split, field_middle (reportFront_length s) (by rw [headHistoryBlock_length hl]; exact h)]

theorem reportRecord_frames (hl : s.hcm.channels.length = 16) (o n : Nat) :
    field (reportRecord s) (512 + o) n = field (frameTable s.bsm.frames) o n := by
  have hs : reportRecord s = (reportFront s ++ headHistoryBlock s.hcm ++ reportSection 64 (headFields s.hcm)
      ++ reportSection 128 (counterFields s)) ++ frameTable s.bsm.frames := by
    rw [reportRecord_split, reportBack]
    simp only [List.append_assoc]
  rw [hs, field_end (by
    simp only [List.length_append, reportFront_length, headHistoryBlock_length hl, headSection_length, counterSection_length])]

/-- Every 4-byte field of the layout. -/
theorem reportRecord_fields (hl : s.hcm.channels.length = 16) :
    ∀ x ∈ reportFields s, field (reportRecord s) x.1 4 = x.2 % 4294967296 := by
  have hhist : (headHistoryBlock s.hcm).length = 64 := headHistoryBlock_length hl
  have hg := generalSection_length s
  have hm := motionSection_length s
  have hst := storeSection_length s
  have hsp := speedSection_length s
  have hh := headSection_length s
  have heq := reportRecord_eq s
  obtain ⟨-, -, -, hsec, hbun⟩ := historyTail_fields s.hcm
  intro x hx
  rw [reportFields_eq] at hx
  simp only [List.mem_append] at hx
  rcases hx with (((((hx | hx) | hx) | hx) | hx) | hx) | hx
  · rw [heq]
    exact sectionFields_field (a := []) rfl (by rw [generalFields_length]) x hx
  · rw [heq]
    exact sectionFields_field hg (by decide : 4 * 13 ≤ 64) x hx
  · rw [heq, ← List.append_assoc]
    exact sectionFields_field (by rw [List.length_append, hg, hm]) (by decide : 4 * 14 ≤ 64) x hx
  · rw [heq, ← List.append_assoc, ← List.append_assoc]
    exact sectionFields_field (by rw [List.length_append, List.length_append, hg, hm, hst]) (by decide : 4 * 7 ≤ 64) x hx
  · simp only [List.mem_cons, List.not_mem_nil, or_false] at hx
    rcases hx with rfl | rfl
    · rw [show (308 : Nat) = 256 + 52 from rfl, reportRecord_history hl (by decide)]
      exact (history_tail hl 4 4).trans hsec
    · rw [show (312 : Nat) = 256 + 56 from rfl, reportRecord_history hl (by decide)]
      exact (history_tail hl 8 4).trans hbun
  · rw [reportRecord_split, reportBack, ← List.append_assoc]
    exact sectionFields_field (by rw [List.length_append, reportFront_length, hhist]) (by decide : 4 * 10 ≤ 64) x hx
  · rw [reportRecord_split, reportBack, ← List.append_assoc, ← List.append_assoc]
    exact sectionFields_field (by rw [List.length_append, List.length_append, reportFront_length, hhist, hh])
      (by decide : 4 * 29 ≤ 128) x hx

/-- The record of 10.9.7 as the statement reads it. -/
theorem reportRecord_holds (hl : s.hcm.channels.length = 16) (hf : s.bsm.frames.length ≤ 128) :
    ReportHolds (reportRecord s) s := by
  have channel : ∀ c, c < 16 → ∃ x, s.hcm.channels[c]? = some x := fun c hc =>
    ⟨_, List.getElem?_eq_getElem (by rw [hl]; exact hc)⟩
  obtain ⟨hcall, hworn, hfence, -, -⟩ := historyTail_fields s.hcm
  refine ⟨?_, reportRecord_fields hl, fun c hc => ?_, fun c hc => ?_, ?_, ⟨?_, ?_⟩, fun i f hi => ?_, fun i hi _ => ?_⟩
  · rw [reportRecord_split, reportBack]
    simp only [List.length_append, reportFront_length, headHistoryBlock_length hl, headSection_length, counterSection_length,
      frameTable_length hf]
  · obtain ⟨x, hx⟩ := channel c hc
    rw [reportRecord_history hl (by omega), history_score hl hx, List.getD_eq_getElem?_getD, List.getElem?_map, hx]
    rfl
  · obtain ⟨x, hx⟩ := channel c hc
    rw [show 288 + c = 256 + (32 + c) by omega, reportRecord_history hl (by omega), history_state hl hx,
      List.getD_eq_getElem?_getD, List.getElem?_map, hx]
    rfl
  · rw [show (304 : Nat) = 256 + (48 + 0) from rfl, reportRecord_history hl (by decide), history_tail hl, hcall]
    cases s.hcm.call <;> rfl
  · rw [show (305 : Nat) = 256 + (48 + 1) from rfl, reportRecord_history hl (by decide), history_tail hl, hworn]
  · rw [show (306 : Nat) = 256 + (48 + 2) from rfl, reportRecord_history hl (by decide), history_tail hl, hfence]
  · obtain ⟨h1, h2, h3⟩ := frameEntry_fields f
    refine ⟨?_, ?_, ?_⟩
    · rw [show 512 + 8 * i = 512 + (8 * i + 0) by omega, reportRecord_frames hl, frameTable_field hi (by decide), h1]
    · rw [show 513 + 8 * i = 512 + (8 * i + 1) by omega, reportRecord_frames hl, frameTable_field hi (by decide), h2]
    · rw [show 516 + 8 * i = 512 + (8 * i + 4) by omega, reportRecord_frames hl, frameTable_field hi (by decide), h3]
  · rw [reportRecord_frames hl, frameTable_rest hi]

/-! ### The order -/

theorem resultFlags_report (hk : takenKind s = some .report) (d c : Bool) :
    resultFlags s false d c = (if d then 4 else 0) + (if c then 8 else 0) := by
  have hb : ewBit s = 0 := by
    unfold ewBit takenWrites
    rw [hk, show (decide (some Kind.report = some .write) || decide (some Kind.report = some .mark)
      || decide (some Kind.report = some .flush)) = false from rfl, Bool.and_false]
    rfl
  unfold resultFlags
  rw [hb]
  simp

/-- The REPORT's stage, and the time of its taking. -/
def reporting (s : State) : State := { s with ord.stage := .reporting, ord.reportTime := s.timebase }

/-- The write of a record raised by a REPORT. -/
def recordWrite (r : OrderRec) (bytes : List Byte) : Transfer := ⟨.exu, .reportRecord, true, bodyField r 16 4, 1536, bytes⟩

/-- A REPORT's write raised, in a calm state with the counters of any kind: its first burst follows alone. -/
theorem finish_reporting {r : OrderRec} {u : State} {bytes : List Byte} (hc : Calm u) (hp : portAtRest u)
    (hk : takenKind u = some .report) :
    finish { reporting u with marb.transfers := [recordWrite r bytes] } = portServes (recordWrite r bytes) (reporting u) := by
  have hk' : takenKind { reporting u with marb.transfers := [recordWrite r bytes] } = some .report := hk
  have hcalm : Calm { reporting u with marb.transfers := [recordWrite r bytes] } :=
    hc.ordered hc.sig hc.fmt ⟨hc.rdc.1, .inl (hc.noRow hp)⟩ rfl (.inl rfl) (delivering_ne hk' (by decide))
      (cmlAtRest_ne hk' (by decide) (by decide))
  exact finish_single hcalm rfl hp.2.1 hp.2.2 rfl

theorem Calm.cleared (h : Calm s) : Calm (clearCounters s) := ⟨h.sig, h.fmt, h.rdc, h.dcp, h.cml⟩

theorem beginReport_eq {r : OrderRec} {bytes : List Byte} (hp : portAtRest s) (hb : reportRecord s = bytes)
    (hlen : bytes.length = 1536) : beginReport r s = if r.clear then
        { reporting (clearCounters s) with marb.transfers := [recordWrite r bytes] }
      else { reporting s with marb.transfers := [recordWrite r bytes] } := by
  have hraise : raiseWrite .exu .reportRecord (reportExtent r).start bytes
      { setStage .reporting s with ord.reportTime := s.timebase } = { reporting s with marb.transfers := [recordWrite r bytes] } := by
    unfold raiseWrite
    rw [hlen]
    exact addTransfer_rest (x := { setStage .reporting s with ord.reportTime := s.timebase }) hp.1 _
  unfold beginReport
  dsimp only
  rw [hb, hraise]
  rfl

/-- Settles O38: the record of 10.9.7 holds every field at its offset, and the order ends with its last byte. -/
theorem reportBegins : Obligations.ReportBegins := by
  intro r s hc
  refine ⟨fun h hp hs hf => ?_, fun a n bytes hr hk hst hn ha ht hb h1 hw => ?_⟩
  · have hholds := reportRecord_holds hs.1 hf
    have hkind := h.toOrderTaken.kindOf
    obtain ⟨bytes, hbytes⟩ : ∃ bytes, reportRecord s = bytes := ⟨_, rfl⟩
    rw [hbytes] at hholds
    have hexec : exec .report s = .next (finish (beginReport r s)) := exec_passes h
    rw [beginReport_eq hp hbytes hholds.length] at hexec
    by_cases hclear : r.clear = true
    · rw [if_pos hclear, finish_reporting hc.cleared hp hkind] at hexec
      exact ⟨bytes, clearCounters s, hholds, hexec, fun hno => absurd (hno.symm.trans hclear) Bool.false_ne_true,
        fun _ => ⟨rfl, rfl⟩⟩
    · rw [if_neg hclear, finish_reporting hc hp hkind] at hexec
      exact ⟨bytes, s, hholds, hexec, fun _ => rfl, fun hyes => absurd hyes hclear⟩
  · obtain ⟨m, hm⟩ : ∃ m, m = memWriteN s.mem a (bytes.take n) := ⟨_, rfl⟩
    have hexec : exec .burstDone s = .next (finish (reportWritten (burstOver m s))) := by
      rw [exec_lastWrite ht hb h1, ← hm]
      rfl
    have hkind : takenKind (burstOver m s) = some .report := by
      unfold takenKind
      rw [show (burstOver m s).ord.record = some r from hr]
      exact hk
    have hat : atStage (burstOver m s) .report .reporting = true := by
      unfold atStage
      rw [hkind, show (burstOver m s).ord.stage = .reporting from hst]
      rfl
    have hclear : Bool.toNat r.clear = if r.clear then 1 else 0 := by cases r.clear <;> rfl
    have hwritten : reportWritten (burstOver m s) = finishActive ⟨.ok, .none, if s.ord.discardSeen then 4 else 0, 1536,
        s.ord.position, s.ord.reportTime.toNat, if r.clear then 1 else 0, []⟩ (burstOver m s) := by
      unfold reportWritten
      rw [if_pos hat, resultFlags_report hkind, show (burstOver m s).ord.record = some r from hr, ← hclear]
      rfl
    have hcalm := hc.burstOver (transferInHand_single ht nofun) m
    rw [hexec, hwritten, hcalm.finish_completed ⟨rfl, rfl, hw⟩ hn ha, hm]
    rfl

end Sys2Proof.Machine
end

section
/-! SUPPORT. The structural checks of a setup record (R162), as they are stated, and the refusal of a record at fault. -/

namespace Sys2Proof.Machine

variable {s : State}

/-! ### The record read -/

/-- A field of the head history block, which lies at 128 in the record. -/
theorem field_history (b : List Byte) {o n : Nat} (h : o + n ≤ 64) :
    field ((b.drop 128).take 64) o n = field b (128 + o) n := by
  unfold field
  rw [List.drop_take, List.drop_drop, List.take_take, Nat.min_eq_left (by omega)]

theorem setup_speeds (b : List Byte) :
    ((readSetup b).tunables.drop 13).map clampSpeed = (List.range 6).map (setupSpeed b) := rfl

theorem history_states (b : List Byte) :
    (readHistory ((b.drop 128).take 64)).states = (List.range 16).map (setupChannel b) := by
  unfold readHistory
  refine List.map_congr_left fun c hc => ?_
  have := List.mem_range.1 hc
  rw [field_history b (by omega), show 128 + (32 + c) = 160 + c by omega]
  rfl

theorem history_scores (b : List Byte) :
    (readHistory ((b.drop 128).take 64)).scores = (List.range 16).map (fun c => field b (128 + 2 * c) 2) := by
  unfold readHistory
  refine List.map_congr_left fun c hc => ?_
  have := List.mem_range.1 hc
  rw [field_history b (by omega)]

/-! ### The speed table -/

theorem firstNotAscending_some : ∀ (l : List Nat) (k i : Nat), firstNotAscending k l = some i →
    ∃ j, i = k + j + 1 ∧ j + 1 < l.length ∧ l.getD (j + 1) 0 ≤ l.getD j 0 ∧ ∀ m, m < j → l.getD m 0 < l.getD (m + 1) 0
  | [], _, _, h => by simp [firstNotAscending] at h
  | [x], _, _, h => by simp [firstNotAscending] at h
  | x :: y :: rest, k, i, h => by
    unfold firstNotAscending at h
    by_cases hxy : x < y
    · rw [if_pos hxy] at h
      obtain ⟨j, hi, hlt, hle, hbelow⟩ := firstNotAscending_some (y :: rest) (k + 1) i h
      refine ⟨j + 1, by omega, by simpa using hlt, hle, fun m hm => ?_⟩
      cases m with
      | zero => exact hxy
      | succ m => exact hbelow m (by omega)
    · rw [if_neg hxy] at h
      obtain rfl := Option.some.inj h
      exact ⟨0, rfl, by simp, by simpa using hxy, fun m hm => absurd hm (Nat.not_lt_zero m)⟩

theorem speeds_getD (b : List Byte) {j : Nat} (h : j < 6) : ((List.range 6).map (setupSpeed b)).getD j 0 = setupSpeed b j := by
  rw [List.getD_eq_getElem?_getD, List.getElem?_map, List.getElem?_range h]
  rfl

/-! ### Each check by its number -/

theorem checkFails_base (a : Nat) (b : List Byte) : CheckFails a b 3 ↔
    field b 12 4 % 4096 ≠ 0 ∨ 1073741824 < field b 12 4 + field b 16 4 * 1114112
      ∨ ∃ x, field b 12 4 ≤ x ∧ x < field b 12 4 + field b 16 4 * 1114112 ∧ a ≤ x ∧ x < a + 8192 := by
  unfold CheckFails
  simp

theorem checkFails_frames (a : Nat) (b : List Byte) : CheckFails a b 4 ↔ field b 16 4 < 8 ∨ 128 < field b 16 4 := by
  unfold CheckFails
  simp

theorem checkFails_speed (a : Nat) (b : List Byte) {j : Nat} (h : j < 5) :
    CheckFails a b (19 + j) ↔ setupSpeed b (j + 1) ≤ setupSpeed b j := by
  have h1 : 19 + j - 18 = j + 1 := by omega
  have h2 : 19 + j - 19 = j := by omega
  unfold CheckFails
  rw [h1, h2]
  constructor
  · rintro (⟨hn, -⟩ | ⟨hn, -⟩ | ⟨-, -, hle⟩ | ⟨-, ⟨hn, -⟩ | ⟨hn, -⟩ | ⟨hn, -⟩ | ⟨hn, -⟩⟩)
    · omega
    · omega
    · exact hle
    all_goals omega
  · exact fun hle => .inr (.inr (.inl ⟨by omega, by omega, hle⟩))

theorem checkFails_states (a : Nat) (b : List Byte) : CheckFails a b 26 ↔
    field b 96 4 ≠ 0 ∧ ((∃ c, c < 16 ∧ 1 < setupChannel b c) ∨ 4 < setupRetired b) := by
  unfold CheckFails
  simp

theorem checkFails_call (a : Nat) (b : List Byte) : CheckFails a b 27 ↔ field b 96 4 ≠ 0 ∧ 2 < field b 176 1 := by
  unfold CheckFails
  simp

theorem checkFails_worn (a : Nat) (b : List Byte) : CheckFails a b 28 ↔ field b 96 4 ≠ 0 ∧ 1 < field b 177 1 := by
  unfold CheckFails
  simp

theorem checkFails_fence (a : Nat) (b : List Byte) : CheckFails a b 29 ↔
    field b 96 4 ≠ 0 ∧ (1 < field b 178 1 ∨ (field b 178 1 = 1 ∧ setupRetired b < 4)) := by
  unfold CheckFails
  simp

/-- The numbers that a check names. -/
theorem checkFails_number {a n : Nat} {b : List Byte} (h : CheckFails a b n) :
    n = 3 ∨ n = 4 ∨ (∃ j, j < 5 ∧ n = 19 + j) ∨ n = 26 ∨ n = 27 ∨ n = 28 ∨ n = 29 := by
  rcases h with ⟨h, -⟩ | ⟨h, -⟩ | ⟨h1, h2, -⟩ | ⟨-, ⟨h, -⟩ | ⟨h, -⟩ | ⟨h, -⟩ | ⟨h, -⟩⟩
  · exact .inl h
  · exact .inr (.inl h)
  · exact .inr (.inr (.inl ⟨n - 19, by omega, by omega⟩))
  · exact .inr (.inr (.inr (.inl h)))
  · exact .inr (.inr (.inr (.inr (.inl h))))
  · exact .inr (.inr (.inr (.inr (.inr (.inl h)))))
  · exact .inr (.inr (.inr (.inr (.inr (.inr h)))))

/-! ### The checks in their order -/

/-- The first check that fails, or none. -/
def FaultFound (a : Nat) (b : List Byte) : Option Nat → Prop
  | some n => SetupAtFault a b n
  | none => ∀ n, ¬CheckFails a b n

/-- A check that fails, none of a lower number failing. -/
theorem SetupAtFault.unique {a n m : Nat} {b : List Byte} (h : SetupAtFault a b n) (k : SetupAtFault a b m) : n = m :=
  Nat.le_antisymm (Nat.not_lt.1 fun hlt => h.2 m hlt k.1) (Nat.not_lt.1 fun hlt => k.2 n hlt h.1)

/-- The first check that fails has the lowest number. -/
theorem setupAtFault_of {a n : Nat} {b : List Byte} (h : CheckFails a b n) (h3 : n ≠ 3 → ¬CheckFails a b 3)
    (h4 : n ≠ 3 → n ≠ 4 → ¬CheckFails a b 4) (hs : ∀ j, j < 5 → 19 + j < n → ¬CheckFails a b (19 + j))
    (h26 : 26 < n → ¬CheckFails a b 26) (h27 : 27 < n → ¬CheckFails a b 27) (h28 : 28 < n → ¬CheckFails a b 28) :
    SetupAtFault a b n := by
  refine ⟨h, fun m hm hf => ?_⟩
  rcases checkFails_number hf with rfl | rfl | ⟨j, hj, rfl⟩ | rfl | rfl | rfl | rfl
  · exact h3 (by omega) hf
  · exact h4 (by omega) (by omega) hf
  · exact hs j hj hm hf
  · exact h26 hm hf
  · exact h27 hm hf
  · exact h28 hm hf
  · rcases checkFails_number h with rfl | rfl | ⟨j, hj, rfl⟩ | rfl | rfl | rfl | rfl <;> omega

theorem history_retired (b : List Byte) :
    ((readHistory ((b.drop 128).take 64)).states.filter (fun x => x = 1)).length = setupRetired b := by
  rw [history_states, List.filter_map, List.length_map]
  rfl

theorem history_states_any (b : List Byte) :
    (readHistory ((b.drop 128).take 64)).states.any (fun x => 1 < x) = true ↔ ∃ c, c < 16 ∧ 1 < setupChannel b c := by
  rw [history_states, List.any_map, List.any_eq_true]
  simp only [List.mem_range, Function.comp, decide_eq_true_eq]

theorem history_bytes (b : List Byte) : (readHistory ((b.drop 128).take 64)).call = field b 176 1
    ∧ (readHistory ((b.drop 128).take 64)).worn = field b 177 1 ∧ (readHistory ((b.drop 128).take 64)).fence = field b 178 1
    ∧ (readHistory ((b.drop 128).take 64)).seconds = field b 180 4
    ∧ (readHistory ((b.drop 128).take 64)).bundles = field b 184 4 :=
  ⟨field_history b (by decide), field_history b (by decide), field_history b (by decide), field_history b (by decide),
    field_history b (by decide)⟩

/-- The checks of the head history block, the earlier ones having passed. -/
theorem historyFault_found {a : Nat} {b : List Byte} (hp : field b 96 4 ≠ 0) (h3 : ¬CheckFails a b 3)
    (h4 : ¬CheckFails a b 4) (hs : ∀ j, j < 5 → ¬CheckFails a b (19 + j)) :
    FaultFound a b (historyFault (readHistory ((b.drop 128).take 64))) := by
  obtain ⟨hcall, hworn, hfence, -, -⟩ := history_bytes b
  have at' : ∀ n, CheckFails a b n → (26 < n → ¬CheckFails a b 26) → (27 < n → ¬CheckFails a b 27) →
      (28 < n → ¬CheckFails a b 28) → SetupAtFault a b n := fun n h =>
    setupAtFault_of h (fun _ => h3) (fun _ _ => h4) (fun j hj _ => hs j hj)
  unfold historyFault
  dsimp only
  rw [history_retired, hcall, hworn, hfence]
  by_cases h1 : ∃ c, c < 16 ∧ 1 < setupChannel b c
  · rw [if_pos ((history_states_any b).2 h1)]
    exact at' 26 ((checkFails_states a b).2 ⟨hp, .inl h1⟩) (by omega) (by omega) (by omega)
  · rw [if_neg (fun h => h1 ((history_states_any b).1 h))]
    by_cases h2 : 4 < setupRetired b
    · rw [if_pos h2]
      exact at' 26 ((checkFails_states a b).2 ⟨hp, .inr h2⟩) (by omega) (by omega) (by omega)
    · rw [if_neg h2]
      have h26 : ¬CheckFails a b 26 := fun h => (((checkFails_states a b).1 h).2).elim h1 h2
      by_cases hc : 2 < field b 176 1
      · rw [if_pos hc]
        exact at' 27 ((checkFails_call a b).2 ⟨hp, hc⟩) (fun _ => h26) (by omega) (by omega)
      · rw [if_neg hc]
        have h27 : ¬CheckFails a b 27 := fun h => hc ((checkFails_call a b).1 h).2
        by_cases hw : 1 < field b 177 1
        · rw [if_pos hw]
          exact at' 28 ((checkFails_worn a b).2 ⟨hp, hw⟩) (fun _ => h26) (fun _ => h27) (by omega)
        · rw [if_neg hw]
          have h28 : ¬CheckFails a b 28 := fun h => hw ((checkFails_worn a b).1 h).2
          by_cases hf : 1 < field b 178 1
          · rw [if_pos hf]
            exact at' 29 ((checkFails_fence a b).2 ⟨hp, .inl hf⟩) (fun _ => h26) (fun _ => h27) (fun _ => h28)
          · rw [if_neg hf]
            by_cases hr : field b 178 1 = 1 ∧ setupRetired b < 4
            · rw [if_pos (by simp [hr.1, hr.2])]
              exact at' 29 ((checkFails_fence a b).2 ⟨hp, .inr hr⟩) (fun _ => h26) (fun _ => h27) (fun _ => h28)
            · rw [if_neg (by simpa using hr)]
              have h29 : ¬CheckFails a b 29 := fun h => (((checkFails_fence a b).1 h).2).elim hf hr
              intro n hn
              rcases checkFails_number hn with rfl | rfl | ⟨j, hj, rfl⟩ | rfl | rfl | rfl | rfl
              · exact h3 hn
              · exact h4 hn
              · exact hs j hj hn
              · exact h26 hn
              · exact h27 hn
              · exact h28 hn
              · exact h29 hn

/-- The structural checks find the first that fails. -/
theorem setupFault_found (a : Nat) (b : List Byte) : FaultFound a b (setupFault a (readSetup b)) := by
  have hbase : ((decide ((readSetup b).storeBase % 4096 ≠ 0) || decide (memoryBytes < (readSetup b).storeBase
      + (readSetup b).frames * frameBytes))
      || overlaps (readSetup b).storeBase ((readSetup b).frames * frameBytes) a exchangeBytes) = true ↔ CheckFails a b 3 := by
    rw [checkFails_base, Bool.or_eq_true, Bool.or_eq_true, decide_eq_true_iff, decide_eq_true_iff, overlaps_iff, or_assoc]
    rfl
  have hframes : (decide ((readSetup b).frames < 8) || decide (128 < (readSetup b).frames)) = true ↔ CheckFails a b 4 := by
    rw [checkFails_frames, Bool.or_eq_true, decide_eq_true_iff, decide_eq_true_iff]
    rfl
  unfold setupFault
  dsimp only
  by_cases h3 : CheckFails a b 3
  · rw [if_pos (hbase.2 h3)]
    exact setupAtFault_of h3 (fun h => absurd rfl h) (fun h => absurd rfl h) (by omega) (by omega) (by omega) (by omega)
  · rw [if_neg (fun h => h3 (hbase.1 h))]
    by_cases h4 : CheckFails a b 4
    · rw [if_pos (hframes.2 h4)]
      exact setupAtFault_of h4 (fun _ => h3) (fun _ h => absurd rfl h) (by omega) (by omega) (by omega) (by omega)
    · rw [if_neg (fun h => h4 (hframes.1 h)), setup_speeds]
      cases hasc : firstNotAscending 0 ((List.range 6).map (setupSpeed b)) with
      | some i =>
        obtain ⟨j, hi, hlt, hle, hbelow⟩ := firstNotAscending_some _ _ _ hasc
        rw [List.length_map, List.length_range] at hlt
        rw [speeds_getD b hlt, speeds_getD b (by omega)] at hle
        have hnum : 18 + i = 19 + j := by omega
        dsimp only
        rw [hnum]
        refine setupAtFault_of ((checkFails_speed a b (by omega)).2 hle) (fun _ => h3) (fun _ _ => h4) (fun m hm hlt' => ?_)
          (by omega) (by omega) (by omega)
        have hm' := hbelow m (by omega)
        rw [speeds_getD b (by omega), speeds_getD b (by omega)] at hm'
        rw [checkFails_speed a b hm]
        omega
      | none =>
        have hs : ∀ j, j < 5 → ¬CheckFails a b (19 + j) := fun j hj => by
          have h := firstNotAscending_none _ _ hasc j (by rw [List.length_map, List.length_range]; omega)
          rw [speeds_getD b (by omega), speeds_getD b (by omega)] at h
          rw [checkFails_speed a b hj]
          omega
        by_cases hp : field b 96 4 = 0
        · have hnone : (readSetup b).history = none := if_pos hp
          rw [hnone]
          intro n hn
          rcases checkFails_number hn with rfl | rfl | ⟨j, hj, rfl⟩ | rfl | rfl | rfl | rfl
          · exact h3 hn
          · exact h4 hn
          · exact hs j hj hn
          · exact ((checkFails_states a b).1 hn).1 hp
          · exact ((checkFails_call a b).1 hn).1 hp
          · exact ((checkFails_worn a b).1 hn).1 hp
          · exact ((checkFails_fence a b).1 hn).1 hp
        · have hsome : (readSetup b).history = some (readHistory ((b.drop 128).take 64)) := if_neg hp
          rw [hsome]
          exact historyFault_found hp h3 h4 hs

theorem setupFault_some {a n : Nat} {b : List Byte} (h : SetupAtFault a b n) : setupFault a (readSetup b) = some n := by
  have hf := setupFault_found a b
  cases hs : setupFault a (readSetup b) with
  | none =>
    rw [hs] at hf
    exact absurd h.1 (hf n)
  | some m =>
    rw [hs] at hf
    rw [h.unique hf]

theorem setupFault_none {a : Nat} {b : List Byte} (h : ∀ n, ¬CheckFails a b n) : setupFault a (readSetup b) = none := by
  have hf := setupFault_found a b
  cases hs : setupFault a (readSetup b) with
  | none => rfl
  | some m =>
    rw [hs] at hf
    exact absurd hf.1 (h m)

/-! ### The refusal -/

theorem exec_setupRecordRead_bad {a n : Nat} {b : List Byte} (hb : s.exu.binding = some ⟨a, some b⟩)
    (h : SetupAtFault a b n) : exec .setupRecordRead s = .next (setupBad a n s) := by
  change execSetupRecordRead s = _
  unfold execSetupRecordRead
  rw [hb]
  dsimp only
  rw [setupFault_some h]

/-- The access that writes a binding's outcome, alone at a port at rest, is done at once. -/
theorem serveFree_outcome (hp : portAtRest s) (a : Nat) (o : BindOutcome) :
    serveFree { s with exu.work := [.outcome a o] } = writeOutcome a o (recordExuGrant { s with exu.work := [] }) := by
  have hfree : portFree { s with exu.work := [.outcome a o] } = true := portFree_rest (s := s) hp
  rw [serveFree_step hfree rfl]
  have hnone : (perform (.outcome a o) (recordExuGrant { s with exu.work := [] })).exu.work = [] := by cases o <;> rfl
  exact serveFree_none hnone

/-- A record refused at a port at rest: its outcome is written at once, and the binding is over. -/
theorem setupBad_rest {a n : Nat} (hp : portAtRest s) : setupBad a n s = { recordExuGrant s with
    mem := memWriteN s.mem a (outcomeBytes (.setupBad n)), exu := { s.exu with outcome := .setupBad n, binding := none } } := by
  have h := serveFree_outcome (s := { s with exu.binding := some ⟨a, none⟩ }) hp a (.setupBad n)
  unfold setupBad queueWork
  dsimp only
  rw [hp.2.2, List.nil_append, h, ← hp.2.2]
  rfl

theorem outcomeBytes_setupBad (n : Nat) :
    outcomeBytes (.setupBad n) = [2, 0, BitVec.ofNat 8 (n % 256), BitVec.ofNat 8 (n / 256)] := by
  have hmod : BitVec.ofNat 8 (n / 256 % 256) = BitVec.ofNat 8 (n / 256) :=
    BitVec.eq_of_toNat_eq (by rw [BitVec.toNat_ofNat, BitVec.toNat_ofNat]; omega)
  rw [← hmod]
  rfl

/-- Settles O10: the first check that fails names the field, and the one access of EXU writes it. -/
theorem setupRecordRefused : Obligations.SetupRecordRefused := by
  intro a n b s hwf hbind h
  rw [exec_setupRecordRead_bad hbind h]
  refine ⟨fun hp => ?_, fun hburst => ?_⟩
  · rw [setupBad_rest hp]
    have hbytes := outcomeBytes_setupBad n
    have hlen : (outcomeBytes (.setupBad n)).length = 4 := by rw [hbytes]; rfl
    refine ⟨_, rfl, rfl, rfl, rfl, ?_, fun x hx => ?_, rfl, rfl, rfl⟩
    · rw [← hbytes]
      exact hlen ▸ memReadN_memWriteN hwf a (outcomeBytes (.setupBad n))
    · exact memRead_memWriteN_outside hwf a x _ (by rw [hlen]; exact hx)
  · exact congrArg Host.Outcome.next (serveFree_busy
      (s := queueWork [.outcome a (.setupBad n)] { s with exu.binding := some ⟨a, none⟩ }) hburst)

end Sys2Proof.Machine
end

section
/-! SUPPORT. A decoded entry delivered or passed (R75 to R77), and what DCP goes on to in the same step. -/

namespace Sys2Proof.Machine

variable {s : State}

/-! ### What DCP goes on to -/

/-- What follows an event after which DCP alone goes on is the grant of the port to what it raises. -/
theorem finish_dcpCheck {x y : State} (hs : x.sig = []) (ha : cmlAtRest x) (hd : dcpCheck x = y) (hy : Calm y) :
    finish x = grant y := by
  have hp : proceed x = y := by
    unfold proceed
    rw [accessCheck_calm ha, hd, dcpCheck_calm hy.dcp, rdcCheck_calm hy.rdc, storeRow_calm hy.rdc, fetchRow_calm hy.fmt.2,
      askAgain_calm hy.fmt.1, fmtPlace_calm hy.fmt.1]
  unfold finish
  simp only [settle_none hs, hp, settle_none hy.sig, proceed_calm hy]

/-- A READ is delivering, and no append is read back. -/
structure Delivers (r : OrderRec) (s : State) : Prop where
  record : s.ord.record = some r
  kind   : kindOfCode r.kind = some .read
  stage  : s.ord.stage = .reading
  find   : s.ord.find = none
  append : s.ord.append = none

section
variable {r : OrderRec} (h : Delivers r s)
include h

theorem Delivers.taken : takenKind s = some .read := by
  unfold takenKind
  rw [h.record]
  exact h.kind

theorem Delivers.delivering : delivering s = true := by
  unfold Machine.delivering atStage
  rw [h.taken, h.stage, h.find]
  rfl

theorem Delivers.readingBack : readingBack s = false := by
  unfold Machine.readingBack
  rw [h.append]
  rfl

theorem Delivers.cml : cmlAtRest s := cmlAtRest_ne h.taken (by decide) (by decide)

theorem Delivers.readExtent : readExtent s = descriptor r s.dcp.extent := by
  unfold Machine.readExtent
  rw [h.record]

theorem Delivers.extentsFilled : extentsFilled s = decide (r.count ≤ s.dcp.extent) := by
  unfold Machine.extentsFilled
  rw [h.record]

end

theorem storedOffset_eq (ix : List IndexEntry) (k : Nat) :
    storedOffset ix k = ((ix.take k).map (fun x => x.storedLen)).sum := by
  unfold storedOffset
  rw [List.sum_eq_foldl, List.foldl_map]

/-- The completion of a READ for which no wait stands (R78). -/
theorem completeRead_eq {r : OrderRec} (h : Delivers r s) (hw : s.dcp.waiting = false) (hp : s.dcp.phase = .idle)
    (st : Status) (rs : Reason) : completeRead st rs s =
      finishActive ⟨st, rs, resultFlags s false s.ord.discardSeen false, s.ord.delivered, s.ord.position,
        s.ord.firstObject.getD s.ord.position, 0, s.ord.extents⟩ { s with dcp.record := none } := by
  have hend : endWait s = s := if_neg (by rw [hw]; exact Bool.false_ne_true)
  unfold completeRead
  rw [hend, if_neg (by rw [hp]; decide), ← hp]
  exact complete_read (s := { s with dcp.record := none }) h.taken st rs

/-! ### The entry decoded -/

theorem decodeEntryNow_idle (h : s.dcp.phase ≠ .ready) : decodeEntryNow s = s := by
  unfold decodeEntryNow
  rw [if_neg (by simp [h])]

theorem dcpIndex_eq {i : Nat} {f : Frame} (hi : s.dcp.frame = some i) (hf : frameAt s i = some f) : dcpIndex s = f.index := by
  unfold dcpIndex dcpFrame
  rw [hi, Option.bind_some, hf]

theorem decodeEntryNow_ready {r : OrderRec} {i : Nat} {e : IndexEntry} (h : Delivers r s) (hp : s.dcp.phase = .ready)
    (hi : s.dcp.frame = some i) (he : (frameAt s i).bind (fun f => f.index[s.dcp.entry]?) = some e) :
    decodeEntryNow s = if e.kind = .mark then decodeMark e s else decodeData e s := by
  obtain ⟨f, hf, he⟩ := Option.bind_eq_some_iff.1 he
  unfold decodeEntryNow
  rw [if_pos (by simp [hp, h.delivering]), dcpIndex_eq hi hf, he]

/-- The first raw bytes of a record, of which the extent takes some. -/
theorem deliverRaw_first {x : Extent} {object : Nat} {raw : List Byte} (h : readExtent s = x) (hr : s.dcp.record = none)
    (hraw : 1 ≤ raw.length) (hlen : 1 ≤ x.length) :
    deliverRaw object raw s = raiseWrite .dcpOut .deliver x.start (raw.take x.length)
      { s with dcp.phase := .delivering, dcp.record := some ⟨object, raw.length, min x.length raw.length⟩ } := by
  have hroom : (raw.take x.length).isEmpty = false := by
    rw [List.isEmpty_eq_false_iff, ← List.length_pos_iff, List.length_take]
    omega
  unfold deliverRaw roomFor
  rw [hr, Option.getD_none, h]
  dsimp only
  rw [Nat.sub_zero, Nat.add_zero, hroom, if_neg Bool.false_ne_true, Nat.zero_add, Nat.zero_add, List.length_take]

theorem takeRaw_eq {raw history : List Byte} (hh : recentBytes (s.dcp.history ++ raw) = history) :
    takeRaw raw s = { s with dcp.history := history, dcp.produced := s.dcp.produced + raw.length } := by
  subst hh
  rfl

/-- The raw bytes of a DATA entry that begins at the position, no record in hand. -/
theorem decodeData_first {r : OrderRec} {e : IndexEntry} {raw history : List Byte} (h : Delivers r s)
    (ho : e.object = s.ord.position) (hr : s.dcp.record = none)
    (hd : decodeStored e s.dcp.history s.dcp.produced s.dcp.stored = some raw)
    (hh : recentBytes (s.dcp.history ++ raw) = history) (hraw : 1 ≤ raw.length)
    (hlen : 1 ≤ (descriptor r s.dcp.extent).length) :
    decodeData e s = raiseWrite .dcpOut .deliver (descriptor r s.dcp.extent).start (raw.take (descriptor r s.dcp.extent).length)
      { s with dcp.phase := .delivering, dcp.history := history, dcp.produced := s.dcp.produced + raw.length,
               dcp.record := some ⟨e.object, raw.length, min (descriptor r s.dcp.extent).length raw.length⟩ } := by
  unfold decodeData
  rw [hd]
  dsimp only
  rw [h.readingBack, if_neg (by simp [ho]), if_neg (by omega), takeRaw_eq hh]
  generalize s.dcp.produced + raw.length = produced
  have hx : readExtent { s with dcp.history := history, dcp.produced := produced } = descriptor r s.dcp.extent := by
    unfold Machine.readExtent
    dsimp only
    rw [h.record]
  generalize descriptor r s.dcp.extent = x at hx hlen ⊢
  exact deliverRaw_first (s := { s with dcp.history := history, dcp.produced := produced }) hx hr hraw hlen

/-- The cursor past an entry that is not the last. -/
theorem passEntry_within {i : Nat} {f : Frame} (hi : s.dcp.frame = some i) (hf : frameAt s i = some f)
    (hlt : s.dcp.entry + 1 < f.index.length) :
    passEntry s = { s with dcp.entry := s.dcp.entry + 1, dcp.stored := [], dcp.phase := .idle } := by
  unfold passEntry
  dsimp only
  have hix : dcpIndex { s with dcp.entry := s.dcp.entry + 1, dcp.stored := [], dcp.phase := .idle } = f.index :=
    dcpIndex_eq (s := { s with dcp.entry := s.dcp.entry + 1, dcp.stored := [], dcp.phase := .idle }) hi hf
  rw [hix, if_neg (by simp; omega)]

theorem decodeMark_met {r : OrderRec} {e : IndexEntry} (h : Delivers r s) (ho : e.object = s.ord.position) :
    decodeMark e s = completeRead .doneShort .markMet { passEntry s with ord.position := e.object + 1 } := by
  unfold decodeMark
  rw [h.readingBack, if_neg (by simp [ho]), if_neg (by omega)]

/-- Whether an entry is decoded or not, the event of an entry that is not ready changes nothing. -/
theorem exec_decodeEntry_notReady (hc : Calm s) (h : s.dcp.phase ≠ .ready) (hp : portAtRest s) :
    exec .decodeEntry s = .next s := by
  change execDecodeEntry s = _
  unfold execDecodeEntry
  rw [decodeEntryNow_idle h, finish_rest hc hp]

theorem exec_decodeEntry_data {r : OrderRec} {i : Nat} {e : IndexEntry} {raw : List Byte} (hc : Calm s) (h : Delivers r s)
    (hp : s.dcp.phase = .ready) (hi : s.dcp.frame = some i) (hport : portAtRest s)
    (he : (frameAt s i).bind (fun f => f.index[s.dcp.entry]?) = some e) (hk : e.kind = .data) (ho : e.object = s.ord.position)
    (hr : s.dcp.record = none) (hd : decodeStored e s.dcp.history s.dcp.produced s.dcp.stored = some raw)
    (hraw : 1 ≤ raw.length) (hlen : 1 ≤ (descriptor r s.dcp.extent).length) :
    exec .decodeEntry s =
      .next (portServes ⟨.dcpOut, .deliver, true, (descriptor r s.dcp.extent).start,
          min (descriptor r s.dcp.extent).length raw.length, raw.take (descriptor r s.dcp.extent).length⟩
        { s with dcp.phase := .delivering, dcp.history := recentBytes (s.dcp.history ++ raw),
                 dcp.produced := s.dcp.produced + raw.length,
                 dcp.record := some ⟨e.object, raw.length, min (descriptor r s.dcp.extent).length raw.length⟩ }) := by
  have hrest := hc.noRow hport
  obtain ⟨history, hh⟩ : ∃ history, recentBytes (s.dcp.history ++ raw) = history := ⟨_, rfl⟩
  rw [hh]
  change execDecodeEntry s = _
  unfold execDecodeEntry
  rw [decodeEntryNow_ready h hp hi he, if_neg (by rw [hk]; decide), decodeData_first h ho hr hd hh hraw hlen]
  unfold raiseWrite
  rw [addTransfer_rest (x := { s with
      dcp.phase := .delivering, dcp.history := history, dcp.produced := s.dcp.produced + raw.length,
      dcp.record := some ⟨e.object, raw.length, min (descriptor r s.dcp.extent).length raw.length⟩ }) hport.1, List.length_take]
  refine congrArg Host.Outcome.next (finish_single ?_ rfl hport.2.1 hport.2.2 rfl)
  exact ⟨hc.sig, hc.fmt, ⟨hc.rdc.1, .inl hrest⟩, .inl nofun, hc.cml⟩

theorem exec_decodeEntry_mark {r : OrderRec} {i : Nat} {e : IndexEntry} (hc : Calm s) (h : Delivers r s)
    (hp : s.dcp.phase = .ready) (hi : s.dcp.frame = some i) (hport : portAtRest s)
    (he : (frameAt s i).bind (fun f => f.index[s.dcp.entry]?) = some e) (hk : e.kind = .mark) (ho : e.object = s.ord.position)
    (hw : s.dcp.waiting = false) (hn : noneWaits s) (ha : s.exu.active.isSome = true)
    (hlt : ∀ f, frameAt s i = some f → s.dcp.entry + 1 < f.index.length) :
    exec .decodeEntry s =
      .next (finishActive ⟨.doneShort, .markMet, resultFlags s false s.ord.discardSeen false, s.ord.delivered,
          e.object + 1, s.ord.firstObject.getD (e.object + 1), 0, s.ord.extents⟩
        { s with ord.position := e.object + 1, dcp.entry := s.dcp.entry + 1, dcp.stored := [], dcp.phase := .idle,
                 dcp.record := none }) := by
  obtain ⟨f, hf, -⟩ := Option.bind_eq_some_iff.1 he
  change execDecodeEntry s = _
  unfold execDecodeEntry
  rw [decodeEntryNow_ready h hp hi he, if_pos hk, decodeMark_met h ho, passEntry_within hi hf (hlt f hf)]
  have hcomplete := completeRead_eq (r := r)
    (s := { s with ord.position := e.object + 1, dcp.entry := s.dcp.entry + 1, dcp.stored := [], dcp.phase := .idle })
    ⟨h.record, h.kind, h.stage, h.find, h.append⟩ hw rfl .doneShort .markMet
  rw [hcomplete]
  exact congrArg Host.Outcome.next (finish_completed
    (s := { s with ord.position := e.object + 1, dcp.entry := s.dcp.entry + 1, dcp.stored := [], dcp.phase := .idle,
                   dcp.record := none })
    hc.sig hc.fmt ⟨hc.rdc.1, .inl (hc.noRow hport)⟩ hport hn ha _)

/-! ### The delivery over -/

theorem entryDelivered_eq {i : Nat} {f : Frame} {e : IndexEntry} (hi : s.dcp.frame = some i) (hf : frameAt s i = some f)
    (he : f.index[s.dcp.entry]? = some e) :
    entryDelivered s = if e.last then
        (if extentsFilled (finishRecord (passEntry s)) then completeRead .ok .none (finishRecord (passEntry s))
          else finishRecord (passEntry s))
      else passEntry s := by
  unfold entryDelivered
  rw [dcpIndex_eq hi hf, he]

/-- The record in hand ends: its extent's result, and the position after it. -/
theorem finishRecord_eq {r : OrderRec} {h : RecordInHand} (hs : Delivers r s) (hr : s.dcp.record = some h) :
    finishRecord s = { s with
      dcp.record := none, dcp.extent := s.dcp.extent + 1,
      ord.extents := s.ord.extents ++ [⟨h.length, decide ((descriptor r s.dcp.extent).length < h.length)⟩],
      ord.delivered := s.ord.delivered + 1, ord.firstObject := s.ord.firstObject.or (some h.object),
      ord.position := h.object + 1 } := by
  unfold finishRecord
  rw [hr, hs.readExtent]

/-- The stored bytes of an entry that goes on with the record in hand are fetched (R76). -/
theorem dcpCheck_fetches {r : OrderRec} {i : Nat} {f : Frame} {e : IndexEntry} {h : RecordInHand} (hs : Delivers r s)
    (hp : s.dcp.phase = .idle) (hi : s.dcp.frame = some i) (hf : frameAt s i = some f) (he : f.index[s.dcp.entry]? = some e)
    (hr : s.dcp.record = some h) (hk : e.kind = .data) (hfirst : e.first = false) (hlen : 1 ≤ e.storedLen)
    (hext : s.dcp.extent < r.count) :
    dcpCheck s = raiseRead .dcpIn .entryIn (s.bsm.base + i * 1114112 + 32768
        + ((f.index.take s.dcp.entry).map (fun x => x.storedLen)).sum) e.storedLen { s with dcp.phase := .fetching } := by
  have hleft : nothingLeft s = false := by
    unfold nothingLeft
    rw [hr]
    rfl
  have hbegins : beginsObject e = false := by
    unfold beginsObject
    rw [hk, hfirst]
    rfl
  have hends : endsBefore e s = s := if_neg (by rw [hbegins]; exact Bool.false_ne_true)
  have hat : atEntry i e s = fetchEntry i e s := by
    unfold atEntry
    rw [hs.readingBack, if_neg Bool.false_ne_true, hends]
    exact if_neg (by rw [hs.extentsFilled, decide_eq_true_iff]; omega)
  unfold dcpCheck
  rw [if_neg (by simp [hp, hs.delivering]), hleft, if_neg Bool.false_ne_true, hi]
  dsimp only
  rw [dcpIndex_eq hi hf, he]
  dsimp only
  rw [hat]
  unfold fetchEntry
  rw [if_neg (by simp [hk]; omega), dcpIndex_eq hi hf, storedOffset_eq]
  rfl

/-- The last burst of a delivery brings the end of its entry (R76). -/
theorem exec_delivered {addr n : Nat} {data : List Byte} (hn : 1 ≤ n) (hlen : data.length = n)
    (ht : s.marb.transfers = [⟨.dcpOut, .deliver, true, addr, n, data⟩]) (hb : s.marb.burst = some ⟨.dcpOut, n⟩) :
    exec .burstDone s = .next (finish (entryDelivered (burstOver (memWriteN s.mem addr data) s))) := by
  have hex := exec_lastWrite ht hb hn
  rw [List.take_of_length_le hlen.le] at hex
  generalize memWriteN s.mem addr data = m at hex ⊢
  exact hex

/-- The entry goes on with its record: the stored bytes of the next one are read. -/
theorem entryDelivered_goesOn {r : OrderRec} {i : Nat} {e next : IndexEntry} {f : Frame} {h : RecordInHand} (hc : Calm s)
    (hs : Delivers r s) (hi : s.dcp.frame = some i) (hf : frameAt s i = some f)
    (he : f.index[s.dcp.entry]? = some e) (hnext : f.index[s.dcp.entry + 1]? = some next) (hr : s.dcp.record = some h)
    (hport : portAtRest s) (hl : e.last = false) (hk : next.kind = .data) (hfirst : next.first = false)
    (hlen : 1 ≤ next.storedLen) (hext : s.dcp.extent < r.count) :
    finish (entryDelivered s) = portServes ⟨.dcpIn, .entryIn, false, s.bsm.base + i * 1114112 + 32768
        + ((f.index.take (s.dcp.entry + 1)).map (fun x => x.storedLen)).sum, next.storedLen, []⟩
      { s with dcp.entry := s.dcp.entry + 1, dcp.stored := [], dcp.phase := .fetching } := by
  rw [entryDelivered_eq hi hf he, hl, if_neg Bool.false_ne_true,
    passEntry_within hi hf (List.getElem?_eq_some_iff.1 hnext).1]
  have hcheck := dcpCheck_fetches (r := r) (s := { s with dcp.entry := s.dcp.entry + 1, dcp.stored := [], dcp.phase := .idle })
    ⟨hs.record, hs.kind, hs.stage, hs.find, hs.append⟩ rfl hi hf hnext hr hk hfirst hlen hext
  unfold raiseRead at hcheck
  rw [addTransfer_rest (x := { s with dcp.entry := s.dcp.entry + 1, dcp.stored := [], dcp.phase := .fetching }) hport.1]
    at hcheck
  rw [finish_dcpCheck (x := { s with dcp.entry := s.dcp.entry + 1, dcp.stored := [], dcp.phase := .idle }) hc.sig hs.cml hcheck
    ⟨hc.sig, hc.fmt, ⟨hc.rdc.1, .inl (hc.noRow hport)⟩, .inl nofun, hs.cml⟩]
  exact grant_single rfl hport.2.1 hport.2.2 rfl

/-- The last entry of the record of the READ's last extent: the READ completes. -/
theorem entryDelivered_ends {r : OrderRec} {i : Nat} {e next : IndexEntry} {f : Frame} {h : RecordInHand} (hc : Calm s)
    (hs : Delivers r s) (hi : s.dcp.frame = some i) (hf : frameAt s i = some f)
    (he : f.index[s.dcp.entry]? = some e) (hnext : f.index[s.dcp.entry + 1]? = some next) (hr : s.dcp.record = some h)
    (hport : portAtRest s) (hl : e.last = true) (hext : s.dcp.extent + 1 = r.count) (hw : s.dcp.waiting = false)
    (hn : noneWaits s) (ha : s.exu.active.isSome = true) {results : List ExtentResult}
    (hres : s.ord.extents ++ [⟨h.length, decide ((descriptor r s.dcp.extent).length < h.length)⟩] = results) :
    finish (entryDelivered s) = finishActive ⟨.ok, .none, resultFlags s false s.ord.discardSeen false, s.ord.delivered + 1,
        h.object + 1, s.ord.firstObject.getD h.object, 0, results⟩
      { s with dcp.entry := s.dcp.entry + 1, dcp.stored := [], dcp.phase := .idle, dcp.record := none,
               dcp.extent := s.dcp.extent + 1, ord.extents := results, ord.delivered := s.ord.delivered + 1,
               ord.firstObject := s.ord.firstObject.or (some h.object), ord.position := h.object + 1 } := by
  have hfirst : (s.ord.firstObject.or (some h.object)).getD (h.object + 1) = s.ord.firstObject.getD h.object := by
    cases s.ord.firstObject <;> rfl
  rw [entryDelivered_eq hi hf he, hl, if_pos rfl, passEntry_within hi hf (List.getElem?_eq_some_iff.1 hnext).1,
    finishRecord_eq (r := r) (s := { s with dcp.entry := s.dcp.entry + 1, dcp.stored := [], dcp.phase := .idle })
      ⟨hs.record, hs.kind, hs.stage, hs.find, hs.append⟩ hr]
  change finish (if extentsFilled { s with
      dcp.entry := s.dcp.entry + 1, dcp.stored := [], dcp.phase := .idle, dcp.record := none, dcp.extent := s.dcp.extent + 1,
      ord.extents := s.ord.extents ++ [⟨h.length, decide ((descriptor r s.dcp.extent).length < h.length)⟩],
      ord.delivered := s.ord.delivered + 1, ord.firstObject := s.ord.firstObject.or (some h.object),
      ord.position := h.object + 1 } then _ else _) = _
  rw [hres]
  have hsz : Delivers r { s with
      dcp.entry := s.dcp.entry + 1, dcp.stored := [], dcp.phase := .idle, dcp.record := none, dcp.extent := s.dcp.extent + 1,
      ord.extents := results, ord.delivered := s.ord.delivered + 1, ord.firstObject := s.ord.firstObject.or (some h.object),
      ord.position := h.object + 1 } := ⟨hs.record, hs.kind, hs.stage, hs.find, hs.append⟩
  rw [if_pos (by rw [hsz.extentsFilled, decide_eq_true_iff]; exact hext.ge), completeRead_eq hsz hw rfl]
  dsimp only
  rw [hfirst]
  exact finish_completed
    (s := { s with dcp.entry := s.dcp.entry + 1, dcp.stored := [], dcp.phase := .idle, dcp.record := none,
                   dcp.extent := s.dcp.extent + 1, ord.extents := results, ord.delivered := s.ord.delivered + 1,
                   ord.firstObject := s.ord.firstObject.or (some h.object), ord.position := h.object + 1 })
    hc.sig hc.fmt ⟨hc.rdc.1, .inl (hc.noRow hport)⟩ hport hn ha _

/-- Settles O46: an entry ready, by its kind; and a delivery over, by whether its entry ends the record. -/
theorem decodedEntryDelivered : Obligations.DecodedEntryDelivered := by
  intro r i e raw s hc
  refine ⟨exec_decodeEntry_notReady hc, fun hrec hkind hstage hfind happ hp hi hport he => ?_,
    fun f next h addr n data hrec hkind hstage hfind happ hp hi hf hix hnext hr hn hlen ht hb hwork => ?_⟩
  · have hs : Delivers r s := ⟨hrec, hkind, hstage, hfind, happ⟩
    exact ⟨fun hk ho hr hd hraw hlen => exec_decodeEntry_data hc hs hp hi hport he hk ho hr hd hraw hlen,
      fun hk ho hw hn ha hlt => exec_decodeEntry_mark hc hs hp hi hport he hk ho hw hn ha hlt⟩
  · have hnorow : s.rdc.inBuffer = [] := hc.rdc.2.resolve_right 
      (by rw [transferInHand_single (p := .rowStore) ht (fun hx => Purpose.noConfusion hx)]; exact Bool.false_ne_true)
    have hex := exec_delivered hn hlen ht hb
    dsimp only
    generalize memWriteN s.mem addr data = m at hex ⊢
    rw [hex]
    have hcx : Calm (burstOver m s) := ⟨hc.sig, hc.fmt, ⟨hc.rdc.1, .inl hnorow⟩, hc.dcp, hc.cml⟩
    have hsx : Delivers r (burstOver m s) := ⟨hrec, hkind, hstage, hfind, happ⟩
    refine ⟨fun hl hk hfirst hs1 hext => ?_, fun hl hext hw hnw ha => ?_⟩
    · exact congrArg Host.Outcome.next (entryDelivered_goesOn hcx hsx hi hf hix hnext hr ⟨rfl, rfl, hwork⟩ hl hk hfirst hs1 hext)
    · exact congrArg Host.Outcome.next (entryDelivered_ends hcx hsx hi hf hix hnext hr ⟨rfl, rfl, hwork⟩ hl hext hw hnw ha rfl)

end Sys2Proof.Machine
end

section
/-! SUPPORT. The round trip of the compressor (R5 to R10, R75): what a token stream makes of the bytes before it, and the tokens
of the matcher. -/

namespace Sys2Proof.Machine

/-! ### What a token stream makes -/

/-- A stream of tokens makes `n` more raw bytes, `w'` of `w`, at `p` raw bytes of the bundle: whatever follows it is read after
at most one token for each of its bytes. -/
def Makes (stream w : List Byte) (n : Nat) (w' : List Byte) (p : Nat) : Prop :=
  ∃ steps, steps ≤ stream.length ∧ ∀ k left rest, n ≤ left →
    readTokens (k + steps) w p left (stream ++ rest) = readTokens k w' (p + n) (left - n) rest

theorem makes_nil (w : List Byte) (p : Nat) : Makes [] w 0 w p := ⟨0, Nat.le_refl 0, fun _ _ _ _ => rfl⟩

theorem Makes.append {s1 s2 w w1 w2 : List Byte} {n1 n2 p : Nat} (h1 : Makes s1 w n1 w1 p) (h2 : Makes s2 w1 n2 w2 (p + n1)) :
    Makes (s1 ++ s2) w (n1 + n2) w2 p := by
  obtain ⟨k1, hk1, h1⟩ := h1
  obtain ⟨k2, hk2, h2⟩ := h2
  refine ⟨k2 + k1, by rw [List.length_append]; omega, fun k left rest hn => ?_⟩
  rw [← Nat.add_assoc, List.append_assoc, h1 _ _ _ (by omega), h2 _ _ _ (by omega), Nat.add_assoc, Nat.sub_sub]

/-- A literal run makes its bytes. -/
theorem makes_literal {run : List Byte} (w : List Byte) (p : Nat) (h : run.length ≤ 128) :
    Makes (literalToken run) w run.length (w ++ run) p := by
  cases run with
  | nil =>
    rw [List.append_nil]
    exact makes_nil w p
  | cons b bs =>
    rw [List.length_cons] at h
    refine ⟨1, by simp [literalToken], fun k left rest hn => ?_⟩
    rw [List.length_cons] at hn
    have hc : (BitVec.ofNat 8 bs.length).toNat = bs.length := by
      rw [BitVec.toNat_ofNat]
      omega
    change readTokens (k + 1) w p left (BitVec.ofNat 8 bs.length :: ((b :: bs) ++ rest)) = _
    conv_lhs => unfold readTokens
    dsimp only
    rw [hc, if_pos (by omega), if_neg (by simp; omega), ← List.length_cons (a := b), List.take_left, List.drop_left]

/-- A match token makes bytes copied from its distance back. -/
theorem makes_match {n d p : Nat} (w : List Byte) (h3 : 3 ≤ n) (hn : n ≤ 130) (hd : 1 ≤ d) (hd' : d ≤ 8192) (hp : d ≤ p) :
    Makes (matchToken n d) w n (copyBack d n w) p := by
  refine ⟨1, by simp [matchToken], fun k left rest hleft => ?_⟩
  have hc : (BitVec.ofNat 8 (n + 125)).toNat = n + 125 := by
    rw [BitVec.toNat_ofNat]
    omega
  have hdist : (BitVec.ofNat 8 ((d - 1) % 256)).toNat + 256 * (BitVec.ofNat 8 ((d - 1) / 256 % 256)).toNat + 1 = d := by
    rw [BitVec.toNat_ofNat, BitVec.toNat_ofNat]
    omega
  change readTokens (k + 1) w p left (BitVec.ofNat 8 (n + 125) :: BitVec.ofNat 8 ((d - 1) % 256)
    :: BitVec.ofNat 8 ((d - 1) / 256 % 256) :: rest) = _
  conv_lhs => unfold readTokens
  dsimp only
  rw [hc, if_neg (by omega), hdist, Nat.add_sub_cancel, if_neg (by simp [historyBytes]; omega)]

/-- Bytes copied from a distance back are those that repeat the ones that distance before them. -/
theorem copyBack_repeats {d : Nat} : ∀ (x w : List Byte), 1 ≤ d → d ≤ w.length →
    (∀ i < x.length, (w ++ x)[w.length - d + i]? = (w ++ x)[w.length + i]?) → copyBack d x.length w = w ++ x
  | [], w, _, _, _ => (List.append_nil w).symm
  | b :: x, w, hd, hw, h => by
    have h0 := h 0 (by simp)
    rw [Nat.add_zero, Nat.add_zero, List.getElem?_append_left (by omega), List.getElem?_append_right (Nat.le_refl _),
      Nat.sub_self, List.getElem?_cons_zero] at h0
    have hb : w.getD (w.length - d) 0 = b := by rw [List.getD_eq_getElem?_getD, h0, Option.getD_some]
    have hcons : w ++ b :: x = (w ++ [b]) ++ x := by rw [List.append_assoc, List.singleton_append]
    have hlen : (w ++ [b]).length = w.length + 1 := by rw [List.length_append, List.length_singleton]
    rw [List.length_cons, copyBack, hb, hcons]
    refine copyBack_repeats x (w ++ [b]) hd (by omega) fun i hi => ?_
    have hi' := h (i + 1) (by rw [List.length_cons]; omega)
    rw [hcons] at hi'
    rw [hlen, show w.length + 1 - d + i = w.length - d + (i + 1) by omega,
      show w.length + 1 + i = w.length + (i + 1) by omega]
    exact hi'

/-! ### The bytes the matcher compares (R5, R7) -/

section
variable {m : MatchInput}

/-- A byte the matcher sees is one of the history or of the chunk, at its raw position. -/
theorem byteAt_some {q : Nat} (h : (m.byteAt q).isSome = true) : m.rawCount ≤ m.history.length + q
    ∧ (m.history ++ m.chunk)[m.history.length + q - m.rawCount]? = m.byteAt q := by
  unfold MatchInput.byteAt at h ⊢
  by_cases hq : m.rawCount ≤ q
  · rw [if_pos hq]
    refine ⟨by omega, ?_⟩
    rw [List.getElem?_append_right (by omega), show m.history.length + q - m.rawCount - m.history.length = q - m.rawCount by omega]
  · rw [if_neg hq] at h ⊢
    by_cases hh : m.rawCount - q ≤ m.history.length
    · rw [if_pos hh]
      refine ⟨by omega, ?_⟩
      rw [List.getElem?_append_left (by omega), show m.history.length + q - m.rawCount = m.history.length - (m.rawCount - q) by omega]
    · rw [if_neg hh] at h
      cases h

theorem matchLength_spec : ∀ (limit q p : Nat), m.matchLength limit q p ≤ limit
    ∧ ∀ i < m.matchLength limit q p, (m.byteAt (q + i)).isSome = true ∧ m.byteAt (q + i) = m.byteAt (p + i)
  | 0, _, _ => ⟨Nat.le_refl 0, fun _ hi => absurd hi (Nat.not_lt_zero _)⟩
  | limit + 1, q, p => by
    unfold MatchInput.matchLength
    by_cases h : ((m.byteAt q).isSome && decide (m.byteAt q = m.byteAt p)) = true
    · rw [if_pos h]
      rw [Bool.and_eq_true, decide_eq_true_iff] at h
      obtain ⟨hle, heq⟩ := matchLength_spec limit (q + 1) (p + 1)
      refine ⟨by omega, fun i hi => ?_⟩
      cases i with
      | zero => exact h
      | succ i =>
        rw [show q + (i + 1) = q + 1 + i by omega, show p + (i + 1) = p + 1 + i by omega]
        exact heq i (by omega)
    · rw [if_neg h]
      exact ⟨Nat.zero_le _, fun i hi => absurd hi (Nat.not_lt_zero _)⟩

/-- A match found: where it lies, how far back, and what it repeats. -/
theorem look_found {p : Nat} {table : List (Nat × Nat)} (h : 3 ≤ (m.look p table).2) :
    (m.look p table).1 < p ∧ p - (m.look p table).1 ≤ 8192
      ∧ (m.look p table).2 = m.matchLength (min 130 (m.rest p).length) (m.look p table).1 p := by
  unfold MatchInput.look at h ⊢
  cases hk : m.key p with
  | none => simp [hk] at h
  | some key =>
    rw [hk] at h
    dsimp only at h ⊢
    cases hg : tableGet table key with
    | none => simp [hg] at h
    | some q =>
      rw [hg] at h
      dsimp only at h ⊢
      by_cases hq : (decide (q < p) && decide (p - q ≤ historyBytes)) = true
      · rw [if_pos hq]
        rw [Bool.and_eq_true, decide_eq_true_iff, decide_eq_true_iff] at hq
        exact ⟨hq.1, hq.2, rfl⟩
      · rw [if_neg hq] at h
        exact absurd h (by simp)

/-! ### The matcher's scan (R7, R8) -/

/-- What the matcher has done of the chunk at raw position `p`: its stream makes `made`, the pending run is the bytes after
them, and `rest` is what is left. -/
structure Scanned (m : MatchInput) (made rest : List Byte) (p : Nat) (w : Matcher) : Prop where
  makes : Makes w.stream m.history made.length (m.history ++ made) m.rawCount
  chunk : m.chunk = made ++ w.literal ++ rest
  place : p = m.rawCount + (made ++ w.literal).length
  run   : w.literal.length ≤ 128

section
variable {made rest : List Byte} {p : Nat} {w : Matcher} (h : Scanned m made rest p w)
include h

theorem Scanned.rest_eq : m.rest p = rest := by
  unfold MatchInput.rest
  rw [h.chunk, h.place, Nat.add_sub_cancel_left, List.drop_left]

/-- The pending run recorded. -/
theorem Scanned.flush : Scanned m (made ++ w.literal) rest p w.flushRun where
  makes := by
    have hm := h.makes.append (makes_literal (run := w.literal) _ _ h.run)
    rw [List.append_assoc, ← List.length_append] at hm
    exact hm
  chunk := by
    change m.chunk = made ++ w.literal ++ [] ++ rest
    rw [List.append_nil]
    exact h.chunk
  place := by
    change p = m.rawCount + (made ++ w.literal ++ []).length
    rw [List.append_nil]
    exact h.place
  run := Nat.zero_le _

theorem Scanned.table (t : List (Nat × Nat)) : Scanned m made rest p { w with table := t } :=
  ⟨h.makes, h.chunk, h.place, h.run⟩

end

/-- A byte added to the pending run. -/
theorem Scanned.literal {made rest : List Byte} {p : Nat} {w : Matcher} {b : Byte} (h : Scanned m made (b :: rest) p w)
    (hrun : w.literal.length < 128) :
    ∃ made', Scanned m made' rest (p + 1) (w.addLiteral b) ∧ (w.addLiteral b).literal.length < 128 := by
  have hadd : Scanned m made rest (p + 1) { w with literal := w.literal ++ [b] } := by
    refine ⟨h.makes, ?_, ?_, ?_⟩
    · rw [h.chunk, List.append_assoc, List.append_assoc, List.append_assoc, List.singleton_append]
    · rw [h.place, List.length_append, List.length_append, List.length_append, List.length_singleton]
      omega
    · rw [List.length_append, List.length_singleton]
      omega
  unfold Matcher.addLiteral
  by_cases hfull : w.literal.length + 1 = 128
  · rw [if_pos hfull]
    exact ⟨_, hadd.flush, Nat.zero_lt_succ _⟩
  · rw [if_neg hfull]
    refine ⟨_, hadd, ?_⟩
    change (w.literal ++ [b]).length < 128
    rw [List.length_append, List.length_singleton]
    omega

/-- A match recorded, no run pending: the stream makes the bytes that it repeats. -/
theorem Scanned.matched {made rest : List Byte} {p n q : Nat} {w : Matcher} (h : Scanned m made rest p w)
    (hw : w.literal = []) (h3 : 3 ≤ n) (hq : q < p) (hd : p - q ≤ 8192)
    (hn : n = m.matchLength (min 130 rest.length) q p) (t : List (Nat × Nat)) :
    Scanned m (made ++ rest.take n) (rest.drop n) (p + n)
      { w with stream := w.stream ++ matchToken n (p - q), table := t } := by
  obtain ⟨hle, heq⟩ := matchLength_spec (m := m) (min 130 rest.length) q p
  rw [← hn] at hle heq
  have hchunk : m.chunk = made ++ rest := by rw [h.chunk, hw, List.append_nil]
  have hplace : p = m.rawCount + made.length := by rw [h.place, hw, List.append_nil]
  have hlen : (rest.take n).length = n := by rw [List.length_take]; omega
  have hback := (byteAt_some (heq 0 (by omega)).1).1
  have hall : m.history ++ m.chunk = (m.history ++ made ++ rest.take n) ++ rest.drop n := by
    rw [hchunk, List.append_assoc _ _ (rest.drop n), List.take_append_drop, List.append_assoc]
  have hcopy : copyBack (p - q) n (m.history ++ made) = m.history ++ made ++ rest.take n := by
    have hr := copyBack_repeats (d := p - q) (rest.take n) (m.history ++ made) (by omega)
      (by rw [List.length_append]; omega) fun i hi => ?_
    · rw [hlen] at hr
      exact hr
    · rw [hlen] at hi
      obtain ⟨hsome, hbyte⟩ := heq i hi
      have hfrom := (byteAt_some hsome).2
      have hto := (byteAt_some (hbyte ▸ hsome)).2
      have hsum : (m.history ++ made).length = m.history.length + made.length := List.length_append
      have hshift : m.history.length + (q + i) - m.rawCount = (m.history ++ made).length - (p - q) + i := by omega
      have hshift' : m.history.length + (p + i) - m.rawCount = (m.history ++ made).length + i := by omega
      rw [hall, hshift, List.getElem?_append_left (by rw [List.length_append (bs := List.take n rest), hlen]; omega)] at hfrom
      rw [hall, hshift', List.getElem?_append_left (by rw [List.length_append (bs := List.take n rest), hlen]; omega)] at hto
      rw [hfrom, hto, hbyte]
  have hmakes := h.makes.append (makes_match (n := n) (d := p - q) (p := m.rawCount + made.length) (m.history ++ made) h3
    (by omega) (by omega) hd (by omega))
  rw [hcopy, List.append_assoc] at hmakes
  refine ⟨?_, ?_, ?_, ?_⟩
  · rw [List.length_append, hlen]
    exact hmakes
  · change m.chunk = made ++ rest.take n ++ w.literal ++ rest.drop n
    rw [hw, List.append_nil, List.append_assoc, List.take_append_drop, hchunk]
  · change p + n = m.rawCount + (made ++ rest.take n ++ w.literal).length
    rw [hw, List.append_nil, List.length_append, hlen, hplace, Nat.add_assoc]
  · change w.literal.length ≤ 128
    rw [hw]
    exact Nat.zero_le _

/-- The scan over the rest of a chunk makes the whole of it. -/
theorem scan_makes : ∀ (k : Nat) {made rest : List Byte} {p : Nat} {w : Matcher}, Scanned m made rest p w →
    w.literal.length < 128 → rest.length < k →
    Makes (m.scan k p w).stream m.history m.chunk.length (m.history ++ m.chunk) m.rawCount
  | 0, _, _, _, _, _, _, hk => absurd hk (Nat.not_lt_zero _)
  | k + 1, made, rest, p, w, h, hrun, hk => by
    unfold MatchInput.scan
    rw [h.rest_eq]
    cases rest with
    | nil =>
      have hchunk : made ++ w.literal = m.chunk := by rw [h.chunk, List.append_nil]
      have hm := h.flush.makes
      rw [hchunk] at hm
      exact hm
    | cons b rest =>
      rw [List.length_cons] at hk
      dsimp only
      by_cases h3 : 3 ≤ (m.look p w.table).2
      · rw [if_pos h3]
        obtain ⟨hq, hd, hn⟩ := look_found h3
        rw [h.rest_eq] at hn
        have hm := h.flush.matched rfl h3 hq hd hn (m.insertRange p (m.look p w.table).2 w.table)
        refine scan_makes k hm (by change ([] : List Byte).length < 128; decide) ?_
        rw [List.length_drop, List.length_cons]
        omega
      · rw [if_neg h3]
        obtain ⟨made', hm, hrun'⟩ := (h.table (m.insert p w.table)).literal hrun
        exact scan_makes k hm hrun' (by omega)

/-- The token stream of a chunk makes the chunk of the history it was computed with. -/
theorem tokens_makes (table : List (Nat × Nat)) :
    Makes (m.tokens table).stream m.history m.chunk.length (m.history ++ m.chunk) m.rawCount := by
  refine scan_makes (m.chunk.length + 1) (made := []) (rest := m.chunk) ⟨?_, rfl, rfl, Nat.zero_le _⟩ (Nat.zero_lt_succ _)
    (by omega)
  rw [List.append_nil]
  exact makes_nil _ _

end

/-- A stream that makes the bytes an entry owes decodes to them. -/
theorem decodeStored_packed {e : IndexEntry} {stream history chunk : List Byte} {p : Nat} (hf : e.form = .packed)
    (hl : e.rawLen = chunk.length) (h : Makes stream history chunk.length (history ++ chunk) p) :
    decodeStored e history p stream = some chunk := by
  obtain ⟨steps, hle, h⟩ := h
  have hread := h (stream.length + 1 - steps) chunk.length [] (Nat.le_refl _)
  obtain ⟨k, hk⟩ : ∃ k, stream.length + 1 - steps = k + 1 := ⟨stream.length - steps, by omega⟩
  rw [List.append_nil, show stream.length + 1 - steps + steps = stream.length + 1 by omega, hk, Nat.sub_self] at hread
  unfold decodeStored
  rw [hf, hl]
  dsimp only
  rw [hread]
  unfold readTokens
  dsimp only
  rw [if_pos rfl, Option.map_some, List.drop_left]

/-- Settles O60: a PLAIN form is the chunk itself, and a PACKED one a stream of tokens that makes it. -/
theorem compressionRoundTrip : Obligations.CompressionRoundTrip := by
  intro m table plain e _ _ hform hraw
  have hplain : ∀ t, m.candidate table plain = ⟨.plain, m.chunk, m.chunk, t⟩ →
      decodeStored e m.history m.rawCount (m.candidate table plain).stored = some m.chunk
        ∧ (m.candidate table plain).stored.length ≤ m.chunk.length := fun t ht => by
    rw [ht] at hform ⊢
    unfold decodeStored
    rw [hform]
    exact ⟨rfl, Nat.le_refl _⟩
  by_cases hp : plain = true
  · exact hplain _ (if_pos hp)
  · by_cases hlen : m.chunk.length ≤ (m.tokens table).stream.length
    · refine hplain (m.tokens table).table ?_
      unfold MatchInput.candidate
      rw [if_neg hp]
      exact if_pos hlen
    · have hc : m.candidate table plain = ⟨.packed, m.chunk, (m.tokens table).stream, (m.tokens table).table⟩ := by
        unfold MatchInput.candidate
        rw [if_neg hp]
        exact if_neg hlen
      rw [hc] at hform ⊢
      exact ⟨decodeStored_packed hform hraw (tokens_makes table), by change (m.tokens table).stream.length ≤ _; omega⟩

end Sys2Proof.Machine
end

section
/-! SUPPORT. The blank run's limit: a locate that fails, and the ends of a rebuild's scans (R105, R138 to R141). -/

namespace Sys2Proof.Machine

variable {s : State}

/-! ### Reading tape brought to a stop -/

/-- MOT as a stop request leaves it in STREAMING_READ (R97). -/
structure StopsReading (place : Nat) (m0 m : Mot) : Prop where
  state  : m.state = .stopping ∧ m.afterRest = .runUp
  splice : m.splice = some place ∧ m.startKind = some .read
  lock   : m.lock = .unlocked ∧ m.lockCount = 0 ∧ m.limitTimer = none
  kept   : m.pos = m0.pos ∧ m.locate = m0.locate ∧ m.held = m0.held

theorem requestStop_reading (h : s.mot.state = .streamingRead) (place : Nat) :
    ∃ m, requestStop place s = { s with fmt.slots := [], mot := m } ∧ StopsReading place s.mot m := by
  have hclose : closeRowTime { s with mot.splice := some place, mot.startKind := some .read }
      = { s with fmt.slots := [], mot.splice := some place, mot.startKind := some .read } := by
    unfold closeRowTime
    dsimp only
    rw [h]
    rfl
  have hstop : requestStop place s = enterStopping .runUp { s with mot.splice := some place, mot.startKind := some .read } := by
    unfold requestStop
    rw [h]
  obtain ⟨n, hn⟩ : ∃ n, (if s.mot.lock = .locked && LockLevel.unlocked ≠ .locked then bump s.mot.lockLosses
      else s.mot.lockLosses) = n := ⟨_, rfl⟩
  refine ⟨{ s.mot with splice := some place, startKind := some .read, lock := .unlocked, lockCount := 0, lockLosses := n,
                       state := .stopping, limitTimer := none, dwellTimer := none, afterRest := .runUp, runOn := .none },
    ?_, ⟨rfl, rfl⟩, ⟨rfl, rfl⟩, ⟨rfl, rfl, rfl⟩, ⟨rfl, rfl, rfl⟩⟩
  rw [hstop]
  unfold enterStopping dropLock setLock
  rw [hclose, ← hn]

/-- FMT has nothing to go on with while the tape is brought to a stop. -/
theorem fmtAtRest_stopping {m : Mot} (h : fmtAtRest s) (hm : m.state = .stopping) :
    fmtAtRest { s with fmt.slots := [], mot := m } := by
  obtain ⟨hplace, hread⟩ := h
  refine ⟨?_, hread⟩
  have hstands : tapeStands m = false := by
    unfold tapeStands
    rw [hm]
    rfl
  rcases hplace with h | h | ⟨hphase, hwork, -, -⟩ | h
  · exact .inl h
  · exact .inr (.inl h)
  · exact .inr (.inr (.inl ⟨hphase, hwork, hstands, .inl rfl⟩))
  · exact .inr (.inr (.inr h))

/-- A restart at a place while the tape reads: it is brought to a stop first. -/
theorem restartAt_reading (h : s.mot.state = .streamingRead) (place : Nat) : ∃ m,
    restartAt place .read s = { s with fmt.slots := [], mot := m }
      ∧ m.state = .stopping ∧ m.afterRest = .runUp ∧ m.splice = some place ∧ m.held = some (.start (some place) .read)
      ∧ m.lock = .unlocked ∧ m.lockCount = 0 ∧ m.limitTimer = none ∧ m.pos = s.mot.pos := by
  obtain ⟨m, hm, hs⟩ := requestStop_reading (s := dropWaiting s) h place
  refine ⟨{ m with held := some (.start (some place) .read) }, ?_, hs.state.1, hs.state.2, hs.splice.1, rfl, hs.lock.1,
    hs.lock.2.1, hs.lock.2.2, hs.kept.1⟩
  unfold restartAt
  rw [h]
  dsimp only
  rw [hm]
  rfl

/-- The tape stopped where the heads stand, while it reads. -/
theorem stopHere_reading {p : Pos} (h : s.mot.state = .streamingRead) (hp : s.mot.pos = some p) : ∃ m,
    stopHere s = { s with fmt.slots := [], mot := m } ∧ m.state = .stopping ∧ m.lock = .unlocked := by
  obtain ⟨m, hm, hs⟩ := requestStop_reading (s := dropWaiting { s with mot.locate := none }) h (serpentine s p.wrap p.index)
  refine ⟨m, ?_, hs.state.1, hs.lock.1⟩
  have hhead : headPlace (dropWaiting { s with mot.locate := none }) = some (serpentine s p.wrap p.index) := by
    unfold headPlace
    rw [show (dropWaiting { s with mot.locate := none }).mot.pos = some p from hp]
    rfl
  unfold stopHere
  dsimp only
  rw [hhead]
  exact hm

/-! ### The blank run's limit -/

theorem exec_blankRunLimit (h : s.mot.state = .streamingRead) : exec .blankRunLimit s = .next (finish (blankLimit s)) := by
  change execBlankRunLimit s = _
  unfold execBlankRunLimit
  rw [if_pos h]

theorem exec_blankRunLimit_elsewhere (h : s.mot.state ≠ .streamingRead) : exec .blankRunLimit s = .next s := by
  change execBlankRunLimit s = _
  unfold execBlankRunLimit
  rw [if_neg h]

theorem blankLimit_rebuild {r : Rebuild} (h : s.cml.rebuild = some r) : blankLimit s
    = if (if r.endScan then decide (s.rdc.blankRun = 2000) else decide (2000 ≤ r.passed)) = true then
        (if r.endScan then endEndScan s else endHeaderScan s) else s := by
  unfold blankLimit rebuildLimit endScanNow
  rw [h, Option.isSome_some, if_pos rfl]

/-- A locate in progress fails, nothing else being in hand. -/
theorem exec_blankRunLimit_locate {p : Pos} (h : Idle s) (hm : s.mot.state = .streamingRead) (hr : s.cml.rebuild = none)
    (hb : 2000 ≤ s.rdc.blankRun) (hl : s.mot.locate.isSome = true) (hp : s.mot.pos = some p) :
    ∃ t, exec .blankRunLimit s = .next t ∧ t.mot.locate = none ∧ t.mot.state = .stopping
      ∧ t.mot.splice = some (serpentine s p.wrap p.index) ∧ t.mot.startKind = some .read
      ∧ t.mot.lock = .unlocked ∧ t.mot.lockCount = 0 ∧ t.mem = s.mem ∧ t.exu = s.exu ∧ t.bsm = s.bsm := by
  obtain ⟨m, hstop, hs⟩ := requestStop_reading (s := { s with mot.locate := none }) hm (serpentine s p.wrap p.index)
  have hlimit : blankLimit s = failLocate s := by
    unfold blankLimit
    rw [if_neg (by rw [hr]; exact Bool.false_ne_true), if_neg (by omega), if_pos hl]
  have hfail : failLocate s = emit .locateFailed { s with fmt.slots := [], mot := m } := by
    unfold failLocate
    rw [show headPlace s = some (serpentine s p.wrap p.index) by unfold headPlace; rw [hp], Option.getD_some, hstop]
  have ht : Idle { s with fmt.slots := [], mot := m } :=
    ⟨h.sig, h.stopped, h.noFetch, h.session, h.noRow, h.decoder, h.noAppend, h.record, h.noSearch, h.port⟩
  have hans : answerSignal .locateFailed { s with fmt.slots := [], mot := m } = { s with fmt.slots := [], mot := m } := by
    change onLocateFailed { s with fmt.slots := [], mot := m } = _
    unfold onLocateFailed
    dsimp only
    rw [h.noSearch]
  refine ⟨{ s with fmt.slots := [], mot := m }, ?_, hs.kept.2.1, hs.state.1, hs.splice.1, hs.splice.2, hs.lock.1, hs.lock.2.1,
    rfl, rfl, rfl⟩
  rw [exec_blankRunLimit hm, hlimit, hfail, finish_emit ht hans ht]

/-- The header scan over, a header having been found: the end scan begins at the last one. -/
theorem exec_blankRunLimit_header {r : Rebuild} {p : Pos} (h : Rebuilding r p s) (hscan : r.endScan = false)
    (hpassed : 2000 ≤ r.passed) (hfound : r.found ≠ []) :
    ∃ t, exec .blankRunLimit s = .next t ∧ RestartsAt r.place s t
      ∧ t.cml = { s.cml with rebuild := some { r with endScan := true } } := by
  obtain ⟨m, hm, hstate, hrest, hsplice, hheld, hlock, hcount, hlimit, hpos⟩ := restartAt_reading (place := r.place)
    (s := { s with cml.rebuild := some { r with endScan := true }, rdc.blankRun := 0, rdc.blankStart := none }) h.reads.1
  have hend : blankLimit s = { s with
      cml.rebuild := some { r with endScan := true }, rdc.blankRun := 0, rdc.blankStart := none, fmt.slots := [], mot := m } := by
    rw [blankLimit_rebuild h.rebuild, hscan, if_neg Bool.false_ne_true, if_pos (decide_eq_true hpassed),
      if_neg Bool.false_ne_true]
    unfold endHeaderScan
    rw [h.rebuild]
    dsimp only
    rw [if_neg (by rw [List.isEmpty_iff]; exact hfound), hm]
  have hcalm : Calm { s with
      cml.rebuild := some { r with endScan := true }, rdc.blankRun := 0, rdc.blankStart := none, fmt.slots := [], mot := m } :=
    ⟨h.sig, fmtAtRest_stopping h.fmt hstate, ⟨.inl h.session, h.rdc.2⟩, h.dcp, h.cml⟩
  refine ⟨_, (exec_blankRunLimit h.reads.1).trans (by rw [hend, finish_rest hcalm h.port]), ?_, rfl⟩
  exact ⟨⟨hstate, hrest⟩, ⟨hsplice, hheld⟩, ⟨hlock, hcount, hlimit⟩, ⟨rfl, rfl⟩, ⟨hpos, rfl, rfl, rfl, rfl⟩⟩

/-! ### A rebuild done -/

/-- CML as a rebuild done leaves it. -/
def rebuiltCml (s : State) (e : EodFound) (parts : List DirPart) : Cml := { s.cml with
  copy := s.cml.copy.map (fun c => { c with directory := directoryOf c.geometry.wraps parts }),
  map := some ⟨e.object, e.bundle, e.place / wrapLength s, e.place % wrapLength s⟩, rebuilt := true, state := .loaded,
  rebuild := none }

theorem rebuilt_wrapLength (s : State) (parts : List DirPart) :
    wrapLength { s with cml.copy := s.cml.copy.map (fun c => { c with directory := directoryOf c.geometry.wraps parts }) }
      = wrapLength s := by
  unfold wrapLength geometry
  cases s.cml.copy <;> rfl

theorem finishRebuild_eq (e : EodFound) (parts : List DirPart) (s : State) : finishRebuild e parts s
    = loadDone true (raise .directoryStale e.bundle ((s.cml.stale.map (fun r => r.code)).getD 0) 0
        (stopHere { s with cml := rebuiltCml s e parts })) := by
  have hset : setEndPosition e.place
      { updateCopy (fun c => { c with directory := directoryOf c.geometry.wraps parts }) s with
        cml.map := some ⟨e.object, e.bundle, 0, 0⟩, cml.rebuilt := true, cml.state := .loaded, cml.rebuild := none }
      = { s with cml := rebuiltCml s e parts } := by
    unfold rebuiltCml
    rw [← rebuilt_wrapLength s parts]
    rfl
  unfold finishRebuild
  dsimp only
  rw [hset]
  unfold rebuiltCml
  cases s.cml.stale <;> rfl

/-- A rebuild done with values found, in a state that reads the tape for a LOAD. -/
theorem finishRebuild_done {r : Rebuild} {p : Pos} {o : OrderRec} (h : Rebuilding r p s) (ho : s.ord.record = some o)
    (hk : kindOfCode o.kind = some .load) (ha : s.exu.active.isSome = true) (hn : noneWaits s) {e : EodFound}
    {parts : List DirPart} {part : Nat → Option DirPart} (hpart : ∀ i, parts[i]? = part i) :
    ∃ q u, finish (finishRebuild e parts s) = finishActive q u ∧ RebuildDone e.bundle e.object e.place part s q u := by
  obtain ⟨code, hcode⟩ : ∃ code, (s.cml.stale.map (fun r => r.code)).getD 0 = code := ⟨_, rfl⟩
  obtain ⟨m, hstop, hstate, hlock⟩ := stopHere_reading (s := { s with cml := rebuiltCml s e parts }) h.reads.1 h.reads.2.1
  obtain ⟨mem, exu, g1, g2, hraise⟩ := raise_same .directoryStale e.bundle code 0 s
  have hrs := hraise s .rfl
  have hry := hraise { s with cml := rebuiltCml s e parts, fmt.slots := [], mot := m } ⟨rfl, rfl, rfl, rfl⟩
  have hport := portAtRest_raise h.port .directoryStale e.bundle code 0
  have hactive : (raise .directoryStale e.bundle code 0 s).exu.active = s.exu.active := raise_exu_active ..
  have hwaits : noneWaits (raise .directoryStale e.bundle code 0 s) := by
    unfold noneWaits
    rw [raise_exu_postMark, raise_exu_takenMark]
    exact hn
  rw [hrs] at hport hactive hwaits
  obtain ⟨z, hz⟩ : ∃ z, z = { exchanged mem exu g1 g2 { s with cml := rebuiltCml s e parts, fmt.slots := [], mot := m } with
      bsm.sealedThrough := e.bundle, bsm.writtenThrough := e.bundle, bsm.verifiedThrough := e.bundle, ord.position := 0 } :=
    ⟨_, rfl⟩
  have hkz : takenKind z = some .load := by
    unfold takenKind
    rw [hz]
    change (match s.ord.record with | some r => kindOfCode r.kind | none => none) = _
    rw [ho]
    exact hk
  have hew : ewBit z = 0 := by
    unfold ewBit takenWrites
    rw [hkz]
    exact if_neg (by simp)
  have hdone : finishRebuild e parts s = finishActive ⟨.ok, .none, resultFlags z true s.ord.discardSeen false, loadTypeCode z, 0,
      e.object, e.bundle, []⟩ (endSession z) := by
    rw [finishRebuild_eq, hcode, hstop, hry]
    change completeFull .ok .none 0 true { exchanged mem exu g1 g2
      { s with cml := rebuiltCml s e parts, fmt.slots := [], mot := m } with
        bsm.sealedThrough := e.bundle, bsm.writtenThrough := e.bundle, bsm.verifiedThrough := e.bundle, ord.position := 0 } = _
    rw [← hz, completeFull_load hkz, hz]
    rfl
  have hflags : resultFlags z true s.ord.discardSeen false = 2 + 4 * s.ord.discardSeen.toNat := by
    unfold resultFlags
    rw [hew]
    cases s.ord.discardSeen <;> rfl
  refine ⟨⟨.ok, .none, resultFlags z true s.ord.discardSeen false, loadTypeCode z, 0, e.object, e.bundle, []⟩, endSession z,
    ?_, ?_⟩
  · rw [hdone]
    exact finish_completed (by rw [hz]; exact h.sig) (by rw [hz]; exact fmtAtRest_stopping h.fmt hstate)
      (by rw [hz]; exact ⟨.inl h.session, h.rdc.2⟩) (by rw [hz]; exact hport) (by rw [hz]; exact hwaits)
      (by rw [hz]; change exu.active.isSome = true; rw [show exu.active = s.exu.active from hactive]; exact ha) _
  · refine ⟨⟨rfl, hflags, rfl, rfl⟩, ?_, ?_, ?_, fun c hc => ?_, ?_, ?_, ?_, ?_⟩
    · rw [hz]; exact ⟨rfl, rfl, rfl⟩
    · rw [hz]; exact hport
    · rw [hz]; rfl
    · rw [hz]
      change s.cml.copy.map _ = _
      rw [hc, Option.map_some]
      unfold directoryOf
      simp only [hpart]
    · rw [hz]; exact ⟨rfl, rfl, rfl⟩
    · rw [hz]; rfl
    · rw [hcode, hrs, hz]; exact ⟨rfl, rfl⟩
    · rw [hz]; exact ⟨hstate, hlock⟩

/-! ### What the scans found -/

theorem foundParts_getElem? (len : Nat) : ∀ (l : List (Nat × Nat)) (i : Nat), (foundParts len l)[i]?
    = match l[i]?, l[i + 1]? with
      | some a, some b => some ⟨a.1, b.1 - a.1, a.2, b.2 - a.2, none, len⟩
      | _, _ => none
  | [], i => by simp [foundParts]
  | [a], i => by cases i <;> simp [foundParts]
  | a :: b :: l, 0 => by simp [foundParts]
  | a :: b :: l, i + 1 => by
    rw [foundParts, List.getElem?_cons_succ, foundParts_getElem? len (b :: l) i]
    simp

theorem foundParts_length (len : Nat) : ∀ l : List (Nat × Nat), (foundParts len l).length = l.length - 1
  | [] => rfl
  | [_] => rfl
  | a :: b :: l => by rw [foundParts, List.length_cons, foundParts_length len (b :: l)]; simp

/-- The optional parts of the wraps found before the last are those that the rebuild gives them. -/
theorem foundParts_before (s : State) {before : List (Nat × Nat)} {last : Nat × Nat} (b o place : Nat) {i : Nat}
    (hi : i < before.length) :
    (foundParts (wrapLength s) (before ++ [last]))[i]? = rebuiltPart s (before ++ [last]) b o place i := by
  obtain ⟨x, hx⟩ : ∃ x, (before ++ [last])[i]? = some x :=
    Option.isSome_iff_exists.1 (by rw [List.getElem?_eq_getElem (by simp; omega)]; rfl)
  obtain ⟨y, hy⟩ : ∃ y, (before ++ [last])[i + 1]? = some y :=
    Option.isSome_iff_exists.1 (by rw [List.getElem?_eq_getElem (by simp; omega)]; rfl)
  rw [foundParts_getElem?]
  unfold rebuiltPart
  rw [hx, hy]

/-- The parts that the end scan leaves where the last wrap holds a bundle. -/
theorem parts_withLast (s : State) (before : List (Nat × Nat)) (last : Nat × Nat) (e : EodFound) (i : Nat) :
    (foundParts (wrapLength s) (before ++ [last]) ++ [lastPart s before.length last.1 last.2 e])[i]?
      = rebuiltPart s (before ++ [last]) e.bundle e.object e.place i := by
  have hlen : (foundParts (wrapLength s) (before ++ [last])).length = before.length := by
    rw [foundParts_length, List.length_append, List.length_singleton, Nat.add_sub_cancel]
  rcases Nat.lt_trichotomy i before.length with hi | rfl | hi
  · rw [List.getElem?_append_left (by omega), foundParts_before s e.bundle e.object e.place hi]
  · rw [List.getElem?_append_right (by omega), hlen, Nat.sub_self]
    unfold rebuiltPart lastPart
    rw [List.getElem?_append_right (Nat.le_refl _), Nat.sub_self, List.getElem?_eq_none (i := before.length + 1) (by simp)]
    rfl
  · rw [List.getElem?_eq_none (by rw [List.length_append, hlen]; exact hi)]
    unfold rebuiltPart
    rw [List.getElem?_eq_none (i := i) (by rw [List.length_append]; exact hi)]

/-- The parts that the end scan leaves where the last wrap holds none. -/
theorem parts_withoutLast (s : State) (before : List (Nat × Nat)) (last : Nat × Nat) (b o place i : Nat) :
    (foundParts (wrapLength s) (before ++ [last]) ++ [])[i]?
      = if i < before.length then rebuiltPart s (before ++ [last]) b o place i else none := by
  rw [List.append_nil]
  by_cases hi : i < before.length
  · rw [if_pos hi, foundParts_before s b o place hi]
  · rw [if_neg hi, List.getElem?_eq_none (by rw [foundParts_length, List.length_append, List.length_singleton]; omega)]

theorem highestComplete_none : ∀ {l : List Tally}, (∀ x ∈ l, tallyComplete x = false) → highestComplete l = none
  | [], _ => rfl
  | t :: l, h => by
    unfold highestComplete
    rw [highestComplete_none fun x hx => h x (List.mem_cons_of_mem _ hx), h t List.mem_cons_self]
    rfl

theorem highestComplete_some : ∀ {l : List Tally} {u : Tally}, highestComplete l = some u → u ∈ l ∧ tallyComplete u = true
  | t :: l, u, h => by
    unfold highestComplete at h
    cases hl : highestComplete l with
    | none =>
      rw [hl] at h
      by_cases ht : tallyComplete t = true
      · rw [if_pos ht] at h
        cases h
        exact ⟨List.mem_cons_self, ht⟩
      · rw [if_neg ht] at h
        cases h
    | some v =>
      rw [hl] at h
      dsimp only at h
      by_cases ht : (tallyComplete t && decide (v.bundle < t.bundle)) = true
      · rw [if_pos ht] at h
        cases h
        rw [Bool.and_eq_true] at ht
        exact ⟨List.mem_cons_self, ht.1⟩
      · rw [if_neg ht] at h
        cases h
        obtain ⟨hm, hc⟩ := highestComplete_some hl
        exact ⟨List.mem_cons_of_mem _ hm, hc⟩

/-- The complete tally of the highest bundle is the one the end scan finds. -/
theorem highestComplete_eq : ∀ {l : List Tally} {x : Tally}, x ∈ l → tallyComplete x = true →
    (∀ y ∈ l, tallyComplete y = true → y = x ∨ y.bundle < x.bundle) → highestComplete l = some x
  | t :: l, x, hx, hc, h => by
    have hrest : ∀ y ∈ l, tallyComplete y = true → y = x ∨ y.bundle < x.bundle := fun y hy =>
      h y (List.mem_cons_of_mem _ hy)
    unfold highestComplete
    by_cases hmem : x ∈ l
    · rw [highestComplete_eq hmem hc hrest]
      dsimp only
      refine if_neg fun ht => ?_
      rw [Bool.and_eq_true, decide_eq_true_iff] at ht
      rcases h t List.mem_cons_self ht.1 with rfl | hlt
      · exact absurd ht.2 (Nat.lt_irrefl _)
      · omega
    · obtain rfl : x = t := (List.mem_cons.1 hx).resolve_right hmem
      cases hl : highestComplete l with
      | none =>
        dsimp only
        rw [if_pos hc]
      | some u =>
        obtain ⟨hu, huc⟩ := highestComplete_some hl
        dsimp only
        rcases hrest u hu huc with rfl | hlt
        · exact absurd hu hmem
        · rw [if_pos (by rw [hc, decide_eq_true hlt]; rfl)]

theorem latestUpTo_eq (b : Nat) : ∀ (l : List Tally) (m : Nat), l.foldl (fun m t => if t.bundle ≤ b then max m t.latest else m) m
    = ((l.filter (fun y => y.bundle ≤ b)).map (fun y => y.latest)).foldl max m
  | [], _ => rfl
  | t :: l, m => by
    rw [List.foldl_cons, latestUpTo_eq b l]
    by_cases ht : t.bundle ≤ b
    · rw [if_pos ht, List.filter_cons_of_pos (by simpa using ht), List.map_cons, List.foldl_cons]
    · rw [if_neg ht, List.filter_cons_of_neg (by simpa using ht)]

/-! ### The ends of the scans -/

/-- The header scan over with no header found: the cartridge is blank. -/
theorem exec_blankRunLimit_blank {r : Rebuild} {p : Pos} {o : OrderRec} (h : Rebuilding r p s) (ho : s.ord.record = some o)
    (hk : kindOfCode o.kind = some .load) (ha : s.exu.active.isSome = true) (hn : noneWaits s) (hscan : r.endScan = false)
    (hpassed : 2000 ≤ r.passed) (hfound : r.found = []) :
    ∃ q u, exec .blankRunLimit s = .next (finishActive q u) ∧ RebuildDone 0 0 0 (fun _ => none) s q u := by
  obtain ⟨q, u, hf, hd⟩ := finishRebuild_done h ho hk ha hn (e := ⟨0, 0, 0⟩) (parts := []) (part := fun _ => none)
    fun _ => rfl
  refine ⟨q, u, ?_, hd⟩
  rw [exec_blankRunLimit h.reads.1, blankLimit_rebuild h.rebuild, hscan, if_neg Bool.false_ne_true,
    if_pos (decide_eq_true hpassed), if_neg Bool.false_ne_true, ← hf]
  unfold endHeaderScan
  rw [h.rebuild]
  dsimp only
  rw [if_pos (by rw [hfound]; rfl)]

/-- The end scan over, with what it found. -/
theorem exec_blankRunLimit_end {r : Rebuild} {p : Pos} {o : OrderRec} (h : Rebuilding r p s) (ho : s.ord.record = some o)
    (hk : kindOfCode o.kind = some .load) (ha : s.exu.active.isSome = true) (hn : noneWaits s) (hscan : r.endScan = true)
    (hblank : s.rdc.blankRun = 2000) {e : EodFound} {d : Option DirPart} (he : endFound s r = (e, d))
    {part : Nat → Option DirPart} (hpart : ∀ i, (foundParts (wrapLength s) r.found ++ d.toList)[i]? = part i) :
    ∃ q u, exec .blankRunLimit s = .next (finishActive q u) ∧ RebuildDone e.bundle e.object e.place part s q u := by
  obtain ⟨q, u, hf, hd⟩ := finishRebuild_done h ho hk ha hn (e := e) hpart
  refine ⟨q, u, ?_, hd⟩
  rw [exec_blankRunLimit h.reads.1, blankLimit_rebuild h.rebuild, hscan, if_pos rfl, if_pos (decide_eq_true hblank),
    if_pos rfl, ← hf]
  unfold endEndScan
  rw [h.rebuild]
  dsimp only
  rw [he]

theorem endFound_some {r : Rebuild} {before : List (Nat × Nat)} {last : Nat × Nat} {x : Tally} {object : Nat}
    (hf : r.found = before ++ [last]) (hx : highestComplete r.tallies = some x) (ho : x.lastObject = some object)
    (hl : last.1 ≤ x.bundle) : endFound s r =
      (⟨x.bundle + 1, object + 1, latestUpTo x.bundle r.tallies + 1⟩, some (lastPart s before.length last.1 last.2
        ⟨x.bundle + 1, object + 1, latestUpTo x.bundle r.tallies + 1⟩)) := by
  unfold endFound
  rw [hf, hx]
  dsimp only
  rw [List.getLast?_concat, Option.getD_some, List.length_append, List.length_singleton, Nat.add_sub_cancel, if_pos hl, ho,
    Option.getD_some]

theorem endFound_none {r : Rebuild} {before : List (Nat × Nat)} {last : Nat × Nat} (hf : r.found = before ++ [last])
    (hx : highestComplete r.tallies = none) : endFound s r = (⟨last.1, last.2, serpentine s before.length 0⟩, none) := by
  unfold endFound
  rw [hf, hx]
  dsimp only
  rw [List.getLast?_concat, Option.getD_some, List.length_append, List.length_singleton, Nat.add_sub_cancel]

/-- Settles O45: outside a rebuild a locate fails at the limit; in one the limit ends the scan that runs. -/
theorem blankRunLimitFailsLocate : Obligations.BlankRunLimitFailsLocate := by
  refine ⟨fun p s h => ⟨exec_blankRunLimit_elsewhere, fun hm hr hb => ?_, fun hm hr hb hl hp =>
    exec_blankRunLimit_locate h hm hr hb hl hp⟩, fun r p o s h => ⟨fun hscan hp => ?_, fun hscan hb => ?_,
      fun hscan hp hf => exec_blankRunLimit_header h hscan hp hf, fun ho hk ha hn => ⟨fun hscan hp hf =>
        exec_blankRunLimit_blank h ho hk ha hn hscan hp hf, fun before last hscan hblank hf => ⟨?_, ?_⟩⟩⟩⟩
  · have hlimit : blankLimit s = s := by
      unfold blankLimit
      rw [if_neg (by rw [hr]; exact Bool.false_ne_true), if_pos hb]
    rw [exec_blankRunLimit hm, hlimit, finish_idle h]
  · rw [exec_blankRunLimit h.reads.1, blankLimit_rebuild h.rebuild, hscan, if_neg Bool.false_ne_true,
      if_neg (by rw [decide_eq_true_iff]; omega), finish_rest h.toCalm h.port]
  · rw [exec_blankRunLimit h.reads.1, blankLimit_rebuild h.rebuild, hscan, if_pos rfl,
      if_neg (by rw [decide_eq_true_iff]; omega), finish_rest h.toCalm h.port]
  · intro x object hx hc hobj hl hhigh
    dsimp only
    rw [← latestUpTo_eq]
    refine exec_blankRunLimit_end h ho hk ha hn hscan hblank
      (endFound_some hf (highestComplete_eq hx hc hhigh) hobj hl) fun i => ?_
    rw [hf]
    exact parts_withLast s before last ⟨x.bundle + 1, object + 1, latestUpTo x.bundle r.tallies + 1⟩ i
  · intro hnone
    refine exec_blankRunLimit_end h ho hk ha hn hscan hblank (endFound_none hf (highestComplete_none hnone)) fun i => ?_
    rw [hf]
    exact parts_withoutLast s before last last.1 last.2 (serpentine s before.length 0) i

end Sys2Proof.Machine
end

section
/-! SUPPORT. A row time boundary with nothing but MOT at work (R94 to R96, R99, R100, R102, R106). -/

namespace Sys2Proof.Machine

variable {s : State}

/-! ### The boundary, by motion state -/

theorem exec_rowTimeBoundary {p : Pos} (hp : s.mot.pos = some p) :
    exec .rowTimeBoundary s = .next (finish (rowBoundary p s)) := by
  change execRowTimeBoundary s = _
  unfold execRowTimeBoundary
  rw [hp]

theorem moveOne_eq {p : Pos} (hp : s.mot.pos = some p) : moveOne s = { s with mot.pos := some { p with
    index := if p.dir = wrapDirection p.wrap then min (p.index + 1) (wrapLength s - 1) else p.index - 1 } } := by
  unfold moveOne
  rw [hp, Option.map_some]
  split_ifs <;> rfl

theorem atIndex_eq {p : Pos} (hp : s.mot.pos = some p) (i : Nat) :
    atIndex i s = { s with mot.pos := some { p with index := i } } := by
  unfold atIndex
  rw [hp, Option.map_some]

/-- An idle part stays so over what FMT and the heads note of a row time. -/
theorem Idle.rowTime (h : Idle s) (m : Mot) (slots : List Nat) (n : Nat) (hs : List (Nat × TapeRow)) (r : Rdc)
    (hr : r = { s.rdc with rowTime := r.rowTime }) :
    Idle { s with mot := m, fmt.slots := slots, fmt.blankSlots := n, writeHeads := hs, rdc := r } := by
  rw [hr]
  exact ⟨h.sig, h.stopped, h.noFetch, h.session, h.noRow, h.decoder, h.noAppend, h.record, h.noSearch, h.port⟩

theorem Idle.finish_tape (h : Idle s) (m : Mot) : finish { s with mot := m } = { s with mot := m } :=
  finish_idle (h.tape m s.cml)

theorem exec_rowTimeBoundary_moves {p : Pos} (h : Idle s) (hp : s.mot.pos = some p)
    (hm : s.mot.state = .travel ∨ s.mot.state = .repositioning ∨ s.mot.state = .stopping) :
    exec .rowTimeBoundary s = .next { s with mot.pos := some { p with
      index := if p.dir = wrapDirection p.wrap then min (p.index + 1) (wrapLength s - 1) else p.index - 1 } } := by
  have hrow : rowBoundary p s = moveOne s := by
    unfold rowBoundary
    rcases hm with hm | hm | hm <;> rw [hm]
  rw [exec_rowTimeBoundary hp, hrow, moveOne_eq hp]
  exact congrArg Host.Outcome.next (h.finish_tape _)

theorem rowBoundary_starting (p : Pos) (hm : s.mot.state = .starting) : rowBoundary p s = startingBoundary p s := by
  unfold rowBoundary
  rw [hm]

theorem exec_rowTimeBoundary_nearer {p : Pos} {sp : Nat} (h : Idle s) (hp : s.mot.pos = some p) (hm : s.mot.state = .starting)
    (hs : s.mot.splice = some sp) (hlt : p.index + 1 < (placeOf s sp).2) :
    exec .rowTimeBoundary s = .next { s with mot.pos := some { p with index := p.index + 1 } } := by
  have hb : startingBoundary p s = atIndex (p.index + 1) s := by
    unfold startingBoundary
    rw [hs, Option.getD_some]
    exact if_neg (by omega)
  rw [exec_rowTimeBoundary hp, rowBoundary_starting p hm, hb, atIndex_eq hp]
  exact congrArg Host.Outcome.next (h.finish_tape _)

/-- At the splice point the streaming state asked for is entered. -/
theorem startingBoundary_reached {p : Pos} {sp : Nat} {k : StartKind} (hp : s.mot.pos = some p) (hs : s.mot.splice = some sp)
    (hk : s.mot.startKind = some k) (hle : (placeOf s sp).2 ≤ p.index + 1) :
    startingBoundary p s = enterStreaming k { s with mot.pos := some { p with index := (placeOf s sp).2 } } := by
  unfold startingBoundary
  rw [hs, hk, Option.getD_some, Option.getD_some]
  dsimp only
  rw [if_pos hle, atIndex_eq hp]

theorem exec_rowTimeBoundary_reads {p : Pos} {sp : Nat} (h : Idle s) (hp : s.mot.pos = some p) (hm : s.mot.state = .starting)
    (hs : s.mot.splice = some sp) (hk : s.mot.startKind = some .read) (hle : (placeOf s sp).2 ≤ p.index + 1) :
    exec .rowTimeBoundary s =
      .next { s with mot.pos := some { p with index := (placeOf s sp).2 }, mot.state := .streamingRead,
                     mot.splice := none, mot.startKind := none, rdc.rowTime := none } := by
  rw [exec_rowTimeBoundary hp, rowBoundary_starting p hm, startingBoundary_reached hp hs hk hle]
  exact congrArg Host.Outcome.next (finish_idle (h.rowTime { s.mot with
    pos := some { p with index := (placeOf s sp).2 }, state := .streamingRead, splice := none, startKind := none }
    s.fmt.slots s.fmt.blankSlots s.writeHeads { s.rdc with rowTime := none } rfl))

/-! ### A row time of STREAMING_WRITE offered (R42, R96) -/

theorem mem_numbered {α : Type} {x : α} : ∀ (l : List α) (n c : Nat), (c, x) ∈ numbered n l ↔ n ≤ c ∧ l[c - n]? = some x
  | [], n, c => by simp [numbered]
  | y :: l, n, c => by
    rw [numbered, List.mem_cons, mem_numbered l (n + 1) c]
    rcases Nat.lt_trichotomy c n with h | rfl | h
    · constructor
      · rintro (h' | h')
        · cases h'; omega
        · omega
      · omega
    · simp [eq_comm]
    · obtain ⟨k, hk⟩ : ∃ k, c - n = k + 1 := ⟨c - n - 1, by omega⟩
      rw [hk, List.getElem?_cons_succ, show c - (n + 1) = k by omega]
      constructor
      · rintro (h' | h')
        · cases h'; omega
        · exact ⟨by omega, h'.2⟩
      · exact fun h' => .inr ⟨by omega, h'.2⟩

theorem mem_activeChannels (hcm : Hcm) (c : Nat) : c ∈ activeChannels hcm ↔ (hcm.channels[c]?).any (fun x => x.active) = true := by
  unfold activeChannels
  rw [List.mem_filterMap, Option.any_eq_true]
  constructor
  · rintro ⟨⟨d, x⟩, hm, hx⟩
    obtain ⟨-, hx'⟩ := (mem_numbered _ _ _).1 hm
    dsimp only at hx
    by_cases ha : x.active = true
    · rw [if_pos ha] at hx
      cases hx
      exact ⟨x, hx', ha⟩
    · rw [if_neg ha] at hx
      cases hx
  · rintro ⟨x, hx, ha⟩
    exact ⟨(c, x), (mem_numbered _ _ _).2 ⟨Nat.zero_le _, hx⟩, if_pos ha⟩

theorem numbered_pairwise {α : Type} : ∀ (l : List α) (n : Nat), (numbered n l).Pairwise (fun x y => x.1 < y.1)
  | [], _ => List.Pairwise.nil
  | x :: l, n => by
    refine List.Pairwise.cons (fun y hy => ?_) (numbered_pairwise l (n + 1))
    obtain ⟨h, -⟩ := (mem_numbered l (n + 1) y.1).1 hy
    exact h

theorem activeChannels_pairwise (hcm : Hcm) : (activeChannels hcm).Pairwise (· < ·) := by
  unfold activeChannels
  refine (numbered_pairwise hcm.channels 0).filterMap _ fun x y hxy a ha b hb => ?_
  by_cases hx : x.2.active = true
  · by_cases hy : y.2.active = true
    · rw [if_pos hx] at ha
      rw [if_pos hy] at hb
      cases ha
      cases hb
      exact hxy
    · rw [if_neg hy] at hb
      cases hb
  · rw [if_neg hx] at ha
    cases ha

/-- The early-warning position lies at or before a place, and its crossing has not been reported. -/
def Crosses (s : State) (p : Pos) : Prop := s.mot.ewReported = false ∧ p.wrap + 1 = (geometry s).wraps
  ∧ min ((geometry s).length - (geometry s).margin) ((geometry s).length - 1) ≤ p.index

theorem crossEarlyWarning_crosses {p : Pos} (hp : s.mot.pos = some p) (h : Crosses s p) :
    crossEarlyWarning s = earlyWarning { s with mot.ewReported := true } := by
  obtain ⟨hr, hw, hi⟩ := h
  unfold crossEarlyWarning
  rw [hp]
  exact if_pos (by simp [hr, hw, earlyWarningIndex]; omega)

theorem crossEarlyWarning_passes {p : Pos} (hp : s.mot.pos = some p) (h : ¬Crosses s p) : crossEarlyWarning s = s := by
  unfold crossEarlyWarning
  rw [hp]
  dsimp only
  refine if_neg fun hc => h ?_
  simp only [Bool.and_eq_true, Bool.not_eq_true', decide_eq_true_eq] at hc
  exact ⟨hc.1.1, hc.1.2, hc.2⟩

/-- A row time that begins in a state at a place, as the statements speak of it from a state before. -/
theorem rowTimeOffered_begin {z : State} {p : Pos} (hp : z.mot.pos = some p) (hm : z.mot.state = .streamingWrite)
    (hs : SameExchange z s) (hcml : z.cml = s.cml) (hhcm : z.hcm = s.hcm) (hew : z.fmt.ewFlag = s.fmt.ewFlag)
    (hlast : z.fmt.lastPlaced = s.fmt.lastPlaced) : RowTimeOffered z.mot.ewReported p s (beginWriteRowTime z) := by
  obtain ⟨m, e, g1, g2, r, f, hb, -⟩ := beginWriteRowTime_frame z
  have hgeo : geometry z = geometry s := by unfold geometry; rw [hcml]
  have hcross : Crosses { z with fmt.slots := activeChannels z.hcm, writeHeads := [] } p ↔ z.mot.ewReported = false
      ∧ p.wrap + 1 = (geometry s).wraps
      ∧ min ((geometry s).length - (geometry s).margin) ((geometry s).length - 1) ≤ p.index := by
    rw [← hgeo]
    rfl
  constructor
  · rw [hb]
    exact ⟨hm, hp, rfl⟩
  · rw [hb]
    exact activeChannels_pairwise z.hcm
  · intro c
    rw [hb, ← hhcm]
    exact mem_activeChannels z.hcm c
  · intro h1 h2 h3
    have hbegin : beginWriteRowTime z = earlyWarning { z with
        fmt.slots := activeChannels z.hcm, writeHeads := [], mot.ewReported := true } :=
      crossEarlyWarning_crosses (s := { z with fmt.slots := activeChannels z.hcm, writeHeads := [] }) hp (hcross.2 ⟨h1, h2, h3⟩)
    rw [hbegin]
    unfold earlyWarning
    dsimp only
    by_cases hflag : z.fmt.ewFlag = true
    · rw [if_pos hflag, if_pos (hew.symm.trans hflag)]
      exact ⟨rfl, hflag, hs.exu, hs.mem⟩
    · rw [if_neg hflag, if_neg (fun hf => hflag (hew.trans hf)), ← hlast]
      have hsame : SameExchange { z with
          fmt.slots := activeChannels z.hcm, writeHeads := [], mot.ewReported := true, fmt.ewFlag := true } s := ⟨hs.mem, hs.exu, hs.time, hs.marb⟩
      have hr := hsame.raise .earlyWarning z.fmt.lastPlaced 0 0
      refine ⟨?_, ?_, hr.exu, hr.mem⟩
      · rw [raise_mot]
      · rw [raise_fmt]
  · intro h
    have hbegin : beginWriteRowTime z = { z with fmt.slots := activeChannels z.hcm, writeHeads := [] } :=
      crossEarlyWarning_passes (s := { z with fmt.slots := activeChannels z.hcm, writeHeads := [] }) hp fun hc => by
        obtain ⟨h1, h2, h3⟩ := hcross.1 hc
        rcases h with h | h | h
        · rw [h1] at h; cases h
        · exact h h2
        · omega
    rw [hbegin]
    exact ⟨rfl, hew, hs.exu, hs.mem⟩

theorem exec_rowTimeBoundary_writes {p : Pos} {sp : Nat} (h : Idle s) (hp : s.mot.pos = some p) (hm : s.mot.state = .starting)
    (hs : s.mot.splice = some sp) (hk : s.mot.startKind = some .write) (hle : (placeOf s sp).2 ≤ p.index + 1) :
    ∃ t, exec .rowTimeBoundary s = .next t ∧ RowTimeOffered false { p with index := (placeOf s sp).2 } s t
      ∧ t.mot.splice = none ∧ t.mot.startKind = none ∧ t.mot.lock = s.mot.lock ∧ t.bsm = s.bsm := by
  obtain ⟨m, hmot⟩ : ∃ m : Mot, m = { s.mot with
      pos := some { p with index := (placeOf s sp).2 }, splice := none, startKind := none, state := .streamingWrite
      ewReported := false } := ⟨_, rfl⟩
  have hx : rowBoundary p s = beginWriteRowTime { s with mot := m } := by
    rw [rowBoundary_starting p hm, startingBoundary_reached hp hs hk hle, hmot]
    rfl
  have hoff := rowTimeOffered_begin (s := s) (z := { s with mot := m }) (p := { p with index := (placeOf s sp).2 })
    (by rw [hmot]) (by rw [hmot]) ⟨rfl, rfl, rfl, rfl⟩ rfl rfl rfl rfl
  have hrep : m.ewReported = false := by rw [hmot]
  rw [show ({ s with mot := m } : State).mot.ewReported = false from hrep] at hoff
  refine ⟨_, (exec_rowTimeBoundary hp).trans (by rw [hx, finish_idle (h.tape m s.cml).beginWriteRowTime]), hoff, ?_⟩
  obtain ⟨mm, e, g1, g2, r, f, hb, -⟩ := beginWriteRowTime_frame { s with mot := m }
  rw [hb, hmot]
  exact ⟨rfl, rfl, rfl, rfl⟩

/-! ### The row time that ends (R45) -/

/-- The blank slots counted once the row time in hand has ended. -/
def closedBlanks (s : State) : Nat := (closeRowTime s).fmt.blankSlots

theorem closeRowTime_eq (s : State) : closeRowTime s = { s with fmt.slots := [], fmt.blankSlots := closedBlanks s } := rfl

theorem closedBlanks_write (hm : s.mot.state = .streamingWrite) : closedBlanks s
    = if s.mot.lock = .locked ∧ s.fmt.outBuffer = [] ∧ (s.fmt.cursor.isSome = true ∨ ∃ e ∈ s.fmt.rewrites, e.sent = false) then
        min (s.fmt.blankSlots + s.fmt.slots.length) 4294967295 else s.fmt.blankSlots := by
  have hblank : (decide (s.mot.state = .streamingWrite) && decide (s.mot.lock = .locked) && blankWork s.fmt) = true
      ↔ s.mot.lock = .locked ∧ s.fmt.outBuffer = []
        ∧ (s.fmt.cursor.isSome = true ∨ ∃ e ∈ s.fmt.rewrites, e.sent = false) := by
    unfold blankWork
    rw [hm]
    simp only [decide_true, Bool.true_and, Bool.and_eq_true, decide_eq_true_eq, Bool.or_eq_true, List.isEmpty_iff,
      List.any_eq_true, Bool.not_eq_true']
  unfold closedBlanks closeRowTime
  dsimp only
  by_cases h : s.mot.lock = .locked ∧ s.fmt.outBuffer = []
      ∧ (s.fmt.cursor.isSome = true ∨ ∃ e ∈ s.fmt.rewrites, e.sent = false)
  · rw [if_pos (hblank.2 h), if_pos h]
  · rw [if_neg (fun hb => h (hblank.1 hb)), if_neg h]

/-- A row time that has ended is not counted again. -/
theorem closedBlanks_again (hm : s.mot.state = .streamingWrite) (m : Mot) (hs : m.state = .streamingWrite)
    (hl : m.lock = s.mot.lock) (hs' : List (Nat × TapeRow)) :
    closedBlanks { s with fmt.slots := [], fmt.blankSlots := closedBlanks s, writeHeads := hs', mot := m } = closedBlanks s := by
  rw [closedBlanks_write (s := { s with fmt.slots := [], fmt.blankSlots := closedBlanks s, writeHeads := hs', mot := m }) hs]
  change (if m.lock = .locked ∧ s.fmt.outBuffer = [] ∧ (s.fmt.cursor.isSome = true ∨ ∃ e ∈ s.fmt.rewrites, e.sent = false) then
        min (closedBlanks s + 0) 4294967295 else closedBlanks s) = closedBlanks s
  rw [hl, closedBlanks_write hm]
  split_ifs
  · exact Nat.min_eq_left (Nat.min_le_right _ _)
  · rfl

theorem enterTurning_eq (k : StartKind) (s : State) : ∃ m, enterTurning k s
      = { s with fmt.slots := [], fmt.blankSlots := closedBlanks s, mot := m }
    ∧ m.state = .turning ∧ m.turnFrom = k ∧ m.lock = .unlocked ∧ m.lockCount = 0 ∧ m.limitTimer = none ∧ m.pos = s.mot.pos :=
  ⟨_, rfl, rfl, rfl, rfl, rfl, rfl, rfl⟩

theorem enterStopping_eq (r : AfterRest) (s : State) : ∃ m, enterStopping r s
      = { s with fmt.slots := [], fmt.blankSlots := closedBlanks s, mot := m }
    ∧ m.state = .stopping ∧ m.afterRest = r ∧ m.runOn = .none ∧ m.lock = .unlocked ∧ m.limitTimer = none
    ∧ m.splice = s.mot.splice ∧ m.startKind = s.mot.startKind ∧ m.pos = s.mot.pos :=
  ⟨_, rfl, rfl, rfl, rfl, rfl, rfl, rfl, rfl, rfl⟩

/-! ### Boundaries in STREAMING_READ (R99, R102) -/

theorem rowBoundary_reading (p : Pos) (hm : s.mot.state = .streamingRead) : rowBoundary p s = readBoundary p s := by
  unfold rowBoundary
  rw [hm]

theorem exec_rowTimeBoundary_within {p : Pos} (h : Idle s) (hp : s.mot.pos = some p) (hm : s.mot.state = .streamingRead)
    (hlt : p.index + 1 < wrapLength s) (hr : ∀ r, s.cml.rebuild = some r → r.endScan = true ∨ r.passed < 2000) :
    exec .rowTimeBoundary s = .next { s with mot.pos := some { p with index := p.index + 1 }, rdc.rowTime := none } := by
  have hover : headerScanOver { s with rdc.rowTime := none } = false := by
    unfold headerScanOver
    dsimp only
    cases hc : s.cml.rebuild with
    | none => rfl
    | some r =>
      dsimp only
      rcases hr r hc with he | hlt'
      · rw [he]
        rfl
      · rw [decide_eq_false (by omega), Bool.and_false]
  have hb : readBoundary p s = atIndex (p.index + 1) { s with rdc.rowTime := none } := by
    unfold readBoundary
    dsimp only
    rw [hover, if_neg Bool.false_ne_true]
    exact if_pos hlt
  rw [exec_rowTimeBoundary hp, rowBoundary_reading p hm, hb, atIndex_eq (s := { s with rdc.rowTime := none }) hp]
  exact congrArg Host.Outcome.next (finish_idle (h.rowTime { s.mot with pos := some { p with index := p.index + 1 } }
    s.fmt.slots s.fmt.blankSlots s.writeHeads { s.rdc with rowTime := none } rfl))

theorem readBoundary_wrapEnd {p : Pos} (he : p.index + 1 = wrapLength s) :
    readBoundary p s = readWrapEnd p { s with rdc.rowTime := none } := by
  unfold readBoundary
  exact if_neg (Nat.not_lt.2 he.ge)

theorem exec_rowTimeBoundary_readTurn {p : Pos} (h : Idle s) (hp : s.mot.pos = some p) (hm : s.mot.state = .streamingRead)
    (he : p.index + 1 = wrapLength s) (hw : p.wrap + 1 < (geometry s).wraps) (hr : s.cml.rebuild = none) :
    ∃ t, exec .rowTimeBoundary s = .next t ∧ t.mot.state = .turning ∧ t.mot.turnFrom = .read
      ∧ t.mot.lock = .unlocked ∧ t.mot.lockCount = 0 ∧ t.mot.limitTimer = none ∧ t.mot.pos = some p ∧ t.mem = s.mem := by
  obtain ⟨m, hturn, hst, hfrom, hlock, hcount, hlim, hpos⟩ := enterTurning_eq .read { s with rdc.rowTime := none }
  have hscan : headerScanOn { s with rdc.rowTime := none } = false := by
    unfold headerScanOn
    dsimp only
    rw [hr]
  have hb : readWrapEnd p { s with rdc.rowTime := none } = enterTurning .read { s with rdc.rowTime := none } := by
    unfold readWrapEnd
    rw [hscan, if_neg Bool.false_ne_true]
    exact if_neg (Nat.not_le.2 hw)
  have hid := h.rowTime m [] (closedBlanks { s with rdc.rowTime := none }) s.writeHeads { s.rdc with rowTime := none } rfl
  refine ⟨{ s with fmt.slots := [], fmt.blankSlots := closedBlanks { s with rdc.rowTime := none }, mot := m, rdc.rowTime := none },
    (exec_rowTimeBoundary hp).trans ?_, hst, hfrom, hlock, hcount, hlim, hpos.trans hp, rfl⟩
  rw [rowBoundary_reading p hm, readBoundary_wrapEnd he, hb, hturn]
  exact congrArg Host.Outcome.next (finish_idle hid)

theorem exec_rowTimeBoundary_readEnd {p : Pos} (h : Idle s) (hp : s.mot.pos = some p) (hm : s.mot.state = .streamingRead)
    (he : p.index + 1 = wrapLength s) (hw : p.wrap + 1 = (geometry s).wraps) (hr : s.cml.rebuild = none)
    (hl : s.mot.locate = none) :
    ∃ t, exec .rowTimeBoundary s = .next t ∧ t.mot.state = .stopping ∧ t.mot.splice = some (physicalEnd s)
      ∧ t.mot.startKind = some .read ∧ t.mot.afterRest = .runUp ∧ t.mot.lock = .unlocked ∧ t.mot.limitTimer = none
      ∧ t.mot.pos = some p ∧ t.mem = s.mem ∧ t.exu = s.exu ∧ t.bsm = s.bsm := by
  obtain ⟨m, hstop, hst, hrest, -, hlock, hlim, hsplice, hkind, hpos⟩ := enterStopping_eq .runUp
    { s with rdc.rowTime := none, mot.splice := some (physicalEnd s), mot.startKind := some .read }
  have hloc : m.locate = none := by
    have hx := congrArg (fun y : State => y.mot.locate) hstop
    exact hx.symm.trans hl
  obtain ⟨n, hn⟩ : ∃ n, closedBlanks { s with
      rdc.rowTime := none, mot.splice := some (physicalEnd s), mot.startKind := some .read } = n := ⟨_, rfl⟩
  rw [hn] at hstop
  have hb : readWrapEnd p { s with rdc.rowTime := none } = emit .readPhysicalEnd
      { s with rdc.rowTime := none, fmt.slots := [], fmt.blankSlots := n, mot := m } := by
    unfold readWrapEnd
    rw [if_pos (show (geometry { s with rdc.rowTime := none }).wraps ≤ p.wrap + 1 from hw.ge)]
    exact congrArg (emit .readPhysicalEnd) hstop
  have hid : Idle { s with rdc.rowTime := none, fmt.slots := [], fmt.blankSlots := n, mot := m } :=
    h.rowTime m [] n s.writeHeads { s.rdc with rowTime := none } rfl
  have hans : answerSignal .readPhysicalEnd { s with rdc.rowTime := none, fmt.slots := [], fmt.blankSlots := n, mot := m }
      = { s with rdc.rowTime := none, fmt.slots := [], fmt.blankSlots := n, mot := m } := by
    change onReadPhysicalEnd { s with rdc.rowTime := none, fmt.slots := [], fmt.blankSlots := n, mot := m } = _
    unfold onReadPhysicalEnd
    dsimp only
    rw [hloc, hr, h.noSearch]
    unfold rdcPhysicalEnd
    exact if_neg (show ¬s.rdc.phase.active = true by rw [h.active]; exact Bool.false_ne_true)
  refine ⟨{ s with rdc.rowTime := none, fmt.slots := [], fmt.blankSlots := n, mot := m }, (exec_rowTimeBoundary hp).trans ?_,
    hst, hsplice, hkind, hrest, hlock, hlim, hpos.trans hp, rfl, rfl, rfl⟩
  rw [rowBoundary_reading p hm, readBoundary_wrapEnd he, hb, finish_emit hid hans hid]

/-! ### Boundaries in STREAMING_WRITE (R96, R100, R102) -/

theorem rowBoundary_writing (p : Pos) (hm : s.mot.state = .streamingWrite) (hr : s.mot.runOn = .none) : rowBoundary p s
    = if p.index + 1 < wrapLength s then
        beginWriteRowTime (atIndex (p.index + 1) { s with fmt.slots := [], fmt.blankSlots := closedBlanks s })
      else writeWrapEnd p { s with fmt.slots := [], fmt.blankSlots := closedBlanks s } := by
  unfold rowBoundary
  rw [hm]
  dsimp only
  unfold writeBoundary
  rw [if_neg (by rw [hr]; decide)]
  rfl

theorem exec_rowTimeBoundary_offers {p : Pos} (h : Idle s) (hp : s.mot.pos = some p) (hm : s.mot.state = .streamingWrite)
    (hr : s.mot.runOn = .none) (hlt : p.index + 1 < wrapLength s) :
    ∃ t, exec .rowTimeBoundary s = .next t ∧ RowTimeOffered s.mot.ewReported { p with index := p.index + 1 } s t := by
  have hoff := rowTimeOffered_begin (s := s) (p := { p with index := p.index + 1 })
    (z := { s with fmt.slots := [], fmt.blankSlots := closedBlanks s, mot.pos := some { p with index := p.index + 1 } })
    rfl hm ⟨rfl, rfl, rfl, rfl⟩ rfl rfl rfl rfl
  have hid := h.rowTime { s.mot with pos := some { p with index := p.index + 1 } } [] (closedBlanks s) s.writeHeads s.rdc rfl
  refine ⟨_, (exec_rowTimeBoundary hp).trans ?_, hoff⟩
  rw [rowBoundary_writing p hm hr, if_pos hlt,
    atIndex_eq (s := { s with fmt.slots := [], fmt.blankSlots := closedBlanks s }) hp]
  exact congrArg Host.Outcome.next (finish_idle hid.beginWriteRowTime)

/-- The last row time of a wrap has passed in STREAMING_WRITE. -/
theorem exec_rowTimeBoundary_wrapEnd {p : Pos} (hp : s.mot.pos = some p) (hm : s.mot.state = .streamingWrite)
    (hr : s.mot.runOn = .none) (he : p.index + 1 = wrapLength s) : exec .rowTimeBoundary s = .next (finish (windowEmptyReport
      { s with fmt.slots := [], fmt.blankSlots := closedBlanks s, writeHeads := []
               mot.runOn := if p.wrap + 1 < (geometry s).wraps then .wrapEnd else .physicalEnd })) := by
  rw [exec_rowTimeBoundary hp, rowBoundary_writing p hm hr, if_neg (by omega)]
  rfl

theorem windowEmptyReport_owed (h : s.fmt.window ≠ []) : windowEmptyReport s = s := by
  unfold windowEmptyReport
  rw [if_pos (by simpa using h)]

theorem windowEmptyReport_turns (h : s.fmt.window = []) (hr : s.mot.runOn = .wrapEnd) (hh : s.mot.held = none) :
    windowEmptyReport s = enterTurning .write s := by
  unfold windowEmptyReport
  rw [if_neg (by simp [h]), hr]
  dsimp only
  unfold heldStop
  rw [hh]

theorem windowEmptyReport_stops (h : s.fmt.window = []) (hr : s.mot.runOn = .physicalEnd) (hh : s.mot.held = none) :
    windowEmptyReport s = endOfMediaCheck (stopAtEnd .write s) := by
  have hf : forgetStop s = s := by
    unfold forgetStop
    rw [hh]
  unfold windowEmptyReport
  rw [if_neg (by simp [h]), hr]
  dsimp only
  rw [hf]
  unfold heldStop
  rw [hh]

theorem exec_rowTimeBoundary_runsOn {p : Pos} (h : Idle s) (hp : s.mot.pos = some p) (hm : s.mot.state = .streamingWrite)
    (hr : s.mot.runOn = .none) (he : p.index + 1 = wrapLength s) (hwin : s.fmt.window ≠ []) :
    exec .rowTimeBoundary s = .next { s with
      mot.runOn := if p.wrap + 1 < (geometry s).wraps then .wrapEnd else .physicalEnd,
      writeHeads := [], fmt.slots := [], fmt.blankSlots := closedBlanks s } := by
  rw [exec_rowTimeBoundary_wrapEnd hp hm hr he, windowEmptyReport_owed (s := { s with
    fmt.slots := [], fmt.blankSlots := closedBlanks s, writeHeads := []
    mot.runOn := if p.wrap + 1 < (geometry s).wraps then .wrapEnd else .physicalEnd }) hwin]
  exact congrArg Host.Outcome.next (finish_idle (h.rowTime { s.mot with
    runOn := if p.wrap + 1 < (geometry s).wraps then .wrapEnd else .physicalEnd } [] (closedBlanks s) [] s.rdc rfl))

theorem exec_rowTimeBoundary_writeTurn {p : Pos} (h : Idle s) (hp : s.mot.pos = some p) (hm : s.mot.state = .streamingWrite)
    (hr : s.mot.runOn = .none) (he : p.index + 1 = wrapLength s) (hh : s.mot.held = none) (hwin : s.fmt.window = [])
    (hw : p.wrap + 1 < (geometry s).wraps) :
    ∃ t, exec .rowTimeBoundary s = .next t ∧ t.mot.state = .turning ∧ t.mot.turnFrom = .write
      ∧ t.mot.lock = .unlocked ∧ t.mot.lockCount = 0 ∧ t.mot.limitTimer = none ∧ t.mot.pos = some p
      ∧ t.fmt.slots = [] ∧ t.fmt.blankSlots = closedBlanks s ∧ t.mem = s.mem ∧ t.bsm = s.bsm := by
  obtain ⟨n, hn⟩ : ∃ n, closedBlanks s = n := ⟨_, rfl⟩
  obtain ⟨m, hturn, hst, hfrom, hlock, hcount, hlim, hpos⟩ := enterTurning_eq .write
    { s with fmt.slots := [], fmt.blankSlots := n, writeHeads := [], mot.runOn := .wrapEnd }
  have hagain := closedBlanks_again hm { s.mot with runOn := .wrapEnd } hm rfl []
  rw [hn] at hagain
  rw [hagain] at hturn
  refine ⟨{ s with fmt.slots := [], fmt.blankSlots := n, writeHeads := [], mot := m },
    (exec_rowTimeBoundary_wrapEnd hp hm hr he).trans ?_, hst, hfrom, hlock, hcount, hlim, hpos.trans hp, rfl, hn.symm, rfl, rfl⟩
  rw [if_pos hw, hn, windowEmptyReport_turns
    (s := { s with fmt.slots := [], fmt.blankSlots := n, writeHeads := [], mot.runOn := .wrapEnd }) hwin rfl hh, hturn]
  exact congrArg Host.Outcome.next (finish_idle (h.rowTime m [] n [] s.rdc rfl))

theorem endOfMediaCheck_stopped (h : s.fmt.phase = .stopped) (hw : emissionWork s.fmt = false) : endOfMediaCheck s = s := by
  unfold endOfMediaCheck
  rw [if_neg (by rw [hw]; exact Bool.false_ne_true)]
  unfold fmtCheck
  rw [h]

theorem exec_rowTimeBoundary_writeEnd {p : Pos} (h : Idle s) (hp : s.mot.pos = some p) (hm : s.mot.state = .streamingWrite)
    (hr : s.mot.runOn = .none) (he : p.index + 1 = wrapLength s) (hh : s.mot.held = none) (hwin : s.fmt.window = [])
    (hw : (geometry s).wraps ≤ p.wrap + 1) (hwork : emissionWork s.fmt = false) :
    ∃ t, exec .rowTimeBoundary s = .next t ∧ t.mot.state = .stopping ∧ t.mot.splice = some (physicalEnd s)
      ∧ t.mot.startKind = some .write ∧ t.mot.afterRest = .runUp ∧ t.mot.runOn = .none
      ∧ t.mot.lock = .unlocked ∧ t.mot.pos = some p ∧ t.fmt.phase = .stopped ∧ t.mem = s.mem ∧ t.exu = s.exu := by
  obtain ⟨n, hn⟩ : ∃ n, closedBlanks s = n := ⟨_, rfl⟩
  obtain ⟨m, hstop, hst, hrest, hrun, hlock, -, hsplice, hkind, hpos⟩ := enterStopping_eq .runUp
    { s with fmt.slots := [], fmt.blankSlots := n, writeHeads := [], mot.runOn := .physicalEnd
             mot.splice := some (physicalEnd s), mot.startKind := some .write }
  generalize closedBlanks { s with
    fmt.slots := [], fmt.blankSlots := n, writeHeads := [], mot.runOn := .physicalEnd
    mot.splice := some (physicalEnd s), mot.startKind := some .write } = n' at hstop
  have hcheck : endOfMediaCheck (stopAtEnd .write
      { s with fmt.slots := [], fmt.blankSlots := n, writeHeads := [], mot.runOn := .physicalEnd })
      = { s with fmt.slots := [], fmt.blankSlots := n', writeHeads := [], mot := m } := by
    have hend : stopAtEnd .write { s with fmt.slots := [], fmt.blankSlots := n, writeHeads := [], mot.runOn := .physicalEnd }
        = { s with fmt.slots := [], fmt.blankSlots := n', writeHeads := [], mot := m } := hstop
    rw [hend]
    exact endOfMediaCheck_stopped (s := { s with fmt.slots := [], fmt.blankSlots := n', writeHeads := [], mot := m }) h.stopped
      hwork
  refine ⟨{ s with fmt.slots := [], fmt.blankSlots := n', writeHeads := [], mot := m },
    (exec_rowTimeBoundary_wrapEnd hp hm hr he).trans ?_, hst, hsplice, hkind, hrest, hrun, hlock, hpos.trans hp, h.stopped,
    rfl, rfl⟩
  rw [if_neg (Nat.not_lt.2 hw), hn, windowEmptyReport_stops
    (s := { s with fmt.slots := [], fmt.blankSlots := n, writeHeads := [], mot.runOn := .physicalEnd }) hwin rfl hh, hcheck]
  exact congrArg Host.Outcome.next (finish_idle (h.rowTime m [] n' [] s.rdc rfl))

/-! ### Boundaries in CLEANING (R106) -/

theorem rowBoundary_cleaning (p : Pos) (hm : s.mot.state = .cleaning) : rowBoundary p s
    = if decide (s.mot.cleanLeft - 1 = 0) || decide (wrapLength s ≤ p.index + 1) then
        cleaningOver (moveOne { s with mot.cleanLeft := s.mot.cleanLeft - 1 })
      else moveOne { s with mot.cleanLeft := s.mot.cleanLeft - 1 } := by
  unfold rowBoundary
  rw [hm]
  rfl

/-- The heads one row time on in the wrap's own direction. -/
theorem moveOne_cleaning {p : Pos} {n : Nat} (hp : s.mot.pos = some p) (hd : p.dir = wrapDirection p.wrap) :
    moveOne { s with mot.cleanLeft := n }
      = { s with mot.cleanLeft := n, mot.pos := some { p with index := min (p.index + 1) (wrapLength s - 1) } } := by
  rw [moveOne_eq (s := { s with mot.cleanLeft := n }) hp, if_pos hd]
  rfl

theorem requestTravel_cleaning (hm : s.mot.state = .cleaning) (d : Destination) :
    requestTravel d s = { s with mot.state := .stopping, mot.afterRest := .go d, mot.held := none } := by
  unfold requestTravel
  rw [hm]

theorem cleaningOver_eq {q : Pos} (hm : s.mot.state = .cleaning) (n : Nat) :
    cleaningOver { s with mot.cleanLeft := n, mot.pos := some q } = { s with
      mot.pos := some q, mot.cleanLeft := 0, mot.state := .stopping, mot.afterRest := .go .bot,
      mot.afterRewind := .passDone, mot.held := none } :=
  requestTravel_cleaning (s := { s with
    mot.cleanLeft := 0, mot.pos := some q, mot.afterRewind := .passDone }) hm .bot

theorem exec_rowTimeBoundary_cleaning {p : Pos} (h : Idle s) (hp : s.mot.pos = some p) (hm : s.mot.state = .cleaning)
    (hd : p.dir = wrapDirection p.wrap) (hw : p.index + 1 ≤ wrapLength s - 1) :
    (1 < s.mot.cleanLeft → p.index + 1 < wrapLength s →
      exec .rowTimeBoundary s =
        .next { s with mot.pos := some { p with index := p.index + 1 }, mot.cleanLeft := s.mot.cleanLeft - 1 })
    ∧ (s.mot.cleanLeft = 1 →
        exec .rowTimeBoundary s =
          .next { s with mot.pos := some { p with index := p.index + 1 }, mot.cleanLeft := 0, mot.state := .stopping,
                         mot.afterRest := .go .bot, mot.afterRewind := .passDone, mot.held := none }) := by
  refine ⟨fun hl hlt => ?_, fun hl => ?_⟩
  · rw [exec_rowTimeBoundary hp, rowBoundary_cleaning p hm, if_neg (by simp; omega), moveOne_cleaning hp hd,
      Nat.min_eq_left hw]
    exact congrArg Host.Outcome.next (h.finish_tape _)
  · rw [exec_rowTimeBoundary hp, rowBoundary_cleaning p hm, if_pos (by simp [hl]), moveOne_cleaning hp hd,
      Nat.min_eq_left hw, cleaningOver_eq hm]
    exact congrArg Host.Outcome.next (h.finish_tape _)

theorem exec_rowTimeBoundary_cleaningEnd {p : Pos} (h : Idle s) (hp : s.mot.pos = some p) (hm : s.mot.state = .cleaning)
    (hd : p.dir = wrapDirection p.wrap) (he : p.index + 1 = wrapLength s) :
    exec .rowTimeBoundary s =
      .next { s with mot.cleanLeft := 0, mot.state := .stopping, mot.afterRest := .go .bot,
                     mot.afterRewind := .passDone, mot.held := none } := by
  have hmin : min (p.index + 1) (wrapLength s - 1) = p.index := by omega
  rw [exec_rowTimeBoundary hp, rowBoundary_cleaning p hm, if_pos (by simp [he]), moveOne_cleaning hp hd, hmin,
    cleaningOver_eq hm, ← hp]
  exact congrArg Host.Outcome.next (h.finish_tape _)

end Sys2Proof.Machine
end

section
/-! SUPPORT. A row time boundary while FMT emits: the rows placed into the row slots (R41 to R46, R59). -/

namespace Sys2Proof.Machine

variable {s : State}

/-! ### The row slots -/

/-- The ACTIVE channels of sixteen, ascending. -/
theorem activeChannels_eq {hcm : Hcm} (h : hcm.channels.length = 16) :
    activeChannels hcm = (List.range 16).filter (fun c => (hcm.channels[c]?).any (fun x => x.active)) := by
  have hsorted : ((List.range 16).filter (fun c => (hcm.channels[c]?).any (fun x => x.active))).Pairwise (· < ·) :=
    List.pairwise_lt_range.filter _
  have hperm : List.Perm (activeChannels hcm)
      ((List.range 16).filter (fun c => (hcm.channels[c]?).any (fun x => x.active))) := by
    rw [List.perm_ext_iff_of_nodup ((activeChannels_pairwise hcm).imp Nat.ne_of_lt) (hsorted.imp Nat.ne_of_lt)]
    intro c
    rw [mem_activeChannels, List.mem_filter, List.mem_range]
    refine ⟨fun hc => ⟨?_, hc⟩, fun hc => hc.2⟩
    rw [Option.any_eq_true] at hc
    obtain ⟨x, hx, -⟩ := hc
    obtain ⟨hlt, -⟩ := List.getElem?_eq_some_iff.1 hx
    omega
  exact hperm.eq_of_pairwise (fun a b _ _ h1 h2 => absurd h2 (Nat.lt_asymm h1)) (activeChannels_pairwise hcm) hsorted

/-! ### What placing rows leaves -/

/-- What the placing of rows leaves to the blocks that go on by themselves. -/
structure PlacingKeeps (s t : State) : Prop where
  eq     : t = { s with fmt := t.fmt, bsm := t.bsm, writeHeads := t.writeHeads, mot := t.mot, cml := t.cml }
  fmt    : t.fmt.phase = s.fmt.phase ∧ t.fmt.reading = s.fmt.reading
  mot    : t.mot.pos = s.mot.pos ∧ t.mot.state = s.mot.state
  cml    : t.cml.map = s.cml.map ∧ (s.cml.access.isSome = true → t.cml.access.isSome = true)
  frames : ∀ b, decodedFrame s b = none → decodedFrame t b = none

theorem PlacingKeeps.refl (s : State) : PlacingKeeps s s := ⟨rfl, ⟨rfl, rfl⟩, ⟨rfl, rfl⟩, ⟨rfl, id⟩, fun _ h => h⟩

theorem PlacingKeeps.trans {t u : State} (h1 : PlacingKeeps s t) (h2 : PlacingKeeps t u) : PlacingKeeps s u where
  eq := by rw [h2.eq, h1.eq]
  fmt := ⟨h2.fmt.1.trans h1.fmt.1, h2.fmt.2.trans h1.fmt.2⟩
  mot := ⟨h2.mot.1.trans h1.mot.1, h2.mot.2.trans h1.mot.2⟩
  cml := ⟨h2.cml.1.trans h1.cml.1, fun h => h2.cml.2 (h1.cml.2 h)⟩
  frames := fun b h => h2.frames b (h1.frames b h)

/-- A frame put into a state other than DECODED is not taken for a bundle decoded. -/
theorem decodedFrame_setFrameState {st : FrameState} (hst : st ≠ .decoded) (i b : Nat) (h : decodedFrame s b = none) :
    decodedFrame (setFrameState i st s) b = none := by
  rw [decodedFrame_none_iff] at h ⊢
  intro f hf
  rcases mem_modifyAt (show f ∈ modifyAt (fun f => { f with state := st }) s.bsm.frames i from hf) with hm | ⟨g, rfl⟩
  · exact h f hm
  · exact fun hd => hst hd.2

theorem bsmPlaced_eq (i : Nat) (r : OutRow) (s : State) : bsmPlaced i r s = { s with bsm := (bsmPlaced i r s).bsm } := by
  unfold bsmPlaced
  dsimp only
  split_ifs <;> rfl

theorem bsmPlaced_decoded (i : Nat) (r : OutRow) (b : Nat) (h : decodedFrame s b = none) :
    decodedFrame (bsmPlaced i r s) b = none := by
  unfold bsmPlaced
  dsimp only
  split_ifs
  · exact h
  · exact decodedFrame_setFrameState (by decide) i b h
  · exact decodedFrame_setFrameState (s := { s with bsm.writtenThrough := r.bundle + 1 }) (by decide) i b h
  · exact h

theorem placeRow_some {r : OutRow} {i : Nat} (hi : frameOf s r.bundle = some i) (rest : List OutRow) (c : Nat) (cs : List Nat) :
    placeRow r rest c cs s = { bsmPlaced i r { s with
        fmt.placements := notePlacement r ((headPlace s).getD 0) s.fmt.placements
        fmt.passMaps := beginPassMap r s.fmt.passMaps } with
      writeHeads := s.writeHeads ++ [(c, tapeRow (bsmPlaced i r { s with
        fmt.placements := notePlacement r ((headPlace s).getD 0) s.fmt.placements
        fmt.passMaps := beginPassMap r s.fmt.passMaps }) r ((frameAt s i).getD freeFrame))],
      fmt.outBuffer := rest, fmt.slots := cs,
      fmt.window := s.fmt.window ++ [⟨r.bundle, r.copy, r.row, c, (headPlace s).getD 0, r.attempt, false⟩],
      fmt.rowsPlaced := bump s.fmt.rowsPlaced,
      fmt.rewritesPlaced := if r.attempt = 1 then s.fmt.rewritesPlaced else bump s.fmt.rewritesPlaced,
      fmt.resume := some ((headPlace s).getD 0 + 1), fmt.startPoint := none, fmt.lastPlaced := r.bundle,
      fmt.boundaryDone := false } := by
  unfold placeRow
  rw [hi]
  dsimp only
  rw [bsmPlaced_eq]

theorem placeRow_keeps (r : OutRow) (rest : List OutRow) (c : Nat) (cs : List Nat) (s : State) :
    PlacingKeeps s (placeRow r rest c cs s) := by
  cases hi : frameOf s r.bundle with
  | none =>
    have hp : placeRow r rest c cs s = { s with fmt.outBuffer := rest } := by
      unfold placeRow
      rw [hi]
    rw [hp]
    exact ⟨rfl, ⟨rfl, rfl⟩, ⟨rfl, rfl⟩, ⟨rfl, id⟩, fun _ h => h⟩
  | some i =>
    have hd := fun b (h : decodedFrame s b = none) => bsmPlaced_decoded (s := { s with
      fmt.placements := notePlacement r ((headPlace s).getD 0) s.fmt.placements
      fmt.passMaps := beginPassMap r s.fmt.passMaps }) i r b h
    rw [placeRow_some hi, bsmPlaced_eq] at *
    generalize (bsmPlaced i r { s with
      fmt.placements := notePlacement r ((headPlace s).getD 0) s.fmt.placements
      fmt.passMaps := beginPassMap r s.fmt.passMaps }).bsm = x at *
    exact ⟨rfl, ⟨rfl, rfl⟩, ⟨rfl, rfl⟩, ⟨rfl, id⟩, hd⟩

theorem askDirtyWrite_keeps (s : State) : PlacingKeeps s (askDirtyWrite s) := by
  unfold askDirtyWrite
  split_ifs
  · exact .refl s
  · exact ⟨rfl, ⟨rfl, rfl⟩, ⟨rfl, rfl⟩, ⟨rfl, fun _ => rfl⟩, fun _ h => h⟩

/-- The adoption of the next speed at a bundle boundary (R93). -/
theorem adoptAtBoundary_changes (hm : s.mot.state = .streamingWrite) (hne : s.spm.next ≠ s.mot.speed) : ∃ n,
    adoptAtBoundary s = { s with
      mot.speed := s.spm.next, mot.speedChanges := bump s.mot.speedChanges, mot.lock := .unlocked, mot.lockCount := 0,
      mot.lockLosses := n, mot.limitTimer := some (after s 2000) } := by
  have hadopt : adoptSpeed s = { s with mot.speed := s.spm.next, mot.speedChanges := bump s.mot.speedChanges } := if_neg hne
  refine ⟨(dropLock (adoptSpeed s)).mot.lockLosses, ?_⟩
  unfold adoptAtBoundary
  rw [if_neg (by rw [hm]; simp [MotionState.streams, hne]), hadopt]
  rfl

theorem adoptAtBoundary_same (h : s.spm.next = s.mot.speed) : adoptAtBoundary s = s :=
  if_pos (by rw [h]; simp)

theorem reportBoundary_keeps (r : OutRow) (s : State) (hm : s.mot.state = .streamingWrite) :
    PlacingKeeps s (reportBoundary r s) := by
  unfold reportBoundary
  split_ifs
  · by_cases h : s.spm.next = s.mot.speed
    · rw [adoptAtBoundary_same (s := { s with fmt.boundaryDone := true }) h]
      exact ⟨rfl, ⟨rfl, rfl⟩, ⟨rfl, rfl⟩, ⟨rfl, id⟩, fun _ h => h⟩
    · obtain ⟨n, hn⟩ := adoptAtBoundary_changes (s := { s with fmt.boundaryDone := true }) hm h
      rw [hn]
      exact ⟨rfl, ⟨rfl, rfl⟩, ⟨rfl, rfl⟩, ⟨rfl, id⟩, fun _ h => h⟩
  · exact .refl s

/-! ### Rows placed one after the other -/

theorem placeRows_none (h : s.fmt.slots = [] ∨ s.fmt.outBuffer = []) (k : Nat) : placeRows k s = s := by
  cases k with
  | zero => rfl
  | succ k =>
    unfold placeRows
    rcases h with h | h
    · rw [h]
    · rw [h]
      cases s.fmt.slots <;> rfl

theorem placeRows_cons {c : Nat} {cs : List Nat} {r : OutRow} {rest : List OutRow} (hs : s.fmt.slots = c :: cs)
    (ho : s.fmt.outBuffer = r :: rest) (hm : s.mot.state = .streamingWrite) (k : Nat) : placeRows (k + 1) s
      = if s.mot.lock ≠ .locked then s
        else if s.cml.dirtyWritten = false then askDirtyWrite s
        else if (reportBoundary r s).mot.lock = .locked then placeRows k (placeRow r rest c cs (reportBoundary r s))
        else reportBoundary r s := by
  rw [placeRows, hs, ho]
  dsimp only
  rw [hm]
  cases hl : decide (s.mot.lock ≠ .locked) <;> cases hd : s.cml.dirtyWritten <;> simp_all

theorem placeRows_keeps : ∀ (k : Nat) (s : State), s.mot.state = .streamingWrite → PlacingKeeps s (placeRows k s)
  | 0, s, _ => .refl s
  | k + 1, s, hm => by
    cases hs : s.fmt.slots with
    | nil => rw [placeRows_none (.inl hs)]; exact .refl s
    | cons c cs =>
      cases ho : s.fmt.outBuffer with
      | nil => rw [placeRows_none (.inr ho)]; exact .refl s
      | cons r rest =>
        have hr := reportBoundary_keeps r s hm
        have hp := hr.trans (placeRow_keeps r rest c cs (reportBoundary r s))
        rw [placeRows_cons hs ho hm]
        split_ifs
        · exact .refl s
        · exact askDirtyWrite_keeps s
        · exact hp.trans (placeRows_keeps k _ (hp.mot.2.trans hm))
        · exact hr

/-! ### What follows a row time in its step -/

/-- What lets the placing of rows alone follow an event: the tape streams for writing, FMT emits and reads a row, the other
blocks rest, and a burst runs. -/
structure PlacesAlone (s : State) : Prop where
  sig    : s.sig = []
  state  : s.mot.state = .streamingWrite
  phase  : s.fmt.phase = .emitting ∧ s.fmt.reading.isSome = true
  port   : s.marb.burst.isSome = true
  others : rdcAtRest s ∧ dcpAtRest s ∧ cmlAtRest s

theorem PlacesAlone.kept {t : State} (h : PlacesAlone s) (hk : PlacingKeeps s t) : PlacesAlone t := by
  obtain ⟨heq, hfmt, hmot, hcml, hframes⟩ := hk
  obtain ⟨hsig, hstate, hphase, hport, hrdc, hdcp, hacc⟩ := h
  have hs : t.sig = s.sig := by rw [heq]
  have hm : t.marb = s.marb := by rw [heq]
  have hr : t.rdc = s.rdc := by rw [heq]
  have hd : t.dcp = s.dcp := by rw [heq]
  have ho : t.ord = s.ord := by rw [heq]
  have heod : eodBundle t = eodBundle s := by unfold eodBundle; rw [hcml.1]
  have hobj : eodObject t = eodObject s := by unfold eodObject; rw [hcml.1]
  refine ⟨hs.trans hsig, hmot.2.trans hstate, ⟨hfmt.1.trans hphase.1, by rw [hfmt.2]; exact hphase.2⟩,
    by rw [hm]; exact hport, ?_, ?_, ?_⟩
  · unfold rdcAtRest sessionRests sessionEmpty nextBundle transferInHand at hrdc ⊢
    rw [hr, hmot.2, heod, hm]
    exact hrdc
  · have hdel : delivering t = delivering s := by unfold delivering atStage takenKind; rw [ho]
    have hback : readingBack t = readingBack s := by unfold readingBack; rw [ho]
    have hleft : nothingLeft t = nothingLeft s := by unfold nothingLeft; rw [hd, ho, hobj, hback]
    rcases hdcp with h | ⟨h1, h2⟩ | ⟨h1, hw, hf, hn, b, hx, hdec, he, hi⟩
    · exact .inl (by rw [hd]; exact h)
    · exact .inr (.inl ⟨hdel.trans h1, hback.trans h2⟩)
    · refine .inr (.inr ⟨hback.trans h1, by rw [hd]; exact hw, by rw [hd]; exact hf, hleft.trans hn, b, by rw [hd]; exact hx,
        hframes b hdec, ?_, ?_⟩)
      · rw [← he]; unfold endedAt; rw [hr]
      · rw [← hi]; unfold failedAt; rw [hr]
  · rcases hacc with h | ⟨h1, h2⟩
    · exact .inl (hcml.2 h)
    · exact .inr ⟨by rw [← h1]; unfold atStage takenKind; rw [ho], by rw [← h2]; unfold atStage takenKind; rw [ho]⟩

theorem emissionWork_reading {f : Fmt} (h : f.reading.isSome = true) : emissionWork f = true := by
  unfold emissionWork
  rw [h, Bool.or_true]

theorem fmtCheck_emits (hp : s.fmt.phase = .emitting) (hr : s.fmt.reading.isSome = true) : fmtCheck s = s := by
  unfold fmtCheck
  rw [hp]
  dsimp only
  rw [if_pos (emissionWork_reading hr)]

/-- FMT places what it may; no other block goes on. -/
theorem PlacesAlone.proceed (h : PlacesAlone s) : proceed s = placeRows 16 s := by
  have hask : askAgain s = s := by
    unfold askAgain
    exact if_neg (by simp [tapeStands, h.state])
  have hkeep := placeRows_keeps 16 s h.state
  have hplace : fmtPlace s = placeRows 16 s := by
    unfold fmtPlace
    rw [if_pos (by rw [h.phase.1]; rfl)]
    exact fmtCheck_emits (hkeep.fmt.1.trans h.phase.1) (by rw [hkeep.fmt.2]; exact h.phase.2)
  unfold Machine.proceed
  rw [accessCheck_calm h.others.2.2, dcpCheck_calm h.others.2.1, dcpCheck_calm h.others.2.1, rdcCheck_calm h.others.1,
    storeRow_calm h.others.1, fetchRow_calm (.inr (.inr (.inr (.inl h.phase.2)))), hask, hplace]

theorem PlacesAlone.finish (h : PlacesAlone s) : finish s = placeRows 16 (placeRows 16 s) := by
  have h1 := h.kept (placeRows_keeps 16 s h.state)
  have h2 := h1.kept (placeRows_keeps 16 _ h1.state)
  unfold Machine.finish
  simp only [settle_none h.sig, h.proceed, settle_none h1.sig, h1.proceed, settle_none h2.sig]
  exact grant_busy h2.port

end Sys2Proof.Machine
end

section
/-! SUPPORT. The rows placed in a row time, and what each leaves: records, frames, the verify window (R41, R44, R46). -/

namespace Sys2Proof.Machine

variable {s : State}

/-! ### The state of a frame as rows of its bundle are placed (R34, R46) -/

/-- A frame's state after a row of its bundle is placed. -/
def rowState (r : OutRow) (st : FrameState) : FrameState :=
  if r.attempt = 1 ∧ r.row = 0 ∧ st = .sealed then .writing
  else if r.attempt = 1 ∧ r.row = 71 ∧ st = .writing then .pending else st

/-- The state of a frame of bundle `b` after rows are placed. -/
def placedState (b : Nat) (done : List (OutRow × Nat)) (st : FrameState) : FrameState :=
  done.foldl (fun st x => if x.1.bundle = b then rowState x.1 st else st) st

theorem placedState_append (b : Nat) (done : List (OutRow × Nat)) (x : OutRow × Nat) (st : FrameState) :
    placedState b (done ++ [x]) st
      = if x.1.bundle = b then rowState x.1 (placedState b done st) else placedState b done st := by
  unfold placedState
  rw [List.foldl_append]
  rfl

theorem firstEmitted_append (done : List (OutRow × Nat)) (x : OutRow × Nat) (b row : Nat) :
    firstEmitted (done ++ [x]) b row
      = (firstEmitted done b row || (decide (x.1.bundle = b) && decide (x.1.row = row) && decide (x.1.attempt = 1))) := by
  unfold firstEmitted
  rw [List.any_append, List.any_cons, List.any_nil, Bool.or_false]

theorem firstEmitted_append_false {done : List (OutRow × Nat)} {x : OutRow × Nat} {b row : Nat} :
    firstEmitted (done ++ [x]) b row = false ↔
      firstEmitted done b row = false ∧ ¬(x.1.bundle = b ∧ x.1.row = row ∧ x.1.attempt = 1) := by
  rw [firstEmitted_append, Bool.or_eq_false_iff]
  simp only [Bool.and_eq_false_iff, decide_eq_false_iff_not]
  tauto

theorem firstEmitted_append_true {done : List (OutRow × Nat)} {x : OutRow × Nat} {b row : Nat} :
    firstEmitted (done ++ [x]) b row = true ↔
      firstEmitted done b row = true ∨ (x.1.bundle = b ∧ x.1.row = row ∧ x.1.attempt = 1) := by
  rw [firstEmitted_append, Bool.or_eq_true]
  simp only [Bool.and_eq_true, decide_eq_true_eq]
  tauto

theorem rowState_sealed (r : OutRow) : rowState r .sealed = if r.attempt = 1 ∧ r.row = 0 then .writing else .sealed := by
  unfold rowState
  by_cases h : r.attempt = 1 ∧ r.row = 0
  · rw [if_pos ⟨h.1, h.2, rfl⟩, if_pos h]
  · rw [if_neg (fun h' => h ⟨h'.1, h'.2.1⟩), if_neg (fun h' => nomatch h'.2.2), if_neg h]

theorem rowState_writing (r : OutRow) : rowState r .writing = if r.attempt = 1 ∧ r.row = 71 then .pending else .writing := by
  unfold rowState
  rw [if_neg (fun h' => nomatch h'.2.2)]
  by_cases h : r.attempt = 1 ∧ r.row = 71
  · rw [if_pos ⟨h.1, h.2, rfl⟩, if_pos h]
  · rw [if_neg (fun h' => h ⟨h'.1, h'.2.1⟩), if_neg h]

theorem rowState_other (r : OutRow) {st : FrameState} (h1 : st ≠ .sealed) (h2 : st ≠ .writing) : rowState r st = st := by
  unfold rowState
  rw [if_neg (fun h => h1 h.2.2), if_neg (fun h => h2 h.2.2)]

theorem placedState_other (b : Nat) (done : List (OutRow × Nat)) {st : FrameState} (h1 : st ≠ .sealed) (h2 : st ≠ .writing) :
    placedState b done st = st := by
  induction done using List.reverseRecOn with
  | nil => rfl
  | append_singleton done x ih => rw [placedState_append, ih, rowState_other _ h1 h2, ite_self]

/-- A frame being written is PENDING once its last row has been emitted. -/
theorem placedState_writing (b : Nat) (done : List (OutRow × Nat)) :
    placedState b done .writing = if firstEmitted done b 71 = true then .pending else .writing := by
  induction done using List.reverseRecOn with
  | nil => rfl
  | append_singleton done x ih =>
    have ht := firstEmitted_append_true (done := done) (x := x) (b := b) (row := 71)
    rw [placedState_append, ih]
    by_cases h71 : firstEmitted done b 71 = true
    · rw [if_pos h71, if_pos (ht.2 (.inl h71)), rowState_other x.1 (st := .pending) (by decide) (by decide), ite_self]
    · rw [if_neg h71, rowState_writing]
      by_cases hb : x.1.bundle = b
      · rw [if_pos hb]
        by_cases hx : x.1.attempt = 1 ∧ x.1.row = 71
        · rw [if_pos hx, if_pos (ht.2 (.inr ⟨hb, hx.2, hx.1⟩))]
        · rw [if_neg hx, if_neg (fun h => (ht.1 h).elim h71 fun h => hx ⟨h.2.2, h.2.1⟩)]
      · rw [if_neg hb, if_neg (fun h => (ht.1 h).elim h71 fun h => hb h.1)]

theorem placedState_unbegun (b : Nat) (done : List (OutRow × Nat)) (h : firstEmitted done b 0 = false) :
    placedState b done .sealed = .sealed := by
  induction done using List.reverseRecOn with
  | nil => rfl
  | append_singleton done x ih =>
    obtain ⟨hd, hx⟩ := firstEmitted_append_false.1 h
    rw [placedState_append, ih hd, rowState_sealed]
    by_cases hb : x.1.bundle = b
    · rw [if_pos hb, if_neg fun h => hx ⟨hb, h.2, h.1⟩]
    · rw [if_neg hb]

theorem placedState_begun (b : Nat) (done : List (OutRow × Nat)) (h : firstEmitted done b 71 = false) :
    placedState b done .sealed = if firstEmitted done b 0 = true then .writing else .sealed := by
  induction done using List.reverseRecOn with
  | nil => rfl
  | append_singleton done x ih =>
    obtain ⟨hd, hx⟩ := firstEmitted_append_false.1 h
    have ht := firstEmitted_append_true (done := done) (x := x) (b := b) (row := 0)
    rw [placedState_append, ih hd]
    by_cases hb : x.1.bundle = b
    · rw [if_pos hb]
      by_cases h0 : firstEmitted done b 0 = true
      · rw [if_pos h0, if_pos (ht.2 (.inl h0)), rowState_writing, if_neg fun h => hx ⟨hb, h.2, h.1⟩]
      · rw [if_neg h0, rowState_sealed]
        by_cases hx0 : x.1.attempt = 1 ∧ x.1.row = 0
        · rw [if_pos hx0, if_pos (ht.2 (.inr ⟨hb, hx0.2, hx0.1⟩))]
        · rw [if_neg hx0, if_neg (fun h => (ht.1 h).elim h0 fun h => hx0 ⟨h.2.2, h.2.1⟩)]
    · rw [if_neg hb]
      have heq : (firstEmitted (done ++ [x]) b 0 = true) = (firstEmitted done b 0 = true) :=
        propext ⟨fun h => (ht.1 h).resolve_right fun h => hb h.1, fun h => ht.2 (.inl h)⟩
      simp only [heq]

/-- A frame of which the first or the last row has not been emitted moves on by one state at most. -/
theorem placedState_eq (b : Nat) (done : List (OutRow × Nat)) (st : FrameState)
    (h : firstEmitted done b 0 = false ∨ firstEmitted done b 71 = false) : placedState b done st
      = if st = .sealed ∧ firstEmitted done b 0 = true then .writing
        else if st = .writing ∧ firstEmitted done b 71 = true then .pending else st := by
  by_cases h1 : st = .sealed
  · subst h1
    rw [if_neg (c := FrameState.sealed = .writing ∧ _) (fun h => nomatch h.1)]
    rcases h with h | h
    · rw [placedState_unbegun b done h, if_neg (fun h' => by rw [h] at h'; cases h'.2)]
    · rw [placedState_begun b done h]
      simp only [true_and]
  · rw [if_neg (fun h => h1 h.1)]
    by_cases h2 : st = .writing
    · subst h2
      rw [placedState_writing]
      simp only [true_and]
    · rw [placedState_other b done h1 h2, if_neg (fun h => h2 h.1)]

/-! ### One row placed -/

theorem bsmPlaced_closed {i : Nat} {f : Frame} (r : OutRow) (hf : s.bsm.frames[i]? = some f) :
    bsmPlaced i r s = { s with
      bsm.frames := s.bsm.frames.set i { f with state := rowState r f.state },
      bsm.writtenThrough := if r.attempt = 1 ∧ r.row = 71 ∧ f.state = .writing then r.bundle + 1 else s.bsm.writtenThrough } := by
  have hsame : s.bsm.frames.set i f = s.bsm.frames := by
    obtain ⟨hlt, rfl⟩ := List.getElem?_eq_some_iff.1 hf
    exact List.set_getElem_self hlt
  have hstate : (frameAt s i).map (fun f => f.state) = some f.state := by
    unfold frameAt
    rw [hf]
    rfl
  have hset : ∀ (st : FrameState) (w : Nat), setFrameState i st { s with bsm.writtenThrough := w }
      = { s with bsm.frames := s.bsm.frames.set i { f with state := st }, bsm.writtenThrough := w } := fun st w => by
    unfold setFrameState updateFrame
    dsimp only
    rw [modifyAt_some hf]
  have hkeep : s = { s with bsm.frames := s.bsm.frames.set i f } := congrArg (fun fs => { s with bsm.frames := fs }) hsame.symm
  unfold bsmPlaced rowState
  dsimp only
  rw [hstate]
  simp only [Option.some.injEq, Bool.and_eq_true, decide_eq_true_eq]
  by_cases ha : r.attempt = 1
  · rw [if_neg (not_not.2 ha)]
    by_cases h0 : r.row = 0 ∧ f.state = .sealed
    · rw [if_pos h0, if_pos ⟨ha, h0⟩, if_neg (fun h => by rw [h0.1] at h; cases h.2.1)]
      exact hset .writing s.bsm.writtenThrough
    · rw [if_neg h0, if_neg (c := r.attempt = 1 ∧ r.row = 0 ∧ f.state = .sealed) (fun h => h0 h.2)]
      by_cases h71 : r.row = 71 ∧ f.state = .writing
      · rw [if_pos h71, if_pos ⟨ha, h71⟩, if_pos ⟨ha, h71⟩]
        exact hset .pending (r.bundle + 1)
      · have hno : ¬(r.attempt = 1 ∧ r.row = 71 ∧ f.state = .writing) := fun h => h71 h.2
        rw [if_neg h71, if_neg hno, if_neg hno]
        exact hkeep
  · have hno : ∀ n st, ¬(r.attempt = 1 ∧ r.row = n ∧ f.state = st) := fun _ _ h => ha h.1
    rw [if_pos ha, if_neg (hno 0 .sealed), if_neg (hno 71 .writing), if_neg (hno 71 .writing)]
    exact hkeep

/-- A frame found for a bundle holds it. -/
theorem frameOf_spec {b i : Nat} (h : frameOf s b = some i) : ∃ f, s.bsm.frames[i]? = some f ∧ f.bundle = some b := by
  obtain ⟨f, hf, hb⟩ := findFrame_spec h
  exact ⟨f, hf, by simpa using hb⟩

/-- The frames found for bundles stay where frames keep what they hold. -/
theorem frameOf_set {i : Nat} {f : Frame} {st : FrameState} (hf : s.bsm.frames[i]? = some f) {t : State}
    (ht : t.bsm.frames = s.bsm.frames.set i { f with state := st }) (b : Nat) : frameOf t b = frameOf s b := by
  have hmap : t.bsm.frames.map (fun f => f.bundle) = s.bsm.frames.map (fun f => f.bundle) := by
    rw [ht, List.map_set]
    obtain ⟨hlt, rfl⟩ := List.getElem?_eq_some_iff.1 hf
    have hlt' : i < (s.bsm.frames.map (fun f => f.bundle)).length := by rw [List.length_map]; exact hlt
    have hself := List.set_getElem_self (as := s.bsm.frames.map (fun f => f.bundle)) hlt'
    rw [List.getElem_map] at hself
    exact hself
  have hfind : ∀ x : State, frameOf x b = (x.bsm.frames.map (fun f => f.bundle)).findIdx? (fun c => decide (c = some b)) := by
    intro x
    unfold frameOf findFrame
    rw [List.findIdx?_map]
    rfl
  rw [hfind, hfind, hmap]

/-- The row as it goes to tape depends on the cartridge and on the placement records alone. -/
def rowOnTape (s : State) (r : OutRow) (f : Frame) : TapeRow :=
  tapeRow { s with fmt.placements := notePlacement r ((headPlace s).getD 0) s.fmt.placements } r f

/-- A row placed, in closed form. -/
theorem placeRow_closed {r : OutRow} {i : Nat} {f : Frame} (hi : frameOf s r.bundle = some i) (hf : s.bsm.frames[i]? = some f)
    (rest : List OutRow) (c : Nat) (cs : List Nat) : placeRow r rest c cs s = { s with
      bsm.frames := s.bsm.frames.set i { f with state := rowState r f.state },
      bsm.writtenThrough := if r.attempt = 1 ∧ r.row = 71 ∧ f.state = .writing then r.bundle + 1 else s.bsm.writtenThrough,
      writeHeads := s.writeHeads ++ [(c, rowOnTape s r f)],
      fmt.placements := notePlacement r ((headPlace s).getD 0) s.fmt.placements,
      fmt.passMaps := beginPassMap r s.fmt.passMaps, fmt.outBuffer := rest, fmt.slots := cs,
      fmt.window := s.fmt.window ++ [⟨r.bundle, r.copy, r.row, c, (headPlace s).getD 0, r.attempt, false⟩],
      fmt.rowsPlaced := bump s.fmt.rowsPlaced,
      fmt.rewritesPlaced := if r.attempt = 1 then s.fmt.rewritesPlaced else bump s.fmt.rewritesPlaced,
      fmt.resume := some ((headPlace s).getD 0 + 1), fmt.startPoint := none, fmt.lastPlaced := r.bundle,
      fmt.boundaryDone := false } := by
  have hframe : (frameAt s i).getD freeFrame = f := by
    unfold frameAt
    rw [hf, Option.getD_some]
  rw [placeRow_some hi, hframe, bsmPlaced_closed (s := { s with
    fmt.placements := notePlacement r ((headPlace s).getD 0) s.fmt.placements
    fmt.passMaps := beginPassMap r s.fmt.passMaps }) r hf]
  rfl

end Sys2Proof.Machine
end

section
/-! SUPPORT. All the rows placed in a row time, and the boundary while FMT emits (R41 to R46, R59, R93). -/

namespace Sys2Proof.Machine

variable {s : State}

/-! ### Placement records and pass maps (R46) -/

/-- A row placed on its channel, the out-buffer and the slots aside. -/
def placeOne (s : State) (x : OutRow × Nat) : State := placeRow x.1 [] x.2 [] s

/-- A row begins its bundle on tape: row 0 at its first emission. -/
def Begins (r : OutRow) : Prop := r.row = 0 ∧ r.attempt = 1

theorem begins_iff (r : OutRow) : (decide (r.row = 0) && decide (r.attempt = 1)) = true ↔ Begins r := by
  rw [Bool.and_eq_true, decide_eq_true_iff, decide_eq_true_iff]
  rfl

/-- The first entry of a bundle in a list from which another bundle's were taken. -/
theorem find?_replaced {α : Type} (key : α → Nat) (l : List α) (c : Nat) (x : α) (hx : key x = c) (b : Nat) :
    (l.filter (fun p => key p ≠ c) ++ [x]).find? (fun p => key p = b)
      = if c = b then some x else l.find? (fun p => key p = b) := by
  rw [List.find?_append, List.find?_filter]
  by_cases hb : c = b
  · rw [if_pos hb, List.find?_eq_none.2 (by simp [hb]), List.find?_cons_of_pos (by simp [hx, hb])]
    rfl
  · have hsame : (fun p => decide (decide (key p ≠ c) = true ∧ decide (key p = b) = true)) = fun p => decide (key p = b) := by
      funext p
      by_cases hp : key p = b
      · simp [hp, Ne.symm hb]
      · simp [hp]
    rw [if_neg hb, hsame, List.find?_cons_of_neg (by simp [hx, hb]), List.find?_nil, Option.or_none]

theorem find?_notePlacement_begins {r : OutRow} (h : Begins r) (place : Nat) (ps : List Placement) (b : Nat) :
    (notePlacement r place ps).find? (fun p => p.bundle = b)
      = if r.bundle = b then some ⟨b, place, place⟩ else ps.find? (fun p => p.bundle = b) := by
  unfold notePlacement
  rw [if_pos ((begins_iff r).2 h), find?_replaced (fun p : Placement => p.bundle) ps r.bundle ⟨r.bundle, place, place⟩ rfl]
  by_cases hb : r.bundle = b
  · rw [if_pos hb, if_pos hb, hb]
  · rw [if_neg hb, if_neg hb]

theorem find?_notePlacement_goesOn {r : OutRow} (h : ¬Begins r) (place : Nat) (ps : List Placement) (b : Nat) :
    (notePlacement r place ps).find? (fun p => p.bundle = b)
      = (ps.find? (fun p => p.bundle = b)).map (fun p => if r.bundle = b then { p with latest := place } else p) := by
  have hkey : (fun p : Placement => decide (p.bundle = b)) ∘ (fun p => if p.bundle = r.bundle then { p with latest := place } else p)
      = fun p => decide (p.bundle = b) := by
    funext p
    simp only [Function.comp_apply]
    split_ifs <;> rfl
  unfold notePlacement
  rw [if_neg (fun hb => h ((begins_iff r).1 hb)), List.find?_map, hkey]
  refine Option.map_congr fun p hp => ?_
  have hb : p.bundle = b := by simpa using List.find?_some hp
  rw [hb]
  simp only [eq_comm]

theorem find?_beginPassMap_begins {r : OutRow} (h : Begins r) (ms : List PassMap) (b : Nat) :
    (beginPassMap r ms).find? (fun m => m.bundle = b) = if r.bundle = b then some ⟨b, []⟩ else ms.find? (fun m => m.bundle = b) := by
  unfold beginPassMap
  rw [if_pos ((begins_iff r).2 h), find?_replaced (fun m : PassMap => m.bundle) ms r.bundle ⟨r.bundle, []⟩ rfl]
  by_cases hb : r.bundle = b
  · rw [if_pos hb, if_pos hb, hb]
  · rw [if_neg hb, if_neg hb]

theorem beginPassMap_goesOn {r : OutRow} (h : ¬Begins r) (ms : List PassMap) : beginPassMap r ms = ms :=
  if_neg (fun hb => h ((begins_iff r).1 hb))

/-! ### Rows placed so far -/

/-- What rows placed so far in a row time have left. -/
structure Placing (place : Nat) (done : List (OutRow × Nat)) (s t : State) : Prop where
  eq        : t = { s with fmt := t.fmt, bsm := t.bsm, writeHeads := t.writeHeads }
  window    : t.fmt.window = s.fmt.window
    ++ done.map (fun x => ⟨x.1.bundle, x.1.copy, x.1.row, x.2, place, x.1.attempt, false⟩)
  heads     : t.writeHeads.map (fun h => (h.1, h.2.ident.bundle, h.2.ident.copy, h.2.ident.row, h.2.data))
    = s.writeHeads.map (fun h => (h.1, h.2.ident.bundle, h.2.ident.copy, h.2.ident.row, h.2.data))
      ++ done.map (fun x => (x.2, x.1.bundle, x.1.copy, x.1.row, x.1.data))
  rows      : s.fmt.rowsPlaced ≤ 4294967295 → t.fmt.rowsPlaced = min (s.fmt.rowsPlaced + done.length) 4294967295
  rewrites  : s.fmt.rewritesPlaced ≤ 4294967295 → t.fmt.rewritesPlaced
    = min (s.fmt.rewritesPlaced + (done.filter (fun x => x.1.attempt ≠ 1)).length) 4294967295
  begun     : ∀ b, firstEmitted done b 0 = true →
    t.fmt.placements.find? (fun r => r.bundle = b) = some ⟨b, place, place⟩
      ∧ t.fmt.passMaps.find? (fun m => m.bundle = b) = some ⟨b, []⟩
  goesOn    : ∀ b, firstEmitted done b 0 = false →
    t.fmt.placements.find? (fun r => r.bundle = b)
        = (s.fmt.placements.find? (fun r => r.bundle = b)).map (fun r =>
            if done.any (fun x => x.1.bundle = b) then { r with latest := place } else r)
      ∧ t.fmt.passMaps.find? (fun m => m.bundle = b) = s.fmt.passMaps.find? (fun m => m.bundle = b)
  found     : ∀ b, frameOf t b = frameOf s b
  frames    : ∀ i f b, s.bsm.frames[i]? = some f → frameOf s b = some i →
    t.bsm.frames[i]? = some { f with state := placedState b done f.state }
  untouched : ∀ i f, s.bsm.frames[i]? = some f → (∀ x ∈ done, frameOf s x.1.bundle ≠ some i) → t.bsm.frames[i]? = some f
  through   : ∀ i f b, s.bsm.frames[i]? = some f → frameOf s b = some i → f.state = .writing →
    firstEmitted done b 71 = true → (∀ c, c ≠ b → firstEmitted done c 71 = false) → t.bsm.writtenThrough = b + 1
  notYet    : (∀ b, firstEmitted done b 71 = false) → t.bsm.writtenThrough = s.bsm.writtenThrough
  resume    : done ≠ [] → t.fmt.resume = some (place + 1) ∧ t.fmt.startPoint = none

theorem placing_nil (place : Nat) (s : State) : Placing place [] s s where
  eq := rfl
  window := (List.append_nil _).symm
  heads := (List.append_nil _).symm
  rows h := (Nat.min_eq_left h).symm
  rewrites h := (Nat.min_eq_left h).symm
  begun _ h := nomatch h
  goesOn b _ := ⟨by simp, rfl⟩
  found _ := rfl
  frames i f b hf _ := hf
  untouched _ _ hf _ := hf
  through _ _ _ _ _ _ h := nomatch h
  notYet _ := rfl
  resume h := absurd rfl h

theorem bump_min (n k : Nat) : bump (min (n + k) 4294967295) = min (n + (k + 1)) 4294967295 := by
  unfold bump maxWord
  omega

/-- One more row placed. -/
theorem Placing.step {place : Nat} {done : List (OutRow × Nat)} {t : State} (h : Placing place done s t)
    (hplace : headPlace s = some place) {x : OutRow × Nat} {i : Nat} (hi : frameOf s x.1.bundle = some i) :
    Placing place (done ++ [x]) s (placeOne t x) := by
  change Placing place (done ++ [x]) s (placeRow x.1 [] x.2 [] t)
  have hit : frameOf t x.1.bundle = some i := (h.found _).trans hi
  obtain ⟨f0, hf0, hb0⟩ := frameOf_spec hi
  have hft := h.frames i f0 x.1.bundle hf0 hi
  have hhead : (headPlace t).getD 0 = place := by
    rw [h.eq]
    exact congrArg (fun o : Option Nat => o.getD 0) hplace
  have hone := placeRow_closed hit hft [] x.2 []
  rw [hhead] at hone
  obtain ⟨st, hst⟩ : ∃ st, placedState x.1.bundle done f0.state = st := ⟨_, rfl⟩
  rw [hst] at hft
  have hset : (placeRow x.1 [] x.2 [] t).bsm.frames = t.bsm.frames.set i { f0 with state := rowState x.1 st } := by
    rw [hone, hst]
  have hpl : (placeRow x.1 [] x.2 [] t).fmt.placements = notePlacement x.1 place t.fmt.placements := by rw [hone]
  have hpm : (placeRow x.1 [] x.2 [] t).fmt.passMaps = beginPassMap x.1 t.fmt.passMaps := by rw [hone]
  have hw : (placeRow x.1 [] x.2 [] t).bsm.writtenThrough
      = if x.1.attempt = 1 ∧ x.1.row = 71 ∧ st = .writing then x.1.bundle + 1 else t.bsm.writtenThrough := by rw [hone, hst]
  have hlt : i < t.bsm.frames.length := (List.getElem?_eq_some_iff.1 hft).1
  have hother : ∀ b, frameOf s b = some i → b = x.1.bundle := fun b hb => by
    obtain ⟨g, hg, hgb⟩ := frameOf_spec hb
    rw [hf0] at hg
    cases hg
    rw [hb0] at hgb
    exact (Option.some.inj hgb).symm
  refine ⟨?_, ?_, ?_, fun hc => ?_, fun hc => ?_, fun b hb => ?_, fun b hb => ?_, fun b => ?_, fun j g b hg hj => ?_,
    fun j g hg hno => ?_, fun j g b hg hj hgs hem hno => ?_, fun hno => ?_, fun _ => ?_⟩
  · have hx : placeRow x.1 [] x.2 [] t = { t with
        fmt := (placeRow x.1 [] x.2 [] t).fmt, bsm := (placeRow x.1 [] x.2 [] t).bsm
        writeHeads := (placeRow x.1 [] x.2 [] t).writeHeads } := by rw [hone]
    generalize placeRow x.1 [] x.2 [] t = u at hx ⊢
    rw [h.eq] at hx
    exact hx
  · rw [hone, List.map_append, ← List.append_assoc, ← h.window]
    rfl
  · rw [hone]
    dsimp only
    rw [List.map_append, h.heads, List.map_append, List.append_assoc]
    rfl
  · rw [hone, List.length_append, List.length_singleton]
    dsimp only
    rw [h.rows hc, bump_min]
  · rw [hone, List.filter_append, List.length_append]
    dsimp only
    by_cases ha : x.1.attempt = 1
    · rw [if_pos ha, h.rewrites hc, List.filter_cons_of_neg (by simp [ha])]
      rfl
    · rw [if_neg ha, h.rewrites hc, bump_min, List.filter_cons_of_pos (by simp [ha])]
      rfl
  · rw [hpl, hpm]
    by_cases hx : Begins x.1
    · rw [find?_notePlacement_begins hx, find?_beginPassMap_begins hx]
      by_cases hxb : x.1.bundle = b
      · rw [if_pos hxb, if_pos hxb]
        exact ⟨rfl, rfl⟩
      · rw [if_neg hxb, if_neg hxb]
        exact h.begun b ((firstEmitted_append_true.1 hb).resolve_right fun h' => hxb h'.1)
    · have hbd := h.begun b ((firstEmitted_append_true.1 hb).resolve_right fun h' => hx ⟨h'.2.1, h'.2.2⟩)
      rw [find?_notePlacement_goesOn hx, beginPassMap_goesOn hx, hbd.1, Option.map_some]
      refine ⟨?_, hbd.2⟩
      split_ifs <;> rfl
  · obtain ⟨hd, hxb⟩ := firstEmitted_append_false.1 hb
    obtain ⟨hp, hm⟩ := h.goesOn b hd
    rw [hpl, hpm, List.any_append, List.any_cons, List.any_nil, Bool.or_false]
    by_cases hx : Begins x.1
    · have hne : x.1.bundle ≠ b := fun h' => hxb ⟨h', hx.1, hx.2⟩
      rw [find?_notePlacement_begins hx, find?_beginPassMap_begins hx, if_neg hne, if_neg hne, decide_eq_false hne,
        Bool.or_false]
      exact ⟨hp, hm⟩
    · rw [find?_notePlacement_goesOn hx, beginPassMap_goesOn hx, hp, Option.map_map]
      refine ⟨congrArg (fun k => Option.map k _) ?_, hm⟩
      funext q
      by_cases h1 : done.any (fun x => decide (x.1.bundle = b)) = true <;> by_cases h2 : x.1.bundle = b <;> simp [h1, h2]
  · rw [frameOf_set hft hset b]
    exact h.found b
  · rw [hset, List.getElem?_set, placedState_append]
    by_cases hij : i = j
    · subst hij
      obtain rfl := hother b hj
      rw [hf0] at hg
      cases hg
      rw [if_pos rfl, if_pos hlt, if_pos rfl, hst]
    · have hne : x.1.bundle ≠ b := fun h' => hij (Option.some.inj (hi.symm.trans (h' ▸ hj)))
      rw [if_neg hij, if_neg hne]
      exact h.frames j g b hg hj
  · have hij : i ≠ j := fun h' => hno x (by simp) (h' ▸ hi)
    rw [hset, List.getElem?_set, if_neg hij]
    exact h.untouched j g hg fun y hy => hno y (List.mem_append_left _ hy)
  · rw [hw]
    have hdone : ∀ c, c ≠ b → firstEmitted done c 71 = false := fun c hc => (firstEmitted_append_false.1 (hno c hc)).1
    by_cases hxr : x.1.row = 71 ∧ x.1.attempt = 1
    · have hxb : x.1.bundle = b := by
        by_contra hne
        exact (firstEmitted_append_false.1 (hno _ hne)).2 ⟨rfl, hxr.1, hxr.2⟩
      have hij : i = j := Option.some.inj (hi.symm.trans (hxb ▸ hj))
      have hst' : st = if firstEmitted done b 71 = true then .pending else .writing := by
        subst hij
        rw [hf0] at hg
        cases hg
        rw [← hst, hgs, hxb, placedState_writing]
      by_cases hd71 : firstEmitted done b 71 = true
      · rw [hst', if_pos hd71, if_neg (fun h' => nomatch h'.2.2)]
        exact h.through j g b hg hj hgs hd71 hdone
      · rw [hst', if_neg hd71, if_pos ⟨hxr.2, hxr.1, rfl⟩, hxb]
    · rw [if_neg (fun h' => hxr ⟨h'.2.1, h'.1⟩)]
      exact h.through j g b hg hj hgs ((firstEmitted_append_true.1 hem).resolve_right fun h' => hxr h'.2) hdone
  · rw [hw, if_neg (fun h' => (firstEmitted_append_false.1 (hno x.1.bundle)).2 ⟨rfl, h'.2.1, h'.1⟩)]
    exact h.notYet fun b => (firstEmitted_append_false.1 (hno b)).1
  · rw [hone]
    exact ⟨rfl, rfl⟩

/-- Rows placed one after the other, each in a frame that holds its bundle. -/
theorem placing_foldl {place : Nat} (hplace : headPlace s = some place) : ∀ (xs : List (OutRow × Nat)) (done : List (OutRow × Nat))
    (t : State), Placing place done s t → (∀ x ∈ xs, ∃ i, frameOf s x.1.bundle = some i) →
    Placing place (done ++ xs) s (xs.foldl placeOne t)
  | [], done, t, h, _ => by
    rw [List.append_nil]
    exact h
  | x :: xs, done, t, h, hf => by
    obtain ⟨i, hi⟩ := hf x List.mem_cons_self
    rw [List.append_cons, List.foldl_cons]
    exact placing_foldl hplace xs _ _ (h.step hplace hi) fun y hy => hf y (List.mem_cons_of_mem _ hy)

/-! ### The rows placed are those that have slots -/

/-- FMT may place every row it holds: the lock is LOCKED, the memory's dirty flag written, and no other speed waits. -/
structure PlacesFreely (s : State) : Prop where
  state  : s.mot.state = .streamingWrite
  lock   : s.mot.lock = .locked
  dirty  : s.cml.dirtyWritten = true
  speed  : s.spm.next = s.mot.speed
  stored : ∀ r ∈ s.fmt.outBuffer, ∃ i, frameOf s r.bundle = some i

theorem placeRow_boundary (r : OutRow) (rest : List OutRow) (c : Nat) (cs : List Nat) (d : Bool)
    (hf : ∃ i, frameOf s r.bundle = some i) :
    placeRow r rest c cs { s with fmt.boundaryDone := d } = { placeOne s (r, c) with fmt.outBuffer := rest, fmt.slots := cs } := by
  obtain ⟨i, hi⟩ := hf
  obtain ⟨f, hframe, -⟩ := frameOf_spec hi
  unfold placeOne
  rw [placeRow_closed (s := { s with fmt.boundaryDone := d }) hi hframe, placeRow_closed hi hframe]
  rfl

theorem reportBoundary_free (h : PlacesFreely s) (r : OutRow) : ∃ d, reportBoundary r s = { s with fmt.boundaryDone := d } := by
  unfold reportBoundary
  split_ifs
  · exact ⟨true, adoptAtBoundary_same (s := { s with fmt.boundaryDone := true }) h.speed⟩
  · exact ⟨s.fmt.boundaryDone, rfl⟩

theorem PlacesFreely.placed (h : PlacesFreely s) {r : OutRow} {rest : List OutRow} {c : Nat} {cs : List Nat}
    (ho : s.fmt.outBuffer = r :: rest) : PlacesFreely { placeOne s (r, c) with fmt.outBuffer := rest, fmt.slots := cs } := by
  obtain ⟨i, hi⟩ := h.stored r (by rw [ho]; exact List.mem_cons_self)
  obtain ⟨f, hf, -⟩ := frameOf_spec hi
  have hone : placeOne s (r, c) = _ := placeRow_closed hi hf [] c []
  have hset : (placeOne s (r, c)).bsm.frames = s.bsm.frames.set i { f with state := rowState r f.state } := by rw [hone]
  refine ⟨by rw [hone]; exact h.state, by rw [hone]; exact h.lock, by rw [hone]; exact h.dirty, by rw [hone]; exact h.speed,
    fun y hy => ?_⟩
  obtain ⟨j, hj⟩ := h.stored y (by rw [ho]; exact List.mem_cons_of_mem _ hy)
  exact ⟨j, (frameOf_set hf hset y.bundle).trans hj⟩

/-- The out-buffer and the slots play no part in what a row placed leaves. -/
theorem placeOne_buffers (s : State) (x : OutRow × Nat) (rest : List OutRow) (cs : List Nat)
    (hf : ∃ i, frameOf s x.1.bundle = some i) :
    placeOne { s with fmt.outBuffer := rest, fmt.slots := cs } x = placeOne s x := by
  obtain ⟨i, hi⟩ := hf
  obtain ⟨f, hframe, -⟩ := frameOf_spec hi
  unfold placeOne
  rw [placeRow_closed (s := { s with fmt.outBuffer := rest, fmt.slots := cs }) hi hframe, placeRow_closed hi hframe]
  rfl

end Sys2Proof.Machine
end

section
/-! SUPPORT. The boundary of a row time while FMT emits, and all that follows it in its step (R41 to R46, R59, R93). -/

namespace Sys2Proof.Machine

variable {s : State}

/-- The out-buffer and the slots play no part in what rows placed leave. -/
theorem foldl_placeOne_buffers (xs : List (OutRow × Nat)) (s : State) (rest out : List OutRow) (cs slots : List Nat)
    (hf : ∀ x ∈ xs, ∃ i, frameOf s x.1.bundle = some i) :
    ({ xs.foldl placeOne { s with fmt.outBuffer := rest, fmt.slots := cs } with fmt.outBuffer := out, fmt.slots := slots } : State)
      = { xs.foldl placeOne s with fmt.outBuffer := out, fmt.slots := slots } := by
  cases xs with
  | nil => rfl
  | cons x xs =>
    rw [List.foldl_cons, List.foldl_cons, placeOne_buffers s x rest cs (hf x List.mem_cons_self)]

/-- Rows that may all be placed go one into each slot, oldest first. -/
theorem placeRows_free : ∀ (k : Nat) {s : State}, PlacesFreely s → (s.fmt.outBuffer.zip s.fmt.slots).length ≤ k →
    placeRows k s = { (s.fmt.outBuffer.zip s.fmt.slots).foldl placeOne s with
      fmt.outBuffer := s.fmt.outBuffer.drop (s.fmt.outBuffer.zip s.fmt.slots).length,
      fmt.slots := s.fmt.slots.drop (s.fmt.outBuffer.zip s.fmt.slots).length }
  | k, s, h, hk => by
    cases ho : s.fmt.outBuffer with
    | nil =>
      rw [placeRows_none (.inr ho), List.zip_nil_left, List.foldl_nil, List.length_nil, List.drop_zero, List.drop_zero, ← ho]
    | cons r rest =>
      cases hs : s.fmt.slots with
      | nil =>
        rw [placeRows_none (.inl hs), List.zip_nil_right, List.foldl_nil, List.length_nil, List.drop_zero, List.drop_zero,
          ← ho, ← hs]
      | cons c cs =>
        rw [ho, hs, List.zip_cons_cons, List.length_cons] at hk
        obtain ⟨k, rfl⟩ : ∃ j, k = j + 1 := ⟨k - 1, by omega⟩
        obtain ⟨d, hd⟩ := reportBoundary_free h r
        have hfound := h.stored r (by rw [ho]; exact List.mem_cons_self)
        have hz := h.placed (c := c) (cs := cs) ho
        have hih := placeRows_free k (s := { placeOne s (r, c) with fmt.outBuffer := rest, fmt.slots := cs }) hz
          (by change (rest.zip cs).length ≤ k; omega)
        rw [placeRows_cons hs ho h.state, if_neg (not_not.2 h.lock), if_neg (by rw [h.dirty]; decide), hd,
          if_pos (show s.mot.lock = .locked from h.lock), placeRow_boundary r rest c cs d hfound, hih,
          List.zip_cons_cons, List.foldl_cons, List.length_cons, List.drop_succ_cons, List.drop_succ_cons]
        refine foldl_placeOne_buffers (rest.zip cs) (placeOne s (r, c)) rest (rest.drop (rest.zip cs).length) cs
          (cs.drop (rest.zip cs).length) fun x hx => ?_
        obtain ⟨i, hi⟩ := hz.stored x.1 (List.of_mem_zip hx).1
        exact ⟨i, hi⟩

/-! ### Rows that wait -/

section
variable {c : Nat} {cs : List Nat} {r : OutRow} {rest : List OutRow} (hs : s.fmt.slots = c :: cs)
  (ho : s.fmt.outBuffer = r :: rest) (hm : s.mot.state = .streamingWrite)
include hs ho hm

/-- Below LOCKED no row is placed. -/
theorem placeRows_unlocked (hl : s.mot.lock ≠ .locked) (k : Nat) : placeRows (k + 1) s = s := by
  rw [placeRows_cons hs ho hm, if_pos hl]

/-- Before the dirty flag is written no row is placed. -/
theorem placeRows_undirty (hl : s.mot.lock = .locked) (hd : s.cml.dirtyWritten = false) (k : Nat) :
    placeRows (k + 1) s = askDirtyWrite s := by
  rw [placeRows_cons hs ho hm, if_neg (not_not.2 hl), if_pos hd]

/-- A new speed adopted at a bundle boundary: the row waits for the lock. -/
theorem placeRows_boundary (hl : s.mot.lock = .locked) (hd : s.cml.dirtyWritten = true) (hb : Begins r)
    (hdone : s.fmt.boundaryDone = false) (hne : s.spm.next ≠ s.mot.speed) (k : Nat) :
    ∃ n, placeRows (k + 1) s = { s with
      fmt.boundaryDone := true, mot.speed := s.spm.next, mot.speedChanges := bump s.mot.speedChanges, mot.lock := .unlocked,
      mot.lockCount := 0, mot.lockLosses := n, mot.limitTimer := some (after s 2000) } := by
  obtain ⟨n, hn⟩ := adoptAtBoundary_changes (s := { s with fmt.boundaryDone := true }) hm hne
  have hreport : reportBoundary r s = adoptAtBoundary { s with fmt.boundaryDone := true } := by
    unfold reportBoundary
    rw [if_pos (by rw [(begins_iff r).2 hb, hdone]; rfl)]
  refine ⟨n, ?_⟩
  rw [placeRows_cons hs ho hm, if_neg (not_not.2 hl), if_neg (by rw [hd]; decide), hreport, hn]
  exact if_neg nofun

end

theorem askDirtyWrite_begins (ha : s.cml.access = none) : ∃ x a n,
    askDirtyWrite s = { s with cml.copy := x, cml.access := some a, cml.accesses := n } ∧ a.kind = .dirtyWrite :=
  ⟨s.cml.copy.map (fun c => { c with dirty := true }), ⟨.dirtyWrite, 1, some ⟨loadCountOf (updateCopy
    (fun c => { c with dirty := true }) s), some true, none, none, none⟩, false⟩, bump s.cml.accesses, by
      unfold askDirtyWrite
      rw [if_neg (by rw [ha]; exact Bool.false_ne_true)]
      unfold beginAccess updateCopy loadCountOf
      cases s.cml.copy <;> rfl, rfl⟩

theorem askDirtyWrite_under (ha : s.cml.access.isSome = true) : askDirtyWrite s = s := if_pos ha

/-! ### The boundary -/

/-- A row time begun while FMT emits: the heads one row time on, the slots offered. -/
def rowTimeBegun (p : Pos) (s : State) : State := { s with
  fmt.slots := activeChannels s.hcm, fmt.blankSlots := closedBlanks s, writeHeads := []
  mot.pos := some { p with index := p.index + 1 } }

section
variable {p : Pos} (h : Emits p s)
include h

theorem Emits.begun_alone : PlacesAlone (rowTimeBegun p s) where
  sig := h.sig
  state := h.heads.1
  phase := h.phase
  port := h.port
  others := h.others

/-- In a row time that begins while FMT emits, only rows are placed. -/
theorem exec_rowTimeBoundary_emits :
    exec .rowTimeBoundary s = .next (placeRows 16 (placeRows 16 (rowTimeBegun p s))) := by
  obtain ⟨hm, hp, hr, -⟩ := h.heads
  have hbegin : beginWriteRowTime { s with
      fmt.slots := [], fmt.blankSlots := closedBlanks s, mot.pos := some { p with index := p.index + 1 } }
      = rowTimeBegun p s :=
    crossEarlyWarning_passes (s := rowTimeBegun p s) (p := { p with index := p.index + 1 }) rfl fun hc => by
      obtain ⟨h1, h2, -⟩ := hc
      rcases h.warned with hw | hw
      · rw [show s.mot.ewReported = false from h1] at hw
        cases hw
      · exact hw h2
  rw [exec_rowTimeBoundary hp, rowBoundary_writing p hm hr, if_pos h.inWrap,
    atIndex_eq (s := { s with fmt.slots := [], fmt.blankSlots := closedBlanks s }) hp, hbegin, h.begun_alone.finish]

/-- What the boundary leaves, whatever is placed. -/
theorem Emits.kept {t : State} (hk : PlacingKeeps (rowTimeBegun p s) t) :
    t.mot.pos = some { p with index := p.index + 1 } ∧ t.mot.state = .streamingWrite ∧ t.fmt.phase = .emitting
      ∧ t.mem = s.mem ∧ t.exu = s.exu ∧ t.ord = s.ord ∧ t.cmp = s.cmp ∧ t.hcm = s.hcm := by
  refine ⟨hk.mot.1, hk.mot.2.trans h.heads.1, hk.fmt.1.trans h.phase.1, ?_, ?_, ?_, ?_, ?_⟩ <;> rw [hk.eq] <;> rfl

theorem Emits.keeps_twice : PlacingKeeps (rowTimeBegun p s) (placeRows 16 (placeRows 16 (rowTimeBegun p s))) := by
  have h1 := placeRows_keeps 16 (rowTimeBegun p s) h.heads.1
  exact h1.trans (placeRows_keeps 16 _ (h1.mot.2.trans h.heads.1))

theorem Emits.slots_eq : activeChannels s.hcm
    = (List.range 16).filter (fun c => (s.hcm.channels[c]?).any (fun x => x.active)) := activeChannels_eq h.sixteen

theorem Emits.blanks (ho : s.fmt.outBuffer = []) : closedBlanks s
    = if s.fmt.cursor.isSome = true ∨ ∃ e ∈ s.fmt.rewrites, e.sent = false then
        min (s.fmt.blankSlots + s.fmt.slots.length) 4294967295 else s.fmt.blankSlots := by
  rw [closedBlanks_write h.heads.1]
  simp only [h.heads.2.2.2, ho, true_and]

omit h in
theorem rowTimeBegun_unplaced (ho : s.fmt.outBuffer = []) :
    placeRows 16 (placeRows 16 (rowTimeBegun p s)) = rowTimeBegun p s := by
  rw [placeRows_none (s := rowTimeBegun p s) (.inr ho), placeRows_none (s := rowTimeBegun p s) (.inr ho)]

/-- The first row of a load waits for the write of the dirty flag. -/
theorem Emits.dirtyWrite (ho : s.fmt.outBuffer ≠ []) (hs : activeChannels s.hcm ≠ [])
    (hd : s.cml.dirtyWritten = false) (ha : s.cml.access = none) : ∃ x a n, placeRows 16 (placeRows 16 (rowTimeBegun p s))
      = { rowTimeBegun p s with cml.copy := x, cml.access := some a, cml.accesses := n } ∧ a.kind = .dirtyWrite := by
  obtain ⟨c, cs, hc⟩ := List.exists_cons_of_ne_nil hs
  obtain ⟨r, rest, hr⟩ := List.exists_cons_of_ne_nil ho
  obtain ⟨x, a, n, hask, hk⟩ := askDirtyWrite_begins (s := rowTimeBegun p s) ha
  refine ⟨x, a, n, ?_, hk⟩
  rw [placeRows_undirty (s := rowTimeBegun p s) hc hr h.heads.1 h.heads.2.2.2 hd 15, hask,
    placeRows_undirty (s := { rowTimeBegun p s with cml.copy := x, cml.access := some a, cml.accesses := n }) hc hr h.heads.1
      h.heads.2.2.2 hd 15]
  exact askDirtyWrite_under (s := { rowTimeBegun p s with cml.copy := x, cml.access := some a, cml.accesses := n }) rfl

theorem Emits.boundary {r : OutRow} {rest : List OutRow} (ho : s.fmt.outBuffer = r :: rest) (hs : activeChannels s.hcm ≠ [])
    (hb : Begins r) (hdone : s.fmt.boundaryDone = false) (hd : s.cml.dirtyWritten = true) (hne : s.spm.next ≠ s.mot.speed) :
    ∃ n, placeRows 16 (placeRows 16 (rowTimeBegun p s)) = { rowTimeBegun p s with
      fmt.boundaryDone := true, mot.speed := s.spm.next, mot.speedChanges := bump s.mot.speedChanges, mot.lock := .unlocked,
      mot.lockCount := 0, mot.lockLosses := n, mot.limitTimer := some (after s 2000) } := by
  obtain ⟨c, cs, hc⟩ := List.exists_cons_of_ne_nil hs
  obtain ⟨n, hn⟩ := placeRows_boundary (s := rowTimeBegun p s) hc ho h.heads.1 h.heads.2.2.2 hd hb hdone hne 15
  refine ⟨n, ?_⟩
  rw [hn]
  exact placeRows_unlocked (s := { rowTimeBegun p s with
    fmt.boundaryDone := true, mot.speed := s.spm.next, mot.speedChanges := bump s.mot.speedChanges, mot.lock := .unlocked
    mot.lockCount := 0, mot.lockLosses := n, mot.limitTimer := some (after s 2000) }) hc ho h.heads.1 nofun 15

/-- Rows that may all be placed. -/
theorem Emits.places (hd : s.cml.dirtyWritten = true) (hspeed : s.spm.next = s.mot.speed) {placed : List (OutRow × Nat)}
    (hz : s.fmt.outBuffer.zip (activeChannels s.hcm) = placed) :
    Placing (serpentine s p.wrap (p.index + 1)) placed (rowTimeBegun p s) (placed.foldl placeOne (rowTimeBegun p s))
    ∧ placeRows 16 (placeRows 16 (rowTimeBegun p s)) = { placed.foldl placeOne (rowTimeBegun p s) with
        fmt.outBuffer := s.fmt.outBuffer.drop placed.length, fmt.slots := (activeChannels s.hcm).drop placed.length } := by
  have hfree : PlacesFreely (rowTimeBegun p s) := ⟨h.heads.1, h.heads.2.2.2, hd, hspeed, h.stored⟩
  have hlen : (activeChannels s.hcm).length ≤ 16 := by
    rw [h.slots_eq]
    exact (List.length_filter_le _ _).trans (List.length_range (n := 16)).le
  have hplaced : placed.length = min s.fmt.outBuffer.length (activeChannels s.hcm).length := by rw [← hz, List.length_zip]
  have hrun := placeRows_free 16 hfree (by
    change (s.fmt.outBuffer.zip (activeChannels s.hcm)).length ≤ 16
    rw [hz, hplaced]
    omega)
  have hrun' : placeRows 16 (rowTimeBegun p s) = { placed.foldl placeOne (rowTimeBegun p s) with
      fmt.outBuffer := s.fmt.outBuffer.drop placed.length, fmt.slots := (activeChannels s.hcm).drop placed.length } := by
    rw [← hz]
    exact hrun
  refine ⟨?_, ?_⟩
  · have hfold := placing_foldl (s := rowTimeBegun p s) rfl placed [] (rowTimeBegun p s) (placing_nil _ _) fun x hx => by
      rw [← hz] at hx
      exact h.stored x.1 (List.of_mem_zip hx).1
    rw [List.nil_append] at hfold
    exact hfold
  · rw [hrun']
    refine placeRows_none (s := { placed.foldl placeOne (rowTimeBegun p s) with
      fmt.outBuffer := s.fmt.outBuffer.drop placed.length, fmt.slots := (activeChannels s.hcm).drop placed.length }) ?_ 16
    rcases Nat.le_total s.fmt.outBuffer.length (activeChannels s.hcm).length with hle | hle
    · exact .inr (List.drop_of_length_le (by omega))
    · exact .inl (List.drop_of_length_le (by omega))

end

/-- Rows placed, as the statements speak of them. -/
theorem Placing.rowsPlaced {p : Pos} {place : Nat} {placed : List (OutRow × Nat)} {t : State} (he : Emits p s)
    (h : Placing place placed (rowTimeBegun p s) t) (out : List OutRow) (slots : List Nat) :
    RowsPlaced place placed s { t with fmt.outBuffer := out, fmt.slots := slots } where
  window := h.window
  heads := h.heads
  counted := ⟨h.rows he.counts.1, h.rewrites he.counts.2⟩
  begun := h.begun
  goesOn := h.goesOn
  frames i f b hf hi hno := by
    rw [← placedState_eq b placed f.state hno]
    exact h.frames i f b hf hi
  untouched := h.untouched
  through := h.through
  notYet := h.notYet

/-- Settles O42: a row time while FMT emits, by what is placed in it, and one with nothing but MOT at work, by motion state. -/
theorem rowTimeBoundaryMovesHeads : Obligations.RowTimeBoundaryMovesHeads := by
  refine ⟨fun p s h => ?_, fun p sp s h => ⟨fun hp => ?_, exec_rowTimeBoundary_moves h,
    exec_rowTimeBoundary_nearer h, exec_rowTimeBoundary_reads h, exec_rowTimeBoundary_writes h,
    exec_rowTimeBoundary_within h, exec_rowTimeBoundary_readTurn h, exec_rowTimeBoundary_readEnd h,
    exec_rowTimeBoundary_offers h, fun hp hm hr he hh => ?_, exec_rowTimeBoundary_cleaning h,
    fun hp hm hd _ he => exec_rowTimeBoundary_cleaningEnd h hp hm hd he⟩⟩
  · obtain ⟨hpos, hst, hph, hmem, hexu, hord, hcmp, hhcm⟩ := h.kept h.keeps_twice
    dsimp only
    rw [← h.slots_eq]
    refine ⟨_, exec_rowTimeBoundary_emits h, hpos, hst, hph, hmem, hexu, hord, hcmp, hhcm, fun ho => ?_,
      fun ho hs hd ha => ?_, fun hd hspeed => ?_, fun r rest ho hrow hatt hdone hd hne hs => ?_⟩
    · rw [rowTimeBegun_unplaced ho]
      exact ⟨rfl, rfl, rfl, rfl, h.blanks ho⟩
    · obtain ⟨x, a, n, hq, hk⟩ := h.dirtyWrite ho hs hd ha
      rw [hq]
      exact ⟨congrArg some hk, rfl, rfl, rfl, rfl, h.heads.2.2.2⟩
    · obtain ⟨hpl, hq⟩ := h.places hd hspeed rfl
      rw [hq]
      have hmot := congrArg State.mot hpl.eq
      refine ⟨hpl.rowsPlaced h _ _, rfl, rfl, ?_, ?_, hpl.resume⟩
      · exact (congrArg Mot.lock hmot).trans h.heads.2.2.2
      · exact (congrArg Mot.speed hmot).trans rfl
    · obtain ⟨n, hq⟩ := h.boundary ho hs ⟨hrow, hatt⟩ hdone hd hne
      rw [hq]
      exact ⟨rfl, rfl, rfl, rfl, rfl, rfl, rfl, rfl, rfl⟩
  · change execRowTimeBoundary s = _
    unfold execRowTimeBoundary
    rw [hp]
  · dsimp only
    rw [← closedBlanks_write hm]
    exact ⟨exec_rowTimeBoundary_runsOn h hp hm hr he, exec_rowTimeBoundary_writeTurn h hp hm hr he hh,
      exec_rowTimeBoundary_writeEnd h hp hm hr he hh⟩

end Sys2Proof.Machine
end

section
/-! SUPPORT. A verify result that passes its row (R48), and the releases that follow (R31). -/

namespace Sys2Proof.Machine

variable {s t u : State}

/-! ### With no order TAKEN -/

/-- A signal that only an order TAKEN answers. -/
def Unanswered (x : Signal) : Prop := x = .fenced ∨ x = .writeDrained

theorem answerSignal_unordered {x : Signal} (hx : Unanswered x) (h : s.ord.record = none) : answerSignal x s = s := by
  have hk : takenKind s = none := by unfold takenKind; rw [h]
  rcases hx with rfl | rfl
  · exact onFenced_unordered h
  · change onWriteDrained s = s
    unfold onWriteDrained
    rw [hk]

theorem settle_unordered (k : Nat) : ∀ s : State, s.ord.record = none → (∀ x ∈ s.sig, Unanswered x) → s.sig.length ≤ k →
    settle k s = { s with sig := [] } := by
  induction k with
  | zero =>
    intro s _ _ hl
    have hs : s.sig = [] := List.length_eq_zero_iff.1 (Nat.le_zero.1 hl)
    cases s
    cases hs
    rfl
  | succ k ih =>
    intro s h hx hl
    cases hs : s.sig with
    | nil =>
      rw [settle_none hs]
      cases s
      cases hs
      rfl
    | cons x rest =>
      rw [hs] at hx hl
      have hstep : settle (k + 1) s = settle k (answerSignal x { s with sig := rest }) := by rw [settle, hs]
      rw [hstep, answerSignal_unordered (s := { s with sig := rest }) (hx x List.mem_cons_self) h]
      exact ih { s with sig := rest } h (fun y hy => hx y (List.mem_cons_of_mem x hy)) (Nat.le_of_succ_le_succ hl)

/-- Signals that nothing answers, in a state calm but for them: they go, and the port is granted. -/
theorem finish_unanswered (hc : Calm { s with sig := [] }) (h : s.ord.record = none) (hx : ∀ x ∈ s.sig, Unanswered x)
    (hl : s.sig.length ≤ 64) : finish s = grant { s with sig := [] } := by
  have hf : finish s = finish { s with sig := [] } := by
    unfold finish
    rw [settle_unordered _ s h hx hl, settle_none (s := { s with sig := [] }) rfl]
  rw [hf, finish_calm hc]

/-- While a burst runs nothing else happens. -/
theorem finish_unordered (hc : Calm { s with sig := [] }) (h : s.ord.record = none) (hx : ∀ x ∈ s.sig, Unanswered x)
    (hl : s.sig.length ≤ 64) (hb : s.marb.burst.isSome = true) : finish s = { s with sig := [] } := by
  rw [finish_unanswered hc h hx hl, grant_busy (s := { s with sig := [] }) hb]

/-- While FMT emits in a calm state the tape is not left standing. -/
theorem Calm.tapeMoves (h : Calm s) (hph : s.fmt.phase = .emitting) : tapeStands s.mot = false := by
  rcases h.fmt.1 with h1 | h1 | ⟨-, -, h1, -⟩ | ⟨h1, -⟩
  · exact absurd (hph.symm.trans h1) (by decide)
  · exact absurd (hph.symm.trans h1) (by decide)
  · exact h1
  · exact absurd (hph.symm.trans h1) (by decide)

/-- What RDC, DCP and CML have to go on with is settled by their own values and what little they look at of others. -/
theorem Calm.fmtOnly (h : Calm s) (hrec : s.ord.record = none) (hph : s.fmt.phase = .emitting)
    (he : t = { s with mem := t.mem, exu := t.exu, bsm := t.bsm, fmt := t.fmt, cml := t.cml, hcm := t.hcm, sig := [],
                       marb.lastGeneral := t.marb.lastGeneral, marb.lastGroup := t.marb.lastGroup })
    (hphase : t.fmt.phase = .emitting) (hslots : t.fmt.slots = []) (hread : t.fmt.reading.isSome = true)
    (heod : eodBundle t = eodBundle s) : Calm t := by
  have hrd : t.rdc = s.rdc := by rw [he]
  have hmot : t.mot = s.mot := by rw [he]
  have hord : t.ord = s.ord := by rw [he]
  have hdcp : t.dcp = s.dcp := by rw [he]
  have htr : t.marb.transfers = s.marb.transfers := by rw [he]
  have hrec' : t.ord.record = none := by rw [hord]; exact hrec
  refine ⟨by rw [he], ⟨.inr (.inr (.inl ⟨hphase, emissionWork_reading hread, by rw [hmot]; exact h.tapeMoves hph, .inl hslots⟩)),
    .inr (.inr (.inr (.inl hread)))⟩, ?_, ?_, .inr ⟨atStage_none hrec' _ _, atStage_none hrec' _ _⟩⟩
  · obtain ⟨h1, h2⟩ := h.rdc
    unfold sessionRests sessionEmpty nextBundle at h1
    unfold transferInHand at h2
    unfold rdcAtRest sessionRests sessionEmpty nextBundle transferInHand
    rw [hrd, hmot, heod, htr]
    exact ⟨h1, h2⟩
  · have hdel : delivering t = false := by unfold delivering; rw [atStage_none hrec']; rfl
    rcases h.dcp with h1 | ⟨-, h1⟩ | ⟨h1, -⟩
    · exact .inl (by rw [hdcp]; exact h1)
    · exact .inr (.inl ⟨hdel, by unfold readingBack at h1 ⊢; rw [hord]; exact h1⟩)
    · exact .inr (.inl ⟨hdel, by unfold readingBack at h1 ⊢; rw [hord]; exact h1⟩)

/-! ### A row passed (R48) -/

theorem resultPasses_iff {x : VerifyOutcome} : resultPasses s x = true ↔ ¬ResultFails x s := by
  unfold resultPasses ResultFails
  cases x with
  | notFound => simp
  | found n => simp

theorem markPassed_map (e : WindowEntry) (ms : List PassMap) : ms.map (markPassed e)
    = ms.map (fun m => if m.bundle = e.bundle ∧ e.row ∉ m.passed then { m with passed := m.passed ++ [e.row] } else m) := by
  refine List.map_congr_left fun m _ => ?_
  unfold markPassed
  refine if_congr ?_ rfl rfl
  simp

theorem findFrame_unique {p : Frame → Bool} {i : Nat} {f : Frame} (hf : s.bsm.frames[i]? = some f) (hp : p f = true)
    (hu : ∀ j g, s.bsm.frames[j]? = some g → p g = true → j = i) : findFrame s p = some i := by
  cases hj : findFrame s p with
  | none =>
    have hn := List.findIdx?_eq_none_iff.1 (show s.bsm.frames.findIdx? p = none from hj) f (List.mem_of_getElem? hf)
    exact absurd hp (by rw [hn]; exact Bool.false_ne_true)
  | some j =>
    obtain ⟨g, hg, hpg⟩ := findFrame_spec hj
    rw [hu j g hg hpg]

theorem findFrame_absent {p : Frame → Bool} (h : ∀ g ∈ s.bsm.frames, p g = false) : findFrame s p = none :=
  List.findIdx?_eq_none_iff.2 h

theorem allPassed_iff {f : Fmt} {b : Nat} : allPassed f b = true ↔ ∃ m ∈ f.passMaps, m.bundle = b ∧ m.passed.length = 72 := by
  unfold allPassed
  simp

/-! ### A release (R31) -/

theorem judgeRelease_unordered (h : s.ord.record = none) : judgeRelease s = s := by
  have hw : takenWrites s = false := by simp [takenWrites, takenKind, h]
  unfold judgeRelease
  cases s.ord.releaseMark with
  | none => rfl
  | some m =>
    dsimp only
    rw [hw]
    rfl

theorem tellCml_eq (f : Frame) (b : Nat) (s : State) : tellCml f b s = { s with cml := (tellCml f b s).cml } := by
  unfold tellCml
  split
  · unfold cmlRelease raiseEndPosition
    split_ifs <;> rfl
  · rfl
  · rfl

theorem tellCml_told {f : Frame} {h : BundleHeader} {b : Nat} {p : Placement} (hh : f.header = some h)
    (hp : placementOf s b = some p) : tellCml f b s = cmlRelease h f.index p s := by
  unfold tellCml
  rw [hh, hp]

theorem tellCml_untold {f : Frame} {b : Nat} (hh : f.header = none ∨ placementOf s b = none) : tellCml f b s = s := by
  unfold tellCml
  split
  · next h1 h2 =>
    rcases hh with hh | hh
    · exact absurd (h1.symm.trans hh) nofun
    · exact absurd (h2.symm.trans hh) nofun
  · rfl
  · rfl

theorem tellCml_cml (f : Frame) (b : Nat) (s : State) (x : Bsm) : (tellCml f b { s with bsm := x }).cml = (tellCml f b s).cml := by
  cases hh : f.header with
  | none => rw [tellCml_untold (.inl hh), tellCml_untold (.inl hh)]
  | some h =>
    cases hp : placementOf s b with
    | none => rw [tellCml_untold (.inr hp), tellCml_untold (s := { s with bsm := x }) (.inr hp)]
    | some p =>
      rw [tellCml_told hh hp, tellCml_told (s := { s with bsm := x }) hh hp]
      unfold cmlRelease raiseEndPosition
      split_ifs with h1 h2 h2
      · rfl
      · exact absurd h1 h2
      · exact absurd h2 h1
      · rfl

theorem tellCml_eod (f : Frame) (b : Nat) (s : State) : eodBundle (tellCml f b s) = eodBundle s := by
  unfold tellCml
  split
  · unfold cmlRelease raiseEndPosition
    have hx : ∀ h ix p, eodBundle (extendDirectory h ix p s) = eodBundle s := fun _ _ _ => rfl
    split_ifs
    · unfold setEndPosition
      rw [← hx]
      unfold eodBundle
      dsimp only
      cases (extendDirectory _ _ _ s).cml.map <;> rfl
    · rfl
  · rfl
  · rfl

/-- A frame has been released while no order is TAKEN: it is FREE, its bundle verified, and the store IDLE once no write-mode
frame is left. -/
structure Released (i : Nat) (f : Frame) (b : Nat) (s t : State) : Prop where
  eq       : t = { s with mem := t.mem, exu := t.exu, bsm := t.bsm, fmt := t.fmt, cml := t.cml, hcm := t.hcm, sig := t.sig,
                          marb.lastGeneral := t.marb.lastGeneral, marb.lastGroup := t.marb.lastGroup }
  frames   : t.bsm.frames = modifyAt (fun _ => freeFrame) s.bsm.frames i
  through  : t.bsm.verifiedThrough = b + 1 ∧ t.bsm.sealedThrough = s.bsm.sealedThrough ∧ t.bsm.claims = s.bsm.claims
  mode     : t.bsm.mode = if t.bsm.frames.any (fun g => g.state.writeMode) then .write else .idle
  fmt      : t.fmt.phase = s.fmt.phase ∧ t.fmt.slots = s.fmt.slots ∧ t.fmt.reading = s.fmt.reading
  passMaps : t.fmt.passMaps = s.fmt.passMaps.filter (fun m => !decide (m.bundle = b))
  hcm      : t.hcm = (bundleVerified s).hcm
  cml      : t.cml = (tellCml f b s).cml
  signals  : ∃ l, t.sig = s.sig ++ l ∧ l.length ≤ 2 ∧ ∀ x ∈ l, Unanswered x

theorem settleMode_write (hm : s.bsm.mode = .write) (hcl : s.bsm.claims = []) : settleMode s
    = if holdsWriteFrames s then s else { s with bsm.mode := .idle, sig := s.sig ++ [.writeDrained] } := by
  unfold settleMode
  rw [hm]
  dsimp only
  refine if_congr Iff.rfl rfl ?_
  unfold tellRdc
  exact if_pos (by change List.isEmpty s.bsm.claims = true; rw [hcl]; rfl)

theorem bundleVerified_only (s : State) : HeadCareOnly s (bundleVerified s) :=
  (headCareOnly_hcm s _).trans (headCareOnly_evaluate _)

theorem bundleVerified_hcm (h : t.hcm = s.hcm) : (bundleVerified t).hcm = (bundleVerified s).hcm := by
  unfold bundleVerified
  rw [evaluate_hcm, evaluate_hcm, h]

theorem bundleVerified_sig (s : State) : ∃ l, (bundleVerified s).sig = s.sig ++ l ∧ l.length ≤ 1 ∧ ∀ x ∈ l, Unanswered x := by
  rcases evaluate_sig { s with hcm.channels := s.hcm.channels.map easeChannel, hcm.bundles := bump s.hcm.bundles } with h | h
  · exact ⟨[], h.trans (List.append_nil _).symm, Nat.zero_le 1, nofun⟩
  · exact ⟨[.fenced], h, Nat.le_refl 1, fun x hx => .inl (List.mem_singleton.1 hx)⟩

theorem releaseFrame_released (hrec : s.ord.record = none) (hm : s.bsm.mode = .write) (hb : s.cmp.blocked = false)
    (hcl : s.bsm.claims = []) (i : Nat) (f : Frame) (b : Nat) : Released i f b s (releaseFrame i f b s) := by
  obtain ⟨y, hy⟩ : ∃ y, y = freeFrameAt i { s with bsm.verifiedThrough := b + 1 } := ⟨_, rfl⟩
  obtain ⟨c, hc⟩ : ∃ c, c = (tellCml f b y).cml := ⟨_, rfl⟩
  obtain ⟨u, hu⟩ : ∃ u, u = dropRecords (fun x => x = b) { y with cml := c } := ⟨_, rfl⟩
  have heq : releaseFrame i f b s = settleMode (bundleVerified u) := by
    have hdrop : dropRecords (fun x => x = b) (tellCml f b y) = u := by rw [tellCml_eq, ← hc, hu]
    obtain ⟨m, e, g1, g2, x, l, hv⟩ := (bundleVerified_only u).eq
    have hjudge : judgeRelease (bundleVerified u) = bundleVerified u :=
      judgeRelease_unordered (by rw [hv, hu, hy]; exact hrec)
    have hblocked : (bundleVerified u).cmp.blocked = false := by rw [hv, hu, hy]; exact hb
    unfold releaseFrame
    dsimp only
    rw [← hy, hdrop, hjudge, hblocked]
    rfl
  have hcml : c = (tellCml f b s).cml := by
    rw [hc, hy]
    exact tellCml_cml f b s _
  obtain ⟨l, hsig, hlen, hl⟩ := bundleVerified_sig u
  have hhcm : (bundleVerified u).hcm = (bundleVerified s).hcm := bundleVerified_hcm (by rw [hu, hy]; rfl)
  obtain ⟨m, e, g1, g2, x, l', hv⟩ := (bundleVerified_only u).eq
  rw [hv] at hsig hhcm
  rw [heq, hv]
  rw [settleMode_write (by rw [hu, hy]; exact hm) (by rw [hu, hy]; exact hcl)]
  obtain rfl : l' = u.sig ++ l := hsig
  obtain rfl : x = (bundleVerified s).hcm := hhcm
  rw [hcml] at hu
  rw [hy] at hu
  subst hu
  split_ifs with hh
  · exact ⟨rfl, rfl, ⟨rfl, rfl, rfl⟩, hm.trans (if_pos hh).symm, ⟨rfl, rfl, rfl⟩, rfl, rfl, rfl,
      ⟨l, rfl, by omega, hl⟩⟩
  · refine ⟨rfl, rfl, ⟨rfl, rfl, rfl⟩, (if_neg hh).symm, ⟨rfl, rfl, rfl⟩, rfl, rfl, rfl,
      ⟨l ++ [.writeDrained], List.append_assoc _ _ _, by rw [List.length_append, List.length_singleton]; omega, fun y hy => ?_⟩⟩
    rcases List.mem_append.1 hy with h1 | h1
    · exact hl y h1
    · exact .inr (List.mem_singleton.1 h1)

end Sys2Proof.Machine
end

section
/-! SUPPORT. Verify results: what is taken of one (R47, R48), a row passed and a failure that is rewritten (R51). -/

namespace Sys2Proof.Machine

variable {e : WindowEntry} {rest : List WindowEntry} {x : VerifyOutcome} {s t : State}

/-! ### A result taken -/

theorem takeResult_dropped (hw : s.fmt.window = e :: rest) (hd : e.dropped = true) :
    takeResult x s = { s with fmt.window := rest } := by
  unfold takeResult
  rw [hw]
  exact if_pos hd

/-- A row passed: marked in its pass map, its entry off the rewrite list. -/
def rowMarked (e : WindowEntry) (rest : List WindowEntry) (s : State) : State := { s with
  fmt.window := rest, fmt.passMaps := s.fmt.passMaps.map (markPassed e)
  fmt.rewrites := s.fmt.rewrites.filter (fun r => !sameRow e r) }

theorem takeResult_passes (hw : s.fmt.window = e :: rest) (hd : e.dropped = false) (hx : ¬ResultFails x s) :
    takeResult x s = verifyFrame e.bundle (rowMarked e rest s) := by
  unfold takeResult
  rw [hw]
  dsimp only
  rw [if_neg (by rw [hd]; exact Bool.false_ne_true), if_pos (resultPasses_iff.2 hx)]
  rfl

theorem takeResult_fails (hw : s.fmt.window = e :: rest) (hd : e.dropped = false) (hx : ResultFails x s) :
    takeResult x s = rowFailed e (s.mot.lock = .locked) { s with fmt.window := rest } := by
  unfold takeResult
  rw [hw]
  dsimp only
  rw [if_neg (by rw [hd]; exact Bool.false_ne_true), if_neg (fun h => resultPasses_iff.1 h hx)]

theorem exec_verifyResult_none (h : s.fmt.window = []) : exec (.verifyResult x) s = .next s := by
  change Host.Outcome.next (if s.fmt.window.isEmpty then s else _) = _
  rw [if_pos (by rw [h]; rfl)]

theorem ResultOwed.exec_eq (ho : ResultOwed e rest s) :
    exec (.verifyResult x) s = .next (finish (afterResult (takeResult x s))) := by
  change Host.Outcome.next (if s.fmt.window.isEmpty then s else _) = _
  rw [if_neg (by rw [ho.window]; exact Bool.false_ne_true)]

theorem afterResult_emits (hp : s.fmt.phase = .emitting) (hw : emissionWork s.fmt = true) (hr : s.mot.runOn = .none) :
    afterResult s = s := by
  have hf : fmtCheck s = s := by
    unfold fmtCheck
    rw [hp]
    exact if_pos hw
  unfold afterResult
  rw [hf]
  unfold windowEmptyReport
  rw [hr]
  split_ifs <;> rfl

/-- After a result that changes neither phase, slots nor reading nothing goes on. -/
theorem ResultOwed.finish_eq (ho : ResultOwed e rest s) (hc : Calm s) (hrec : s.ord.record = none)
    (he : t = { s with mem := t.mem, exu := t.exu, bsm := t.bsm, fmt := t.fmt, cml := t.cml, hcm := t.hcm, sig := t.sig,
                       marb.lastGeneral := t.marb.lastGeneral, marb.lastGroup := t.marb.lastGroup })
    (hphase : t.fmt.phase = s.fmt.phase) (hslots : t.fmt.slots = s.fmt.slots) (hread : t.fmt.reading = s.fmt.reading)
    (heod : eodBundle t = eodBundle s) (hx : ∀ y ∈ t.sig, Unanswered y) (hl : t.sig.length ≤ 64) :
    finish (afterResult t) = { t with sig := [] } := by
  have hread' : t.fmt.reading.isSome = true := by rw [hread]; exact ho.reading
  have hphase' : t.fmt.phase = .emitting := hphase.trans ho.phase
  rw [afterResult_emits hphase' (emissionWork_reading hread') (by rw [he]; exact ho.runOn)]
  refine finish_unordered (hc.fmtOnly (t := { t with sig := [] }) hrec ho.phase ?_ hphase' (hslots.trans ho.slots) hread' heod)
    (by rw [he]; exact hrec) hx hl (by rw [he]; exact ho.burst)
  generalize t.mem = a, t.exu = b, t.bsm = c, t.fmt = d, t.cml = f, t.hcm = g, t.sig = k, t.marb.lastGeneral = m,
    t.marb.lastGroup = n at he
  rw [he]

theorem ResultOwed.exec_dropped (ho : ResultOwed e rest s) (hc : Calm s) (hrec : s.ord.record = none) (hd : e.dropped = true) :
    exec (.verifyResult x) s = .next { s with fmt.window := rest } := by
  rw [ho.exec_eq, takeResult_dropped ho.window hd, ho.finish_eq (t := { s with fmt.window := rest }) hc hrec rfl rfl rfl rfl rfl
    (by rw [hc.sig]; nofun) (by rw [hc.sig]; exact Nat.zero_le _)]
  rw [hc.sig]

/-! ### A row passed -/

theorem verifyFrame_stays {b : Nat} (h : findFrame s (fun f => f.state = .pending && f.bundle = some b) = none
    ∨ allPassed s.fmt b = false) : verifyFrame b s = s := by
  unfold verifyFrame
  cases hf : findFrame s (fun f => f.state = .pending && f.bundle = some b) with
  | none => rfl
  | some i =>
    dsimp only
    rw [h.resolve_left (by rw [hf]; nofun)]
    rfl

theorem verifyFrame_verifies {b i : Nat} (h : findFrame s (fun f => f.state = .pending && f.bundle = some b) = some i)
    (hp : allPassed s.fmt b = true) : verifyFrame b s = releaseVerified (setFrameState i .verified s) := by
  unfold verifyFrame
  rw [h]
  exact if_pos hp

theorem releaseRun_stays (h : findFrame s (fun f => f.state = .verified && f.bundle = some s.bsm.verifiedThrough) = none)
    (k : Nat) : releaseRun k s = s := by
  cases k with
  | zero => rfl
  | succ k =>
    unfold releaseRun
    dsimp only
    rw [h]

theorem releaseRun_releases {i : Nat} {f : Frame}
    (h : findFrame s (fun f => f.state = .verified && f.bundle = some s.bsm.verifiedThrough) = some i)
    (hf : s.bsm.frames[i]? = some f) (k : Nat) :
    releaseRun (k + 1) s = releaseRun k (releaseFrame i f s.bsm.verifiedThrough s) := by
  have hf' : frameAt s i = some f := hf
  rw [releaseRun, h]
  dsimp only
  rw [hf']

theorem Calm.sig_length (h : Calm s) : s.sig.length ≤ 64 := by rw [h.sig]; exact Nat.zero_le _

theorem Calm.sig_unanswered (h : Calm s) : ∀ y ∈ s.sig, Unanswered y := by rw [h.sig]; nofun

/-- A row passed, with its bundle not to be verified yet. -/
theorem ResultOwed.exec_passed (ho : ResultOwed e rest s) (hc : Calm s) (hrec : s.ord.record = none) (hd : e.dropped = false)
    (hx : ¬ResultFails x s) (hv : findFrame s (fun f => f.state = .pending && f.bundle = some e.bundle) = none
      ∨ allPassed (rowMarked e rest s).fmt e.bundle = false) :
    exec (.verifyResult x) s = .next (rowMarked e rest s) := by
  rw [ho.exec_eq, takeResult_passes ho.window hd hx, verifyFrame_stays (s := rowMarked e rest s) hv,
    ho.finish_eq (t := rowMarked e rest s) hc hrec rfl rfl rfl rfl rfl hc.sig_unanswered hc.sig_length]
  refine congrArg Host.Outcome.next ?_
  unfold rowMarked
  rw [hc.sig]

/-- The last row of a bundle passed: its frame is VERIFIED, and the releases run. -/
theorem ResultOwed.exec_verified (ho : ResultOwed e rest s) (hd : e.dropped = false) (hx : ¬ResultFails x s) {i : Nat} {f : Frame}
    (hf : s.bsm.frames[i]? = some f) (hs : f.state = .pending) (hb : f.bundle = some e.bundle)
    (hu : ∀ j g, s.bsm.frames[j]? = some g → g.bundle = some e.bundle → j = i)
    (hp : allPassed (rowMarked e rest s).fmt e.bundle = true) :
    exec (.verifyResult x) s = .next (finish (afterResult (releaseRun s.bsm.frames.length
      { rowMarked e rest s with bsm.frames := s.bsm.frames.set i { f with state := .verified } }))) := by
  have hi : findFrame (rowMarked e rest s) (fun f => f.state = .pending && f.bundle = some e.bundle) = some i :=
    findFrame_unique (s := rowMarked e rest s) hf (by simp [hs, hb])
      (fun j g hg hpg => hu j g hg (by simp only [Bool.and_eq_true, decide_eq_true_eq] at hpg; exact hpg.2))
  have hset : setFrameState i .verified (rowMarked e rest s)
      = { rowMarked e rest s with bsm.frames := s.bsm.frames.set i { f with state := .verified } } := by
    unfold setFrameState updateFrame
    rw [modifyAt_some (show (rowMarked e rest s).bsm.frames[i]? = some f from hf)]
    rfl
  rw [ho.exec_eq, takeResult_passes ho.window hd hx, verifyFrame_verifies hi hp, hset]
  unfold releaseVerified
  rw [show ({ rowMarked e rest s with bsm.frames := s.bsm.frames.set i { f with state := .verified } } : State).bsm.frames.length
    = s.bsm.frames.length from List.length_set]

/-- A bundle verified while a lower one is held: its frame stays. -/
theorem ResultOwed.exec_verified_stays (ho : ResultOwed e rest s) (hc : Calm s) (hrec : s.ord.record = none)
    (hd : e.dropped = false) (hx : ¬ResultFails x s) {i : Nat} {f : Frame}
    (hf : s.bsm.frames[i]? = some f) (hs : f.state = .pending) (hb : f.bundle = some e.bundle)
    (hu : ∀ j g, s.bsm.frames[j]? = some g → g.bundle = some e.bundle → j = i)
    (hp : allPassed (rowMarked e rest s).fmt e.bundle = true) (hne : e.bundle ≠ s.bsm.verifiedThrough)
    (hn : ∀ g ∈ s.bsm.frames, ¬(g.state = .verified ∧ g.bundle = some s.bsm.verifiedThrough)) :
    exec (.verifyResult x) s
      = .next { rowMarked e rest s with bsm.frames := s.bsm.frames.set i { f with state := .verified } } := by
  rw [ho.exec_verified hd hx hf hs hb hu hp, releaseRun_stays (findFrame_absent fun g hg => ?_), ho.finish_eq
    (t := { rowMarked e rest s with bsm.frames := s.bsm.frames.set i { f with state := .verified } }) hc hrec rfl rfl rfl rfl rfl
    hc.sig_unanswered hc.sig_length]
  · refine congrArg Host.Outcome.next ?_
    unfold rowMarked
    rw [hc.sig]
  · rw [Bool.eq_false_iff]
    intro h
    simp only [Bool.and_eq_true, decide_eq_true_eq] at h
    rcases List.mem_or_eq_of_mem_set hg with h1 | rfl
    · exact hn g h1 h
    · exact hne (Option.some.inj (hb.symm.trans h.2))

end Sys2Proof.Machine
end

section
/-! SUPPORT. The releases that follow a bundle verified (R31), one and two in a run. -/

namespace Sys2Proof.Machine

variable {e : WindowEntry} {rest : List WindowEntry} {x : VerifyOutcome} {s t u : State}

theorem cmlRelease_cml (h : BundleHeader) (ix : List IndexEntry) (p : Placement) (s : State) (f : Fmt) :
    (cmlRelease h ix p { s with fmt := f }).cml = (cmlRelease h ix p s).cml := by
  unfold cmlRelease raiseEndPosition
  split_ifs with h1 h2 h2
  · rfl
  · exact absurd h1 h2
  · exact absurd h2 h1
  · rfl

theorem Released.eodBundle_eq {i b : Nat} {f : Frame} (h : Released i f b s t) : eodBundle t = eodBundle s := by
  rw [← tellCml_eod f b s]
  unfold eodBundle
  rw [h.cml]

/-- A run of releases, one after the other. -/
structure ReleasedRun (s t : State) : Prop where
  eq       : t = { s with mem := t.mem, exu := t.exu, bsm := t.bsm, fmt := t.fmt, cml := t.cml, hcm := t.hcm, sig := t.sig,
                          marb.lastGeneral := t.marb.lastGeneral, marb.lastGroup := t.marb.lastGroup }
  fmt      : t.fmt.phase = s.fmt.phase ∧ t.fmt.slots = s.fmt.slots ∧ t.fmt.reading = s.fmt.reading
  eod      : eodBundle t = eodBundle s

theorem Released.run {i b : Nat} {f : Frame} (h : Released i f b s t) : ReleasedRun s t := ⟨h.eq, h.fmt, h.eodBundle_eq⟩

theorem ReleasedRun.trans (h1 : ReleasedRun s t) (h2 : ReleasedRun t u) : ReleasedRun s u where
  eq := by
    have h := h2.eq
    generalize u.mem = a, u.exu = b, u.bsm = c, u.fmt = d, u.cml = f, u.hcm = g, u.sig = k, u.marb.lastGeneral = m,
      u.marb.lastGroup = n at h ⊢
    rw [h1.eq] at h
    exact h
  fmt := ⟨h2.fmt.1.trans h1.fmt.1, h2.fmt.2.1.trans h1.fmt.2.1, h2.fmt.2.2.trans h1.fmt.2.2⟩
  eod := h2.eod.trans h1.eod

theorem ResultOwed.finish_released (ho : ResultOwed e rest s) (hc : Calm s) (hrec : s.ord.record = none) {frames : List Frame}
    (hr : ReleasedRun { rowMarked e rest s with bsm.frames := frames } t)
    (hx : ∀ y ∈ t.sig, Unanswered y) (hl : t.sig.length ≤ 64) : finish (afterResult t) = { t with sig := [] } :=
  ho.finish_eq hc hrec hr.eq hr.fmt.1 hr.fmt.2.1 hr.fmt.2.2 hr.eod hx hl

section
variable {i : Nat} {f : Frame} (ho : ResultOwed e rest s) (hc : Calm s) (hrec : s.ord.record = none) (hd : e.dropped = false)
  (hx : ¬ResultFails x s) (hf : s.bsm.frames[i]? = some f) (hs : f.state = .pending) (hb : f.bundle = some e.bundle)
  (hu : ∀ j g, s.bsm.frames[j]? = some g → g.bundle = some e.bundle → j = i)
  (hp : allPassed (rowMarked e rest s).fmt e.bundle = true) (hv : e.bundle = s.bsm.verifiedThrough)
  (hm : s.bsm.mode = .write) (hbl : s.cmp.blocked = false) (hcl : s.bsm.claims = [])

/-- The state with the frame of a bundle verified. -/
def bundleMarked (e : WindowEntry) (rest : List WindowEntry) (i : Nat) (f : Frame) (s : State) : State :=
  { rowMarked e rest s with bsm.frames := s.bsm.frames.set i { f with state := .verified } }

include hrec hf hb hu hv hm hbl hcl in
/-- The first release of a run. -/
theorem releaseRun_first (k : Nat) : ∃ t, Released i { f with state := .verified } e.bundle (bundleMarked e rest i f s) t
    ∧ t.bsm.frames = s.bsm.frames.set i freeFrame
    ∧ releaseRun (k + 1) (bundleMarked e rest i f s) = releaseRun k t := by
  have hlt : i < s.bsm.frames.length := (List.getElem?_eq_some_iff.1 hf).1
  have hi : (bundleMarked e rest i f s).bsm.frames[i]? = some { f with state := .verified } := List.getElem?_set_self hlt
  have hr := releaseFrame_released (s := bundleMarked e rest i f s) hrec hm hbl hcl i { f with state := .verified } e.bundle
  have hfind : findFrame (bundleMarked e rest i f s) (fun g => g.state = .verified
      && g.bundle = some (bundleMarked e rest i f s).bsm.verifiedThrough) = some i := by
    refine findFrame_unique hi (by simp [hb, hv, bundleMarked, rowMarked]) fun j g hg hpg => ?_
    by_contra hne
    have hg' : s.bsm.frames[j]? = some g := by
      rw [← hg]
      exact (List.getElem?_set_ne (Ne.symm hne)).symm
    simp only [Bool.and_eq_true, decide_eq_true_eq] at hpg
    exact hne (hu j g hg' (by rw [hv]; exact hpg.2))
  refine ⟨_, hr, ?_, ?_⟩
  · rw [hr.frames, modifyAt_some hi]
    exact List.set_set ..
  · have hrun := releaseRun_releases hfind hi k
    rw [hrun, hv]
    rfl

include ho hc hrec hd hx hf hs hb hu hp hv hm hbl hcl in
/-- A bundle verified and released, the next not VERIFIED. -/
theorem ResultOwed.exec_released (hn : ∀ g ∈ s.bsm.frames, ¬(g.state = .verified ∧ g.bundle = some (e.bundle + 1))) :
    ∃ t, Released i { f with state := .verified } e.bundle (bundleMarked e rest i f s) t
      ∧ t.bsm.frames = s.bsm.frames.set i freeFrame ∧ exec (.verifyResult x) s = .next { t with sig := [] } := by
  have hlt : i < s.bsm.frames.length := (List.getElem?_eq_some_iff.1 hf).1
  obtain ⟨k, hk⟩ : ∃ k, s.bsm.frames.length = k + 1 := ⟨s.bsm.frames.length - 1, by omega⟩
  obtain ⟨t, hr, hfr, hrun⟩ := releaseRun_first (rest := rest) hrec hf hb hu hv hm hbl hcl k
  obtain ⟨l, hsig, hlen, hl⟩ := hr.signals
  have hsig' : t.sig = l := by
    rw [hsig]
    change s.sig ++ l = l
    rw [hc.sig, List.nil_append]
  refine ⟨t, hr, hfr, ?_⟩
  rw [ho.exec_verified hd hx hf hs hb hu hp, hk]
  change Host.Outcome.next (finish (afterResult (releaseRun (k + 1) (bundleMarked e rest i f s)))) = _
  rw [hrun, releaseRun_stays (findFrame_absent fun g hg => ?_), ho.finish_released hc hrec hr.run (by rw [hsig']; exact hl)
    (by rw [hsig']; omega)]
  rw [Bool.eq_false_iff]
  intro h
  simp only [Bool.and_eq_true, decide_eq_true_eq] at h
  rw [hfr] at hg
  rcases List.mem_or_eq_of_mem_set hg with h1 | rfl
  · exact hn g h1 (by rw [hr.through.1] at h; exact h)
  · exact absurd h.1 (by decide)

include ho hc hrec hd hx hf hs hb hu hp hv hm hbl hcl in
/-- A bundle verified and released, and the VERIFIED one after it released too. -/
theorem ResultOwed.exec_released_two {j : Nat} {g : Frame} (hg : s.bsm.frames[j]? = some g) (hgs : g.state = .verified)
    (hgb : g.bundle = some (e.bundle + 1)) (hgu : ∀ k q, s.bsm.frames[k]? = some q → q.bundle = some (e.bundle + 1) → k = j)
    (hn : ∀ q ∈ s.bsm.frames, ¬(q.state = .verified ∧ q.bundle = some (e.bundle + 2))) :
    ∃ t u, Released i { f with state := .verified } e.bundle (bundleMarked e rest i f s) t ∧ Released j g (e.bundle + 1) t u
      ∧ u.bsm.frames = (s.bsm.frames.set i freeFrame).set j freeFrame ∧ exec (.verifyResult x) s = .next { u with sig := [] } := by
  have hij : i ≠ j := by
    rintro rfl
    rw [hf] at hg
    obtain rfl : f = g := Option.some.inj hg
    exact absurd (hs.symm.trans hgs) (by decide)
  have hlt : i < s.bsm.frames.length := (List.getElem?_eq_some_iff.1 hf).1
  have hlt' : j < s.bsm.frames.length := (List.getElem?_eq_some_iff.1 hg).1
  obtain ⟨k, hk⟩ : ∃ k, s.bsm.frames.length = k + 2 := ⟨s.bsm.frames.length - 2, by omega⟩
  obtain ⟨t, hr, hfr, hrun⟩ := releaseRun_first (rest := rest) hrec hf hb hu hv hm hbl hcl (k + 1)
  have hgt : t.bsm.frames[j]? = some g := by
    rw [hfr, List.getElem?_set_ne hij]
    exact hg
  have hmt : t.bsm.mode = .write := by
    rw [hr.mode]
    exact if_pos (List.any_eq_true.2 ⟨g, List.mem_of_getElem? hgt, by rw [hgs]; rfl⟩)
  have hrect : t.ord.record = none := by rw [hr.eq]; exact hrec
  have hblt : t.cmp.blocked = false := by rw [hr.eq]; exact hbl
  have hr2 := releaseFrame_released hrect hmt hblt (hr.through.2.2.trans hcl) j g (e.bundle + 1)
  have hfind : findFrame t (fun q => q.state = .verified && q.bundle = some t.bsm.verifiedThrough) = some j := by
    refine findFrame_unique hgt (by simp [hgs, hgb, hr.through.1]) fun m q hq hpq => ?_
    simp only [Bool.and_eq_true, decide_eq_true_eq] at hpq
    rw [hr.through.1] at hpq
    by_cases him : i = m
    · rw [hfr, ← him, List.getElem?_set_self hlt] at hq
      rw [← Option.some.inj hq] at hpq
      exact absurd hpq.1 (by decide)
    · rw [hfr, List.getElem?_set_ne him] at hq
      exact hgu m q hq hpq.2
  obtain ⟨u, hu2⟩ : ∃ u, u = releaseFrame j g (e.bundle + 1) t := ⟨_, rfl⟩
  rw [← hu2] at hr2
  have hfr2 : u.bsm.frames = (s.bsm.frames.set i freeFrame).set j freeFrame := by rw [hr2.frames, modifyAt_some hgt, hfr]
  obtain ⟨l, hsig, hlen, hl⟩ := hr.signals
  obtain ⟨l2, hsig2, hlen2, hl2⟩ := hr2.signals
  have hsig' : u.sig = l ++ l2 := by
    rw [hsig2, hsig]
    change s.sig ++ l ++ l2 = l ++ l2
    rw [hc.sig, List.nil_append]
  refine ⟨t, u, hr, hr2, hfr2, ?_⟩
  rw [ho.exec_verified hd hx hf hs hb hu hp, hk]
  change Host.Outcome.next (finish (afterResult (releaseRun (k + 1 + 1) (bundleMarked e rest i f s)))) = _
  rw [hrun, releaseRun_releases hfind hgt, hr.through.1, ← hu2, releaseRun_stays (findFrame_absent fun q hq => ?_),
    ho.finish_released hc hrec (hr.run.trans hr2.run) (fun y hy => ?_) (by rw [hsig', List.length_append]; omega)]
  · rw [hsig'] at hy
    exact (List.mem_append.1 hy).elim (hl y) (hl2 y)
  · rw [Bool.eq_false_iff]
    intro h
    simp only [Bool.and_eq_true, decide_eq_true_eq] at h
    rw [hr2.through.1] at h
    rw [hfr2] at hq
    rcases List.mem_or_eq_of_mem_set hq with h1 | rfl
    · rcases List.mem_or_eq_of_mem_set h1 with h2 | rfl
      · exact hn q h2 h
      · exact absurd h.1 (by decide)
    · exact absurd h.1 (by decide)

end

/-! ### A failure that is rewritten (R49 to R51) -/

/-- The state in which a failure has been told: counted, or scored against its channel. -/
def failureTold (e : WindowEntry) (w : Nat) (s : State) : State :=
  if s.mot.lock = .locked then wearEvent e.channel w s
  else { s with fmt.unscoredFailures := bump s.fmt.unscoredFailures }

theorem wearEvent_only (c w : Nat) (s : State) : HeadCareOnly s (wearEvent c w s) :=
  (headCareOnly_hcm s _).trans (headCareOnly_evaluate _)

theorem wearEvent_hcm {c w : Nat} (h : t.hcm = s.hcm) : (wearEvent c w t).hcm = (wearEvent c w s).hcm := by
  unfold wearEvent
  rw [evaluate_hcm, evaluate_hcm, h]

theorem rowFailed_eq (w : Nat) (hw : w = if e.attempt = 3 then 256 else 16) : rowFailed e (s.mot.lock = .locked) s
    = if e.attempt = 3 ∨ (e.attempt = 1 ∧ 32 ≤ s.fmt.rewrites.length) then repeatOrFault e.bundle (failureTold e w s)
      else { failureTold e w s with fmt.rewrites := rejoin e s.fmt.rewrites } := by
  have hk : (failureTold e w s).fmt.rewrites = s.fmt.rewrites := by
    unfold failureTold
    split_ifs
    · obtain ⟨m, e, g1, g2, x, l, hx⟩ := (wearEvent_only _ w s).eq
      rw [hx]
      rfl
    · rfl
  have hn : (if s.mot.lock = .locked then s else { s with fmt.unscoredFailures := bump s.fmt.unscoredFailures }).fmt.rewrites
      = s.fmt.rewrites := by
    split_ifs <;> rfl
  have ht : (if s.mot.lock = .locked then
        wearEvent e.channel w (if s.mot.lock = .locked then s else { s with fmt.unscoredFailures := bump s.fmt.unscoredFailures })
      else (if s.mot.lock = .locked then s else { s with fmt.unscoredFailures := bump s.fmt.unscoredFailures }))
      = failureTold e w s := by
    unfold failureTold
    split_ifs <;> rfl
  unfold rowFailed
  simp only [decide_eq_true_eq, ← hw, hn, ht, hk, Bool.or_eq_true, Bool.and_eq_true]

end Sys2Proof.Machine
end

section
/-! SUPPORT. A failure told to HCM (R49), and one that is rewritten (R51). -/

namespace Sys2Proof.Machine

variable {e : WindowEntry} {rest : List WindowEntry} {x : VerifyOutcome} {s t z : State}

/-! ### The evaluation in states that agree in what EXU looks at -/

theorem SameExchange.hcm (h : SameExchange z s) (y : Hcm) : SameExchange { z with hcm := y } { s with hcm := y } :=
  ⟨h.mem, h.exu, h.time, h.marb⟩

theorem SameExchange.raiseHcm (h : SameExchange z s) (y : Hcm) (c : Condition) (a b d : Nat) :
    SameExchange (Machine.raise c a b d { z with hcm := y }) (Machine.raise c a b d { s with hcm := y }) :=
  SameExchange.raise (h.hcm y) c a b d

theorem retireOrFence_same (h : SameExchange z s) (hh : z.hcm = s.hcm) (c score : Nat) :
    SameExchange (retireOrFence c score z) (retireOrFence c score s) := by
  unfold retireOrFence retireChannel fenceHead
  rw [hh]
  split_ifs
  · exact h.raiseHcm _ _ _ _ _
  · exact h
  · obtain ⟨h1, h2, h3, h4⟩ := h.raiseHcm { s.hcm with fence := true, fences := bump s.hcm.fences } .fenced score c 0
    exact ⟨h1, h2, h3, h4⟩

theorem retirementTest_same (cs : List (Nat × Channel)) : ∀ z s : State, SameExchange z s → z.hcm = s.hcm →
    SameExchange (retirementTest cs z) (retirementTest cs s) := by
  induction cs with
  | nil => exact fun z s h _ => h
  | cons c cs ih =>
    intro z s h hh
    exact ih _ _ (retireOrFence_same h hh c.1 c.2.score) (by rw [retireOrFence_hcm, retireOrFence_hcm, hh])

theorem wornTest_same (h : SameExchange z s) (hh : z.hcm = s.hcm) : SameExchange (wornTest z) (wornTest s) := by
  unfold wornTest
  rw [hh]
  split_ifs
  · exact h.raiseHcm _ _ _ _ _
  · exact h

theorem raiseCall_same (h : SameExchange z s) (hh : z.hcm = s.hcm) (call : CleanCall) (cause : Nat) :
    SameExchange (raiseCall call cause z) (raiseCall call cause s) := by
  unfold raiseCall
  rw [hh]
  exact h.raiseHcm _ _ _ _ _

theorem callTest_same (h : SameExchange z s) (hh : z.hcm = s.hcm) : SameExchange (callTest z) (callTest s) := by
  cases hc : callWanted s.hcm with
  | none => rw [callTest_none hc, callTest_none (by rw [hh]; exact hc)]; exact h
  | some w =>
    obtain ⟨call, cause⟩ := w
    have hr := raiseCall_same h hh call cause
    rw [callTest_some hc, callTest_some (s := z) (by rw [hh]; exact hc), hh]
    split_ifs
    · exact wornTest_same hr (by rw [raiseCall_hcm, raiseCall_hcm, hh])
    · exact hr
    · exact h

/-- The evaluation brings the same to states with one head care monitor that agree in what EXU looks at. -/
theorem evaluate_same (h : SameExchange z s) (hh : z.hcm = s.hcm) : SameExchange (evaluate z) (evaluate s) := by
  have hr : SameExchange (retirementTest (retirees s.hcm) z) (retirementTest (retirees s.hcm) s) :=
    retirementTest_same _ z s h hh
  have hk : (retirementTest (retirees s.hcm) z).hcm = (retirementTest (retirees s.hcm) s).hcm := by
    rw [retirementTest_hcm, retirementTest_hcm, hh]
  unfold evaluate
  rw [hh]
  refine callTest_same ?_ ?_
  · unfold computeHeadIndex
    rw [hk]
    exact hr.hcm _
  · unfold computeHeadIndex
    dsimp only
    rw [hk]

/-! ### The failure told -/

/-- A failure has been told: EXU, memory and the head care monitor as the wear event leaves them, or the count alone changed. -/
structure Told (e : WindowEntry) (w : Nat) (s t : State) : Prop where
  eq      : t = { s with mem := t.mem, exu := t.exu, hcm := t.hcm, sig := t.sig, fmt.unscoredFailures := t.fmt.unscoredFailures,
                         marb.lastGeneral := t.marb.lastGeneral, marb.lastGroup := t.marb.lastGroup }
  told    : FailureTold e w s t
  same    : SameExchange t (if s.mot.lock = .locked then wearEvent e.channel w s else s)
  signals : ∃ l, t.sig = s.sig ++ l ∧ l.length ≤ 1 ∧ ∀ y ∈ l, Unanswered y

theorem wearEvent_sig (c w : Nat) (s : State) : ∃ l, (wearEvent c w s).sig = s.sig ++ l ∧ l.length ≤ 1 ∧ ∀ x ∈ l, Unanswered x := by
  rcases evaluate_sig { s with hcm.channels := modifyAt (addWear w) s.hcm.channels c } with h | h
  · exact ⟨[], h.trans (List.append_nil _).symm, Nat.zero_le 1, nofun⟩
  · exact ⟨[.fenced], h, Nat.le_refl 1, fun x hx => .inl (List.mem_singleton.1 hx)⟩

theorem failureTold_told (e : WindowEntry) (w : Nat) (s : State) : Told e w s (failureTold e w s) := by
  unfold failureTold
  by_cases h : s.mot.lock = .locked
  · rw [if_pos h]
    have hsame : SameExchange (wearEvent e.channel w s) (wearEvent e.channel w s) := .rfl
    obtain ⟨l, hsig, hlen, hl⟩ := wearEvent_sig e.channel w s
    have hhcm : (wearEvent e.channel w s).hcm = (wearEvent e.channel w s).hcm := rfl
    obtain ⟨m, x, g1, g2, y, k, hx⟩ := (wearEvent_only e.channel w s).eq
    refine ⟨?_, ⟨fun _ => ⟨rfl, ?_⟩, fun hn => absurd h hn⟩, by rw [if_pos h]; exact hsame, l, hsig, hlen, hl⟩
    · rw [hx]
      rfl
    · rw [hx]
      rfl
  · rw [if_neg h]
    exact ⟨rfl, ⟨fun hn => absurd hn h, fun _ => ⟨rfl, rfl⟩⟩, by rw [if_neg h]; exact ⟨rfl, rfl, rfl, rfl⟩,
      [], (List.append_nil _).symm, Nat.zero_le 1, nofun⟩

/-- A failure told when its entry has left the window is told as it would have been before. -/
theorem Told.ofWindow (h : Told e w { s with fmt.window := rest } t) : FailureTold e w s t
    ∧ SameExchange t (if s.mot.lock = .locked then wearEvent e.channel w s else s) := by
  have hsame := h.same
  have hw : SameExchange (wearEvent e.channel w { s with fmt.window := rest }) (wearEvent e.channel w s) :=
    evaluate_same ⟨rfl, rfl, rfl, rfl⟩ rfl
  refine ⟨⟨fun hl => ⟨(h.told.scored hl).1.trans (wearEvent_hcm rfl), (h.told.scored hl).2⟩, h.told.unscored⟩, ?_⟩
  by_cases hl : s.mot.lock = .locked
  · rw [if_pos hl] at hsame ⊢
    exact ⟨hsame.mem.trans hw.mem, hsame.exu.trans hw.exu, hsame.time.trans hw.time, hsame.marb.trans hw.marb⟩
  · rw [if_neg hl] at hsame ⊢
    exact ⟨hsame.mem, hsame.exu, hsame.time, hsame.marb⟩

/-! ### A failure that is rewritten -/

theorem ResultOwed.exec_failed (ho : ResultOwed e rest s) (hd : e.dropped = false) (hx : ResultFails x s) :
    ∃ u, Told e (if e.attempt = 3 then 256 else 16) { s with fmt.window := rest } u
      ∧ exec (.verifyResult x) s = .next (finish (afterResult
          (if e.attempt = 3 ∨ (e.attempt = 1 ∧ 32 ≤ s.fmt.rewrites.length) then repeatOrFault e.bundle u
            else { u with fmt.rewrites := rejoin e s.fmt.rewrites }))) := by
  refine ⟨_, failureTold_told e _ { s with fmt.window := rest }, ?_⟩
  rw [ho.exec_eq, takeResult_fails ho.window hd hx]
  exact congrArg (fun y => Host.Outcome.next (finish (afterResult y)))
    (rowFailed_eq (s := { s with fmt.window := rest }) _ rfl)

/-- A failure of attempt 1 or 2 that the rewrite list has room for. -/
theorem ResultOwed.exec_rewritten (ho : ResultOwed e rest s) (hc : Calm s) (hrec : s.ord.record = none) (hd : e.dropped = false)
    (hx : ResultFails x s) (ha : e.attempt = 2 ∨ (e.attempt = 1 ∧ s.fmt.rewrites.length < 32)) :
    ∃ t, exec (.verifyResult x) s = .next t ∧ t.fmt.window = rest ∧ t.fmt.rewrites = rejoin e s.fmt.rewrites
      ∧ t.bsm = s.bsm ∧ t.mot = s.mot ∧ t.cmp = s.cmp ∧ FailureTold e 16 s t := by
  obtain ⟨u, hu, hexec⟩ := ho.exec_failed hd hx
  obtain ⟨hfail, -⟩ := hu.ofWindow
  obtain ⟨l, hsig, hlen, hl⟩ := hu.signals
  have hsig' : u.sig = l := by
    rw [hsig]
    change s.sig ++ l = l
    rw [hc.sig, List.nil_append]
  have hw : (if e.attempt = 3 then 256 else 16) = 16 := if_neg (by omega)
  have he := hu.eq
  rw [hw] at hfail
  have hfmt : u.fmt = { s.fmt with window := rest, unscoredFailures := u.fmt.unscoredFailures } := congrArg State.fmt he
  rw [if_neg (by omega), ho.finish_eq (t := { u with fmt.rewrites := rejoin e s.fmt.rewrites }) hc hrec
    ?_ (by rw [hfmt]) (by rw [hfmt]) (by rw [hfmt]) (by rw [he]; rfl) (by rw [hsig']; exact hl) (by rw [hsig']; omega)] at hexec
  · have hbsm : u.bsm = s.bsm := by rw [he]
    have hmot : u.mot = s.mot := by rw [he]
    have hcmp : u.cmp = s.cmp := by rw [he]
    exact ⟨_, hexec, congrArg Fmt.window hfmt, rfl, hbsm, hmot, hcmp, hfail.scored, hfail.unscored⟩
  · generalize u.mem = a, u.exu = b, u.hcm = c, u.sig = d, u.fmt.unscoredFailures = f, u.marb.lastGeneral = g,
      u.marb.lastGroup = k at he
    rw [he]

end Sys2Proof.Machine
end

section
/-! SUPPORT. FMT going on by itself when rows have been dropped (R43, R56): the next row read, or the stop. -/

namespace Sys2Proof.Machine

variable {s t u : State}

/-! ### What FMT changes when it goes on -/

/-- FMT has gone on: a row may be being read, and it may have come to a stop; what it holds of rows and bundles stays. -/
structure GoesOn (s t : State) : Prop where
  eq       : t = { s with fmt := t.fmt, mot := t.mot, marb.transfers := t.marb.transfers }
  rows     : t.fmt.window = s.fmt.window ∧ t.fmt.outBuffer = s.fmt.outBuffer ∧ t.fmt.passMaps = s.fmt.passMaps
    ∧ t.fmt.placements = s.fmt.placements
  counters : t.fmt.unscoredFailures = s.fmt.unscoredFailures ∧ t.fmt.repeats = s.fmt.repeats
    ∧ t.fmt.writeFaults = s.fmt.writeFaults
  slots    : s.fmt.slots = [] → t.fmt.slots = []
  runOn    : s.mot.runOn = .none → t.mot.runOn = .none
  rewrites : ∀ r ∈ t.fmt.rewrites, ∃ q ∈ s.fmt.rewrites, q.bundle = r.bundle
  stores   : transferInHand s .rowStore = true → transferInHand t .rowStore = true

theorem GoesOn.refl (s : State) : GoesOn s s :=
  ⟨rfl, ⟨rfl, rfl, rfl, rfl⟩, ⟨rfl, rfl, rfl⟩, id, id, fun r h => ⟨r, h, rfl⟩, id⟩

theorem GoesOn.trans (h : GoesOn s t) (k : GoesOn t u) : GoesOn s u where
  eq := by
    have hx := k.eq
    generalize u.fmt = a, u.mot = b, u.marb.transfers = c at hx ⊢
    rw [h.eq] at hx
    exact hx
  rows := by
    obtain ⟨h1, h2, h3, h4⟩ := h.rows
    obtain ⟨k1, k2, k3, k4⟩ := k.rows
    exact ⟨k1.trans h1, k2.trans h2, k3.trans h3, k4.trans h4⟩
  counters := by
    obtain ⟨h1, h2, h3⟩ := h.counters
    obtain ⟨k1, k2, k3⟩ := k.counters
    exact ⟨k1.trans h1, k2.trans h2, k3.trans h3⟩
  slots hs := k.slots (h.slots hs)
  runOn hs := k.runOn (h.runOn hs)
  rewrites r hr := by
    obtain ⟨q, hq, hqr⟩ := k.rewrites r hr
    obtain ⟨p, hp, hpq⟩ := h.rewrites q hq
    exact ⟨p, hp, hpq.trans hqr⟩
  stores hs := k.stores (h.stores hs)

theorem sendFirst_bundles : ∀ (l : List Rewrite) (r : Rewrite), r ∈ sendFirst l → ∃ q ∈ l, q.bundle = r.bundle
  | [], r, h => nomatch h
  | e :: es, r, h => by
    unfold sendFirst at h
    split at h
    · rcases List.mem_cons.1 h with rfl | h
      · exact ⟨r, List.mem_cons_self, rfl⟩
      · obtain ⟨q, hq, hqr⟩ := sendFirst_bundles es r h
        exact ⟨q, List.mem_cons_of_mem e hq, hqr⟩
    · rcases List.mem_cons.1 h with rfl | h
      · exact ⟨e, List.mem_cons_self, rfl⟩
      · exact ⟨r, List.mem_cons_of_mem e h, rfl⟩

/-- The reading of a row, where its bundle has a frame, is raised behind the transfers in hand. -/
theorem beginFetch_eq (r : OutRow) (s : State) : ∃ d l, beginFetch r s
    = { s with fmt.reading := d, marb.transfers := s.marb.transfers ++ l } := by
  unfold beginFetch
  cases frameOf s r.bundle with
  | none => exact ⟨s.fmt.reading, [], by dsimp only; rw [List.append_nil]⟩
  | some i => exact ⟨some r, _, rfl⟩

theorem transferInHand_append {p : Purpose} {l : List Transfer} (h : transferInHand s p = true) :
    (s.marb.transfers ++ l).any (fun t => t.purpose = p) = true := by
  rw [List.any_append, Bool.or_eq_true]
  exact .inl h

/-- A row begun to be read: the first entry of the rewrite list that waits, or the row at the cursor. -/
structure Fetches (s t : State) : Prop where
  eq       : ∃ r c d l, t = { s with fmt.rewrites := r, fmt.cursor := c, fmt.reading := d,
                                     marb.transfers := s.marb.transfers ++ l }
  rewrites : ∀ r ∈ t.fmt.rewrites, ∃ q ∈ s.fmt.rewrites, q.bundle = r.bundle
  cursor   : ∀ c, s.fmt.cursor = some c → c.row < 71 → t.fmt.cursor = some c ∨ t.fmt.cursor = some { c with row := c.row + 1 }

theorem fetches_rewrite (r : OutRow) (s : State) :
    Fetches s (beginFetch r { s with fmt.rewrites := sendFirst s.fmt.rewrites }) := by
  obtain ⟨d, l, h⟩ := beginFetch_eq r { s with fmt.rewrites := sendFirst s.fmt.rewrites }
  rw [h]
  exact ⟨⟨_, _, d, l, rfl⟩, fun q hq => sendFirst_bundles _ q hq, fun c hc _ => .inl hc⟩

theorem advanceCursor_row {c : RowName} (h : c.row < 71) :
    (advanceCursor c s).fmt.cursor = some { c with row := c.row + 1 } := by
  unfold advanceCursor
  exact if_pos h

theorem fetches_cursor {c : RowName} (hc : s.fmt.cursor = some c) (r : OutRow) : Fetches s (beginFetch r (advanceCursor c s)) := by
  obtain ⟨d, l, h⟩ := beginFetch_eq r (advanceCursor c s)
  rw [h]
  refine ⟨⟨s.fmt.rewrites, (advanceCursor c s).fmt.cursor, d, l, rfl⟩, fun q hq => ⟨q, hq, rfl⟩, fun c' hc' hrow => .inr ?_⟩
  obtain rfl : c = c' := Option.some.inj (hc.symm.trans hc')
  exact advanceCursor_row hrow

theorem fetchRow_fetches (s : State) : fetchRow s = s ∨ (s.fmt.reading = none ∧ Fetches s (fetchRow s)) := by
  unfold fetchRow
  split_ifs with h
  · have hr : s.fmt.reading = none := by
      simp only [Bool.and_eq_true, Option.isNone_iff_eq_none] at h
      exact h.1.2
    refine (em (∃ e, s.fmt.rewrites.find? (fun e => !e.sent) = some e)).elim (fun ⟨e, he⟩ => ?_) fun hn => ?_
    · rw [he]
      exact .inr ⟨hr, fetches_rewrite _ s⟩
    · have hf : s.fmt.rewrites.find? (fun e => !e.sent) = none := by
        cases hf : s.fmt.rewrites.find? (fun e => !e.sent) with
        | none => rfl
        | some e => exact absurd ⟨e, hf⟩ hn
      rw [hf]
      dsimp only
      cases hc : s.fmt.cursor with
      | none => exact .inl rfl
      | some c => exact .inr ⟨hr, fetches_cursor hc _⟩
  · exact .inl rfl

theorem Fetches.goesOn (h : Fetches s t) : GoesOn s t := by
  have hr := h.rewrites
  obtain ⟨r, c, d, l, rfl⟩ := h.eq
  exact ⟨rfl, ⟨rfl, rfl, rfl, rfl⟩, ⟨rfl, rfl, rfl⟩, id, id, hr, transferInHand_append⟩

theorem fetchRow_goesOn (s : State) : GoesOn s (fetchRow s) := by
  rcases fetchRow_fetches s with h | ⟨-, h⟩
  · rw [h]
    exact .refl s
  · exact h.goesOn

theorem fetchRow_keeps (s : State) : (fetchRow s).mot = s.mot ∧ (fetchRow s).fmt.phase = s.fmt.phase
    ∧ (fetchRow s).fmt.faultMark = s.fmt.faultMark := by
  rcases fetchRow_fetches s with h | ⟨-, h⟩
  · rw [h]
    exact ⟨rfl, rfl, rfl⟩
  · obtain ⟨r, c, d, l, hx⟩ := h.eq
    rw [hx]
    exact ⟨rfl, rfl, rfl⟩

/-! ### The stop of a permanent write fault (R54, R56) -/

theorem requestStop_phase (p : Nat) (s : State) : (requestStop p s).fmt.phase = s.fmt.phase := by
  unfold requestStop
  dsimp only
  split
  case h_7 =>
    split
    · split_ifs <;> rfl
    all_goals rfl
  case h_1 => split_ifs <;> rfl
  case h_6 => split_ifs <;> rfl
  case h_8 =>
    unfold moveToRunUp
    dsimp only
    split_ifs
    · rfl
    · split
      · split_ifs <;> rfl
      · rfl
  case h_10 =>
    unfold moveToRunUp
    dsimp only
    split
    · split_ifs <;> rfl
    · rfl
  case h_9 => split_ifs <;> rfl
  all_goals rfl

theorem requestStop_goesOn (p : Nat) (s : State) : GoesOn s (requestStop p s) := by
  have hmot : ∀ m, m.runOn = s.mot.runOn → GoesOn s { s with mot := m } :=
    fun m hm => ⟨rfl, ⟨rfl, rfl, rfl, rfl⟩, ⟨rfl, rfl, rfl⟩, id, hm.trans, fun r h => ⟨r, h, rfl⟩, id⟩
  have hstop : ∀ m, GoesOn s (enterStopping .runUp { s with mot := m }) :=
    fun m => ⟨rfl, ⟨rfl, rfl, rfl, rfl⟩, ⟨rfl, rfl, rfl⟩, fun _ => rfl, fun _ => rfl, fun r h => ⟨r, h, rfl⟩, id⟩
  have hrun : ∀ m, m.runOn = s.mot.runOn → GoesOn s (moveToRunUp { s with mot := m }) := fun m hm => by
    unfold moveToRunUp enterTravel
    dsimp only
    split
    · split_ifs <;> exact hmot _ hm
    · exact hmot _ hm
  unfold requestStop holdForTension
  dsimp only
  split
  case h_1 => split_ifs; exacts [hmot _ rfl, hstop _]
  case h_2 => exact hstop _
  case h_3 => exact hstop _
  case h_4 => exact hmot _ rfl
  case h_5 => exact hmot _ rfl
  case h_6 => split_ifs <;> exact hmot _ rfl
  case h_7 =>
    split
    · split_ifs <;> exact hmot _ rfl
    · exact hmot _ rfl
    · exact hmot _ rfl
    · exact .refl s
  case h_8 => split_ifs; exacts [.refl s, hrun _ rfl]
  case h_9 => split_ifs <;> exact hmot _ rfl
  case h_10 => exact hrun _ rfl
  all_goals exact .refl s

/-- FMT stopped, or to stop without a class to tell SPM, with the tape not left standing. -/
def Stops (s : State) : Prop :=
  s.fmt.phase = .stopped
    ∨ ((s.fmt.phase = .emitting ∨ s.fmt.phase = .drainingWindow) ∧ tapeStands s.mot = false ∧ s.fmt.faultMark = true)

theorem fmtStop_goesOn (h : s.fmt.faultMark = true) : GoesOn s (fmtStop s) ∧ (fmtStop s).fmt.phase = .stopped := by
  have hu : underrunStop s.fmt = false := by unfold underrunStop; rw [h]; rfl
  have hset : GoesOn s { s with fmt.phase := .stopped, fmt.faultMark := false } :=
    ⟨rfl, ⟨rfl, rfl, rfl, rfl⟩, ⟨rfl, rfl, rfl⟩, id, id, fun r h => ⟨r, h, rfl⟩, id⟩
  unfold fmtStop
  rw [hu]
  dsimp only
  rw [if_neg Bool.false_ne_true]
  split_ifs
  · exact ⟨hset, rfl⟩
  · exact ⟨hset.trans (requestStop_goesOn _ _), requestStop_phase _ _⟩

theorem fmtCheck_stops (h : Stops s) : GoesOn s (fmtCheck s) ∧ Stops (fmtCheck s) := by
  rcases h with h | ⟨h | h, hstands, hmark⟩
  · have hk : fmtCheck s = s := by unfold fmtCheck; rw [h]
    rw [hk]
    exact ⟨.refl s, .inl h⟩
  · unfold fmtCheck
    rw [h]
    dsimp only
    split_ifs
    · exact ⟨.refl s, .inr ⟨.inl h, hstands, hmark⟩⟩
    · exact ⟨(fmtStop_goesOn hmark).1, .inl (fmtStop_goesOn hmark).2⟩
    · exact ⟨⟨rfl, ⟨rfl, rfl, rfl, rfl⟩, ⟨rfl, rfl, rfl⟩, id, id, fun r h => ⟨r, h, rfl⟩, id⟩, .inr ⟨.inr rfl, hstands, hmark⟩⟩
  · unfold fmtCheck
    rw [h]
    dsimp only
    split_ifs
    · exact ⟨⟨rfl, ⟨rfl, rfl, rfl, rfl⟩, ⟨rfl, rfl, rfl⟩, id, id, fun r h => ⟨r, h, rfl⟩, id⟩, .inr ⟨.inl rfl, hstands, hmark⟩⟩
    · exact ⟨(fmtStop_goesOn hmark).1, .inl (fmtStop_goesOn hmark).2⟩
    · exact ⟨.refl s, .inr ⟨.inr h, hstands, hmark⟩⟩

theorem fetchRow_stops (h : Stops s) : Stops (fetchRow s) := by
  obtain ⟨hm, hp, hf⟩ := fetchRow_keeps s
  unfold Stops
  rw [hm, hp, hf]
  exact h

theorem askAgain_stops (h : Stops s) : askAgain s = s := by
  unfold askAgain
  refine if_neg ?_
  rcases h with h | ⟨-, h, -⟩
  · simp [h]
  · simp [h]

theorem fmtPlace_stops (h : Stops s) (hs : s.fmt.slots = []) : GoesOn s (fmtPlace s) ∧ Stops (fmtPlace s) := by
  unfold fmtPlace
  rw [placeRows_none (.inl hs)]
  split_ifs
  · exact fmtCheck_stops h
  · exact ⟨.refl s, h⟩

/-! ### What follows in the step -/

/-- RDC, DCP and CML have nothing to go on with, and no order is TAKEN. -/
structure OthersRest (s : State) : Prop where
  record : s.ord.record = none
  rdc    : rdcAtRest s
  dcp    : dcpAtRest s

theorem OthersRest.proceed (h : OthersRest s) : proceed s = fmtPlace (askAgain (fetchRow s)) := by
  unfold Machine.proceed
  rw [accessCheck_calm (.inr ⟨atStage_none h.record _ _, atStage_none h.record _ _⟩), dcpCheck_calm h.dcp, dcpCheck_calm h.dcp,
    rdcCheck_calm h.rdc, storeRow_calm h.rdc]

/-- RDC and DCP look at their own values, at what is in hand of a row's writing, and, in a session, at MOT and the tape map. -/
theorem othersRest_of (hr : rdcAtRest s) (hd : dcpAtRest s) (hrec : t.ord.record = none) (happ : t.ord.append = s.ord.append)
    (hrdc : t.rdc = s.rdc) (hdcp : t.dcp = s.dcp) (hm : (t.mot = s.mot ∧ eodBundle t = eodBundle s) ∨ s.rdc.phase = .none)
    (hst : transferInHand s .rowStore = true → transferInHand t .rowStore = true) : OthersRest t := by
  refine ⟨hrec, ⟨?_, ?_⟩, ?_⟩
  · rcases hm with ⟨hm, heod⟩ | hn
    · have h1 := hr.1
      unfold sessionRests sessionEmpty nextBundle at h1 ⊢
      rw [hrdc, hm, heod]
      exact h1
    · exact .inl (by rw [hrdc]; exact hn)
  · rw [hrdc]
    exact hr.2.imp_right hst
  · have hdel : delivering t = false := by unfold delivering; rw [atStage_none hrec]; rfl
    unfold dcpAtRest readingBack
    rw [hdcp, happ]
    rcases hd with h1 | ⟨-, h1⟩ | ⟨h1, -⟩
    · exact .inl h1
    · exact .inr (.inl ⟨hdel, h1⟩)
    · exact .inr (.inl ⟨hdel, h1⟩)

theorem GoesOn.others (h : GoesOn s t) (ho : OthersRest s) (hm : t.mot = s.mot ∨ s.rdc.phase = .none) : OthersRest t := by
  have hord : t.ord = s.ord := by rw [h.eq]
  exact othersRest_of ho.rdc ho.dcp (by rw [hord]; exact ho.record) (by rw [hord]) (by rw [h.eq]) (by rw [h.eq])
    (hm.imp_left fun hm => ⟨hm, by rw [h.eq]; rfl⟩) h.stores

theorem GoesOn.sig (h : GoesOn s t) : t.sig = s.sig := by rw [h.eq]

theorem GoesOn.burst (h : GoesOn s t) : t.marb.burst = s.marb.burst := by rw [h.eq]

theorem proceed_stops (h : Stops s) (ho : OthersRest s) (hs : s.fmt.slots = []) :
    GoesOn s (proceed s) ∧ Stops (proceed s) := by
  have hf := fetchRow_goesOn s
  have hp := fmtPlace_stops (fetchRow_stops h) (hf.slots hs)
  rw [ho.proceed, askAgain_stops (fetchRow_stops h)]
  exact ⟨hf.trans hp.1, hp.2⟩

/-- What follows in the step when FMT may come to a stop. -/
theorem finish_stops (h : Stops s) (ho : OthersRest s) (hn : s.rdc.phase = .none) (hs : s.fmt.slots = [])
    (hx : ∀ y ∈ s.sig, Unanswered y) (hl : s.sig.length ≤ 64) (hb : s.marb.burst.isSome = true) :
    GoesOn { s with sig := [] } (finish s) := by
  obtain ⟨z, hz⟩ : ∃ z, z = { s with sig := [] } := ⟨_, rfl⟩
  have hoz : OthersRest z := by rw [hz]; exact ⟨ho.record, ho.rdc, ho.dcp⟩
  have hsz : z.sig = [] := by rw [hz]
  obtain ⟨h1, k1⟩ := proceed_stops (s := z) (by rw [hz]; exact h) hoz (by rw [hz]; exact hs)
  obtain ⟨h2, -⟩ := proceed_stops k1 (h1.others hoz (.inr (by rw [hz]; exact hn))) (h1.slots (by rw [hz]; exact hs))
  have hf : finish s = proceed (proceed z) := by
    unfold finish
    rw [settle_unordered _ s ho.record hx hl, ← hz]
    dsimp only
    rw [settle_none (h1.sig.trans hsz),
      settle_none (h2.sig.trans (h1.sig.trans hsz)),
      grant_busy (by rw [h2.burst, h1.burst, hz]; exact hb)]
  rw [hf, ← hz]
  exact h1.trans h2

/-! ### The rows of a repeat (R53) -/

/-- FMT emits with a row being read, or at a cursor that has a number of rows of its bundle before it at most. -/
def EmitsFrom (k : Nat) (s : State) : Prop :=
  s.fmt.phase = .emitting ∧ tapeStands s.mot = false ∧ (s.fmt.reading.isSome = true ∨ ∃ c, s.fmt.cursor = some c ∧ c.row ≤ k)

theorem EmitsFrom.work {k : Nat} (h : EmitsFrom k s) : emissionWork s.fmt = true := by
  rcases h.2.2 with hr | ⟨c, hc, -⟩
  · exact emissionWork_reading hr
  · unfold emissionWork
    rw [hc]
    simp

theorem EmitsFrom.fetchRow {k : Nat} (h : EmitsFrom k s) (hk : k < 71) : EmitsFrom (k + 1) (fetchRow s) := by
  obtain ⟨hp, hs, hr⟩ := h
  obtain ⟨hmot, hphase, -⟩ := fetchRow_keeps s
  refine ⟨hphase.trans hp, by rw [hmot]; exact hs, ?_⟩
  rcases fetchRow_fetches s with hf | ⟨hn, hf⟩
  · rw [hf]
    exact hr.imp_right fun ⟨c, hc, hck⟩ => ⟨c, hc, by omega⟩
  · rcases hr with hr | ⟨c, hc, hck⟩
    · rw [hn] at hr
      exact nomatch hr
    · rcases hf.cursor c hc (by omega) with hc' | hc'
      · exact .inr ⟨c, hc', by omega⟩
      · exact .inr ⟨_, hc', by dsimp only; omega⟩

theorem proceed_emitsFrom {k : Nat} (h : EmitsFrom k s) (hk : k < 71) (ho : OthersRest s) (hs : s.fmt.slots = []) :
    proceed s = fetchRow s := by
  have hf := h.fetchRow hk
  have hask : askAgain (fetchRow s) = fetchRow s := by
    unfold askAgain
    exact if_neg (by rw [hf.2.1, Bool.and_false]; exact Bool.false_ne_true)
  rw [ho.proceed, hask]
  unfold fmtPlace
  rw [placeRows_none (.inl ((fetchRow_goesOn s).slots hs)), if_pos (by rw [hf.1]; rfl)]
  unfold fmtCheck
  rw [hf.1]
  exact if_pos hf.work

/-- What follows in the step when FMT goes on to emit. -/
theorem finish_emitsFrom (h : EmitsFrom 0 s) (ho : OthersRest s) (hs : s.fmt.slots = [])
    (hx : ∀ y ∈ s.sig, Unanswered y) (hl : s.sig.length ≤ 64) (hb : s.marb.burst.isSome = true) :
    GoesOn { s with sig := [] } (finish s) ∧ (finish s).mot = s.mot
      ∧ (s.fmt.reading.isSome = true → finish s = { s with sig := [] }) := by
  obtain ⟨z, hz⟩ : ∃ z, z = { s with sig := [] } := ⟨_, rfl⟩
  have hoz : OthersRest z := by rw [hz]; exact ⟨ho.record, ho.rdc, ho.dcp⟩
  have hsz : z.sig = [] := by rw [hz]
  have hez : EmitsFrom 0 z := by rw [hz]; exact h
  have hslots : z.fmt.slots = [] := by rw [hz]; exact hs
  have h1 := fetchRow_goesOn z
  have h2 := fetchRow_goesOn (fetchRow z)
  have hp1 : proceed z = fetchRow z := proceed_emitsFrom hez (by omega) hoz hslots
  have hp2 : proceed (fetchRow z) = fetchRow (fetchRow z) :=
    proceed_emitsFrom (hez.fetchRow (by omega)) (by omega) (h1.others hoz (.inl (fetchRow_keeps z).1)) (h1.slots hslots)
  have hf : finish s = fetchRow (fetchRow z) := by
    unfold finish
    rw [settle_unordered _ s ho.record hx hl, ← hz]
    dsimp only
    rw [hp1, settle_none (h1.sig.trans hsz), hp2,
      settle_none (h2.sig.trans (h1.sig.trans hsz)), grant_busy (by rw [h2.burst, h1.burst, hz]; exact hb)]
  rw [hf, ← hz]
  refine ⟨h1.trans h2, ((fetchRow_keeps _).1.trans (fetchRow_keeps _).1).trans (by rw [hz]), fun hr => ?_⟩
  have hk : fetchRow z = z := fetchRow_calm (.inr (.inr (.inr (.inl (by rw [hz]; exact hr)))))
  rw [hk, hk]

end Sys2Proof.Machine
end

section
/-! SUPPORT. The bundle repeat (R53) and the permanent write fault (R54) of a failure that cannot be rewritten. -/

namespace Sys2Proof.Machine

variable {e : WindowEntry} {rest : List WindowEntry} {x : VerifyOutcome} {b : Nat} {s t u : State}

/-! ### The port while transfers are dropped -/

/-- The port of a state goes on: a burst that runs goes on, and a row's writing stays in hand. -/
structure PortGoesOn (m n : Marb) : Prop where
  burst  : m.burst.isSome = true → n.burst.isSome = true
  stores : m.transfers.any (fun t => t.purpose = .rowStore) = true → n.transfers.any (fun t => t.purpose = .rowStore) = true

theorem PortGoesOn.trans {m n k : Marb} (h1 : PortGoesOn m n) (h2 : PortGoesOn n k) : PortGoesOn m k :=
  ⟨fun h => h2.burst (h1.burst h), fun h => h2.stores (h1.stores h)⟩

theorem dropTransfers_port {p : Purpose → Bool} (hp : p .rowStore = false) (s : State) : PortGoesOn s.marb (dropTransfers p s).marb where
  burst h := by
    unfold dropTransfers
    dsimp only
    split_ifs
    · rw [Option.isSome_map]
      exact h
    · exact h
  stores h := by
    obtain ⟨t, ht, hk⟩ := List.any_eq_true.1 h
    refine List.any_eq_true.2 ⟨t, List.mem_filter.2 ⟨ht, ?_⟩, hk⟩
    rw [decide_eq_true_eq] at hk
    rw [hk, hp]
    rfl

/-! ### What FMT holds of bundles from one on dropped -/

/-- Everything FMT holds of bundles from `b` on has been dropped. -/
structure FmtDropped (b : Nat) (s t : State) : Prop where
  eq       : t = { s with fmt := t.fmt, marb := t.marb }
  window   : t.fmt.window = dropWindow b s.fmt.window
  rows     : t.fmt.outBuffer = s.fmt.outBuffer.filter (fun r => r.bundle < b)
    ∧ t.fmt.rewrites = s.fmt.rewrites.filter (fun r => r.bundle < b)
  records  : t.fmt.passMaps = s.fmt.passMaps.filter (fun m => m.bundle < b)
    ∧ t.fmt.placements = s.fmt.placements.filter (fun m => m.bundle < b)
  kept     : t.fmt.phase = s.fmt.phase ∧ t.fmt.slots = s.fmt.slots ∧ t.fmt.unscoredFailures = s.fmt.unscoredFailures
    ∧ t.fmt.repeats = s.fmt.repeats ∧ t.fmt.writeFaults = s.fmt.writeFaults
  reading  : ∀ r, s.fmt.reading = some r → r.bundle < b → t.fmt.reading = some r
  port     : PortGoesOn s.marb t.marb

theorem abandonReading_none (p : Nat → Bool) (h : s.fmt.reading = none) : abandonReading p s = s := by
  unfold abandonReading
  rw [h]

theorem abandonReading_eq (p : Nat → Bool) (s : State) : ∃ m d, abandonReading p s = { s with marb := m, fmt.reading := d }
    ∧ (∀ r, s.fmt.reading = some r → p r.bundle = false → d = some r) ∧ PortGoesOn s.marb m := by
  cases hr : s.fmt.reading with
  | none =>
    exact ⟨s.marb, s.fmt.reading, abandonReading_none p hr, fun r h => (nomatch h), ⟨id, id⟩⟩
  | some r =>
    cases hp : p r.bundle with
    | true =>
      refine ⟨(dropTransfers (fun x => x = .rowFetch) { s with fmt.reading := none }).marb, none, ?_, fun q hq hpq => ?_,
        dropTransfers_port (decide_eq_false (by decide)) { s with fmt.reading := none }⟩
      · unfold abandonReading
        rw [hr]
        exact if_pos hp
      · rw [← Option.some.inj hq, hp] at hpq
        exact nomatch hpq
    | false =>
      refine ⟨s.marb, some r, ?_, fun q hq _ => hq, ⟨id, id⟩⟩
      unfold abandonReading
      rw [hr]
      dsimp only
      rw [if_neg (by rw [hp]; exact Bool.false_ne_true), ← hr]

theorem not_le_filter {α : Type} (f : α → Nat) (b : Nat) (l : List α) :
    l.filter (fun x => !decide (b ≤ f x)) = l.filter (fun x => decide (f x < b)) := by
  refine List.filter_congr fun x _ => ?_
  rw [← decide_not]
  exact decide_eq_decide.2 Nat.not_le

theorem dropFrom_dropped (b : Nat) (s : State) : FmtDropped b s (dropFrom b s) := by
  obtain ⟨m, d, h, hr, hport⟩ := abandonReading_eq (fun x => b ≤ x) s
  unfold dropFrom
  rw [h]
  exact ⟨rfl, rfl, ⟨rfl, rfl⟩, ⟨not_le_filter _ _ _, not_le_filter _ _ _⟩, ⟨rfl, rfl, rfl, rfl, rfl⟩,
    fun r hq hb => hr r hq (decide_eq_false (Nat.not_le.2 hb)), hport⟩

/-! ### The bundle repeat (R53) -/

theorem repeatsFrame_iff {f : Frame} : repeatsFrame b f = true ↔ Begun b f := by
  unfold repeatsFrame Begun bundleOf
  simp [or_assoc]

theorem repeatOrFault_repeats (h : ∀ f ∈ s.bsm.frames, Begun b f → f.copy ≠ some 2) (hp : s.fmt.phase = .emitting) :
    repeatOrFault b s = repeatBundle b s := by
  have hn : s.bsm.frames.any (fun f => repeatsFrame b f && f.copy = some 2) = false := by
    rw [List.any_eq_false]
    intro f hf hx
    simp only [Bool.and_eq_true, decide_eq_true_eq] at hx
    exact h f hf (repeatsFrame_iff.1 hx.1) hx.2
  have hphase : (repeatBundle b s).fmt.phase = .emitting :=
    (dropFrom_dropped b { s with bsm.frames := s.bsm.frames.map (repeatFrame b), bsm.writtenThrough := b }).kept.1.trans hp
  unfold repeatOrFault
  rw [hn, if_neg Bool.false_ne_true]
  unfold sealedCountCheck
  exact if_neg (by rw [hphase]; simp)

theorem lowestFrame_some : ∀ {l : List Frame}, l ≠ [] → ∃ f, lowestFrame l = some f
  | f :: fs, _ => by
    unfold lowestFrame
    cases lowestFrame fs with
    | none => exact ⟨f, rfl⟩
    | some g =>
      dsimp only
      split_ifs
      · exact ⟨f, rfl⟩
      · exact ⟨g, rfl⟩

theorem nextSealed_some {f : Frame} (hf : f ∈ s.bsm.frames) (hs : f.state = .sealed) :
    ∃ c, nextSealed s = some c ∧ c.row = 0 := by
  have hne : s.bsm.frames.filter (fun f => f.state = .sealed) ≠ [] :=
    List.ne_nil_of_mem (List.mem_filter.2 ⟨hf, by rw [hs]; rfl⟩)
  obtain ⟨g, hg⟩ := lowestFrame_some hne
  unfold nextSealed
  rw [hg]
  exact ⟨_, rfl, rfl⟩

theorem Told.sig_eq {w : Nat} (hu : Told e w { s with fmt.window := rest } u) (hc : Calm s) :
    (∀ y ∈ u.sig, Unanswered y) ∧ u.sig.length ≤ 1 := by
  obtain ⟨l, hsig, hlen, hl⟩ := hu.signals
  have hsig' : u.sig = l := by
    rw [hsig]
    change s.sig ++ l = l
    rw [hc.sig, List.nil_append]
  rw [hsig']
  exact ⟨hl, hlen⟩

/-- A failure that makes a bundle repeat. -/
theorem ResultOwed.exec_repeated (ho : ResultOwed e rest s) (hc : Calm s) (hrec : s.ord.record = none) (hd : e.dropped = false)
    (hx : ResultFails x s) (ha : e.attempt = 3 ∨ (e.attempt = 1 ∧ 32 ≤ s.fmt.rewrites.length))
    (hbegun : ∃ f ∈ s.bsm.frames, Begun e.bundle f ∧ f.bundle = some e.bundle)
    (hcopy : ∀ f ∈ s.bsm.frames, Begun e.bundle f → f.copy ≠ some 2) :
    ∃ t, exec (.verifyResult x) s = .next t ∧ DroppedFrom e.bundle rest s t
      ∧ FailureTold e (if e.attempt = 3 then 256 else 16) s t
      ∧ t.bsm = { s.bsm with frames := s.bsm.frames.map (repeatFrame e.bundle), writtenThrough := e.bundle }
      ∧ t.fmt.repeats = bump s.fmt.repeats
      ∧ (∀ r, s.fmt.reading = some r → r.bundle < e.bundle → t.fmt.reading = some r ∧ t.fmt.cursor = nextSealed t)
      ∧ t.cml = s.cml ∧ t.ord = s.ord ∧ t.cmp = s.cmp ∧ t.mot = s.mot := by
  obtain ⟨u, hu, hexec⟩ := ho.exec_failed hd hx
  obtain ⟨hfail, -⟩ := hu.ofWindow
  obtain ⟨hsig, hlen⟩ := hu.sig_eq hc
  obtain ⟨y, hy⟩ : ∃ y, y = dropFrom e.bundle
    { u with bsm.frames := u.bsm.frames.map (repeatFrame e.bundle), bsm.writtenThrough := e.bundle } := ⟨_, rfl⟩
  have hdrop := dropFrom_dropped e.bundle
    { u with bsm.frames := u.bsm.frames.map (repeatFrame e.bundle), bsm.writtenThrough := e.bundle }
  rw [← hy] at hdrop
  obtain ⟨z, hz⟩ : ∃ z, z = { y with fmt.cursor := nextSealed y, fmt.repeats := bump y.fmt.repeats } := ⟨_, rfl⟩
  have hub : u.bsm = s.bsm := by rw [hu.eq]
  have hum : u.mot = s.mot := by rw [hu.eq]
  have huf : u.fmt = { s.fmt with window := rest, unscoredFailures := u.fmt.unscoredFailures } := congrArg State.fmt hu.eq
  have hyb : y.bsm = { s.bsm with frames := s.bsm.frames.map (repeatFrame e.bundle), writtenThrough := e.bundle } := by
    rw [hdrop.eq, hub]
  have hrep : repeatOrFault e.bundle u = z := by
    rw [repeatOrFault_repeats (by rw [hub]; exact hcopy) (by rw [huf]; exact ho.phase), hz, hy]
    rfl
  have hze : z = { s with mem := z.mem, exu := z.exu, hcm := z.hcm, sig := z.sig, marb := z.marb, bsm := z.bsm, fmt := z.fmt } := by
    rw [hz, hdrop.eq, hu.eq]
  have hzf : z.fmt.phase = .emitting ∧ z.fmt.slots = [] := by
    rw [hz]
    exact ⟨hdrop.kept.1.trans (by rw [huf]; exact ho.phase), hdrop.kept.2.1.trans (by rw [huf]; exact ho.slots)⟩
  have hport : PortGoesOn s.marb z.marb := by
    have hm : z.marb = y.marb := by rw [hz]
    have hs : PortGoesOn s.marb u.marb := by rw [hu.eq]; exact ⟨id, id⟩
    rw [hm]
    exact hs.trans hdrop.port
  have hemit : EmitsFrom 0 z := by
    obtain ⟨f, hf, hfb, -⟩ := hbegun
    obtain ⟨c, hcur, hrow⟩ := nextSealed_some (s := y) (f := repeatFrame e.bundle f)
      (by rw [hyb]; exact List.mem_map_of_mem hf) (by unfold repeatFrame; rw [if_pos (repeatsFrame_iff.2 hfb)])
    refine ⟨hzf.1, ?_, .inr ⟨c, by rw [hz]; exact hcur, hrow.le⟩⟩
    rw [hze]
    exact hc.tapeMoves ho.phase
  have hothers : OthersRest z := by
    refine othersRest_of hc.rdc hc.dcp (by rw [hze]; exact hrec) (by rw [hze]) (by rw [hze]) (by rw [hze]) (.inl ⟨by rw [hze], ?_⟩)
      hport.stores
    rw [hze]
    rfl
  have hzs : z.sig = u.sig := by rw [hz, hdrop.eq]
  obtain ⟨hgo, hmot, hread⟩ := finish_emitsFrom hemit hothers hzf.2 (by rw [hzs]; exact hsig) (by rw [hzs]; omega)
    (hport.burst ho.burst)
  rw [if_pos ha, hrep, afterResult_emits hzf.1 hemit.work (by rw [hze]; exact ho.runOn)] at hexec
  obtain ⟨t, ht⟩ : ∃ t, t = finish z := ⟨_, rfl⟩
  rw [← ht] at hgo hmot hread hexec
  have htb : t.bsm = y.bsm := by rw [hgo.eq, hz]
  have hth : t.hcm = u.hcm := by rw [hgo.eq, hz, hdrop.eq]
  have hkept : t.cml = s.cml ∧ t.ord = s.ord ∧ t.cmp = s.cmp ∧ t.mot = s.mot := by
    refine ⟨?_, ?_, ?_, hmot.trans (by rw [hze])⟩ <;> rw [hgo.eq, hze]
  obtain ⟨hwin, hout, hmaps, hplace⟩ := hgo.rows
  obtain ⟨hun, hrepeats, -⟩ := hgo.counters
  have hzr : z.fmt = { y.fmt with cursor := nextSealed y, repeats := bump y.fmt.repeats } := by rw [hz]
  rw [hzr] at hwin hout hmaps hplace hun hrepeats
  have hyun : t.fmt.unscoredFailures = u.fmt.unscoredFailures := hun.trans hdrop.kept.2.2.1
  refine ⟨t, hexec, ⟨?_, ?_, fun r hr => ?_, ?_, ?_⟩, ?_, htb.trans hyb, ?_, fun r hr hb => ?_, hkept⟩
  · exact hwin.trans (hdrop.window.trans (by rw [huf]; rfl))
  · exact hout.trans (hdrop.rows.1.trans (by rw [huf]))
  · obtain ⟨q, hq, hqr⟩ := hgo.rewrites r hr
    rw [hzr] at hq
    rw [← hqr]
    have hq' : q ∈ u.fmt.rewrites.filter (fun r => r.bundle < e.bundle) := by rw [← hdrop.rows.2]; exact hq
    exact of_decide_eq_true (List.mem_filter.1 hq').2
  · exact hmaps.trans (hdrop.records.1.trans (by rw [huf]))
  · exact hplace.trans (hdrop.records.2.trans (by rw [huf]))
  · refine ⟨fun hl => ?_, fun hl => ?_⟩
    · rw [hth, hyun]
      exact hfail.scored hl
    · rw [hth, hyun]
      exact hfail.unscored hl
  · exact hrepeats.trans (by rw [hdrop.kept.2.2.2.1, huf])
  · have hyr : y.fmt.reading = some r := hdrop.reading r (by rw [huf]; exact hr) hb
    have htz : t = { z with sig := [] } := hread (by rw [hzr]; exact Option.isSome_of_eq_some hyr)
    rw [htz, hz]
    exact ⟨hyr, rfl⟩

end Sys2Proof.Machine
end

section
/-! SUPPORT. The permanent write fault of a failure that cannot be rewritten (R54), and the settled statement. -/

namespace Sys2Proof.Machine

variable {e : WindowEntry} {rest : List WindowEntry} {x : VerifyOutcome} {b : Nat} {s t u v z : State}

/-! ### Conditions raised while a burst runs -/

theorem noteRaise_told (he : z.exu = s.exu) (ht : z.timebase = s.timebase) (c : Condition) (a b d : Nat) :
    noteRaise c a b d z = { z with exu := (noteRaise c a b d s).exu } := by
  obtain ⟨e, h⟩ := noteRaise_frame c a b d z
  have hx : e = (noteRaise c a b d z).exu := by rw [h]
  rw [h, hx]
  refine congrArg (fun y => { z with exu := y }) ?_
  by_cases hb : s.exu.bind = .unbound
  · rw [noteRaise_unbound hb, noteRaise_unbound (s := z) (by rw [he]; exact hb), ht]
    unfold raiseUnbound keepLatest setCond
    cases c <;> simp [he]
  · rw [noteRaise_bound_eq hb, noteRaise_bound_eq (s := z) (by rw [he]; exact hb), counted_eq, counted_eq, ht]
    unfold queueWork raiseCount nextCount
    simp [he]

/-- A condition raised while a burst runs waits, as it does in another state with the same exchange area and time. -/
theorem raise_waits (hz : z.marb.burst.isSome = true) (hs : s.marb.burst.isSome = true) (he : z.exu = s.exu)
    (ht : z.timebase = s.timebase) (c : Condition) (a b d : Nat) :
    raise c a b d z = { z with exu := (raise c a b d s).exu } := by
  rw [raise_busy hz, raise_busy hs, noteRaise_told he ht]

/-! ### The discard (R35) -/

theorem lowestFrame_mem : ∀ {l : List Frame} {g : Frame}, lowestFrame l = some g → g ∈ l
  | f :: fs, g, h => by
    unfold lowestFrame at h
    cases hl : lowestFrame fs with
    | none =>
      rw [hl] at h
      rw [← Option.some.inj h]
      exact List.mem_cons_self
    | some y =>
      rw [hl] at h
      dsimp only at h
      split_ifs at h
      · rw [← Option.some.inj h]
        exact List.mem_cons_self
      · rw [← Option.some.inj h]
        exact List.mem_cons_of_mem f (lowestFrame_mem hl)

theorem lowestFrame_least : ∀ {l : List Frame} {g : Frame}, g ∈ l → (∀ f ∈ l, f = g ∨ bundleOf g < bundleOf f) →
    lowestFrame l = some g
  | f :: fs, g, hg, h => by
    have hfs : ∀ {q}, q ∈ fs → q = g ∨ bundleOf g < bundleOf q := fun hq => h _ (List.mem_cons_of_mem f hq)
    unfold lowestFrame
    cases hl : lowestFrame fs with
    | none =>
      cases fs with
      | nil => rw [List.mem_singleton.1 hg]
      | cons q qs =>
        obtain ⟨y, hy⟩ := lowestFrame_some (List.cons_ne_nil q qs)
        exact nomatch hl.symm.trans hy
    | some y =>
      dsimp only
      by_cases hm : g ∈ fs
      · obtain rfl : y = g := Option.some.inj (hl.symm.trans (lowestFrame_least hm fun q hq => hfs hq))
        rcases h f List.mem_cons_self with rfl | hlt
        · rw [if_pos (Nat.le_refl _)]
        · rw [if_neg (Nat.not_le.2 hlt)]
      · obtain rfl : g = f := (List.mem_cons.1 hg).resolve_right hm
        have hy : y ∈ fs := lowestFrame_mem hl
        rcases hfs hy with rfl | hlt
        · exact absurd hy hm
        · rw [if_pos hlt.le]

/-- CMP has lost its open bundle: its own values, what SPM excludes and the transfers of its work. -/
theorem cmpLose_eq (s : State) : ∃ p m, cmpLose s = { s with spm := p, marb := m, cmp := (cmpLose s).cmp }
    ∧ PortGoesOn s.marb m ∧ (cmpLose s).cmp.blocked = false := by
  obtain ⟨p, hp⟩ : ∃ p, (if s.cmp.blocked then exclusionEnd s else s) = { s with spm := p } := by
    split_ifs
    · unfold exclusionEnd
      split
      · exact ⟨_, rfl⟩
      · exact ⟨s.spm, rfl⟩
    · exact ⟨s.spm, rfl⟩
  unfold cmpLose
  dsimp only
  rw [hp]
  refine ⟨p, _, rfl, ?_, rfl⟩
  exact dropTransfers_port (p := fun q => q = .chunkIn || q = .chunkOut || q = .headerOut) (by decide) { s with spm := p }

/-- The discard of a permanent write fault, of sealed bundles alone. -/
structure Discarded (b o : Nat) (m : TapeMap) (s v : State) : Prop where
  eq    : v = { s with bsm := v.bsm, cmp := v.cmp, spm := v.spm, marb := v.marb, cml.map := v.cml.map, ord.position := v.ord.position }
  store : v.bsm.frames = s.bsm.frames.map (fun f => if f.state.writeMode = true ∧ b ≤ f.bundle.getD 0 then freeFrame else f)
    ∧ v.bsm.sealedThrough = b ∧ v.bsm.writtenThrough = b ∧ v.bsm.verifiedThrough = s.bsm.verifiedThrough
    ∧ v.bsm.claims = s.bsm.claims
  map   : v.cml.map = some { m with eodObject := o, eodBundle := b }
  pos   : v.ord.position = min s.ord.position o
  free  : v.cmp.blocked = false
  port  : PortGoesOn s.marb v.marb

theorem discardFrom_discarded {g : Frame} {h : BundleHeader} {m : TapeMap} (hg : g ∈ s.bsm.frames) (hgw : g.state.writeMode = true)
    (hgb : b ≤ g.bundle.getD 0) (hh : g.header = some h) (hm : s.cml.map = some m)
    (hleast : ∀ f ∈ s.bsm.frames, f.state.writeMode = true → b ≤ f.bundle.getD 0 → f = g ∨ g.bundle.getD 0 < f.bundle.getD 0)
    (hopen : ∀ f ∈ s.bsm.frames, f.state ≠ .opened) :
    (discardFrom b s).1 = (s.bsm.frames.filter (fun f => f.state.writeMode && decide (b ≤ f.bundle.getD 0))).length
      ∧ Discarded b h.firstObject m s (discardFrom b s).2 := by
  have hwork : (s.bsm.frames.filter (fun f => f.state.writeMode && decide (b ≤ bundleOf f))).filter (holdsWork s)
      = s.bsm.frames.filter (fun f => f.state.writeMode && decide (b ≤ bundleOf f)) := by
    refine List.filter_eq_self.2 fun f hf => ?_
    obtain ⟨hf, hw⟩ := List.mem_filter.1 hf
    rw [Bool.and_eq_true] at hw
    unfold holdsWork
    rw [hw.1, decide_eq_true (hopen f hf)]
    rfl
  have hlow : lowestFrame (s.bsm.frames.filter (fun f => f.state.writeMode && decide (b ≤ bundleOf f))) = some g := by
    refine lowestFrame_least (List.mem_filter.2 ⟨hg, by rw [hgw]; exact decide_eq_true hgb⟩) fun f hf => ?_
    obtain ⟨hf, hw⟩ := List.mem_filter.1 hf
    rw [Bool.and_eq_true, decide_eq_true_eq] at hw
    exact hleast f hf hw.1 hw.2
  have hfirst : firstObjectOf s g = some h.firstObject := by
    unfold firstObjectOf
    rw [if_neg (hopen g hg), hh]
    rfl
  have hleft : s.bsm.frames.map (fun f => if f.state.writeMode && decide (b ≤ bundleOf f) then freeFrame else f)
      = s.bsm.frames.map (fun f => if f.state.writeMode = true ∧ b ≤ f.bundle.getD 0 then freeFrame else f) := by
    refine List.map_congr_left fun f _ => if_congr ?_ rfl rfl
    rw [Bool.and_eq_true, decide_eq_true_eq]
    rfl
  obtain ⟨p, k, hc, hport, hopened⟩ := cmpLose_eq { s with
    bsm.frames := s.bsm.frames.map (fun f => if f.state.writeMode && decide (b ≤ bundleOf f) then freeFrame else f)
    bsm.sealedThrough := b, bsm.writtenThrough := b }
  unfold discardFrom
  dsimp only
  rw [hwork, hlow, Option.bind_some, hfirst, hc]
  generalize (cmpLose _).cmp = c at hopened ⊢
  refine ⟨rfl, rfl, ⟨hleft, rfl, rfl, rfl, rfl⟩, ?_, rfl, hopened, hport⟩
  change Option.map _ s.cml.map = _
  rw [hm]
  rfl

/-! ### What ORD and the store make of the fault (R33, R54) -/

theorem settleMode_quiet (hcl : s.bsm.claims = []) (hb : s.cmp.blocked = false) : ∃ m l,
    settleMode s = { s with bsm.mode := m, sig := s.sig ++ l } ∧ l.length ≤ 1 ∧ ∀ y ∈ l, Unanswered y := by
  have hsame : s = { s with bsm.mode := s.bsm.mode, sig := s.sig ++ [] } := by rw [List.append_nil]
  cases hm : s.bsm.mode with
  | write =>
    rw [settleMode_write hm hcl]
    split_ifs
    · exact ⟨s.bsm.mode, [], hsame, Nat.zero_le 1, nofun⟩
    · exact ⟨.idle, [.writeDrained], rfl, Nat.le_refl 1, fun y hy => .inr (List.mem_singleton.1 hy)⟩
  | read =>
    unfold settleMode
    rw [hm]
    dsimp only
    split_ifs
    · exact ⟨s.bsm.mode, [], hsame, Nat.zero_le 1, nofun⟩
    · refine ⟨.idle, [], ?_, Nat.zero_le 1, nofun⟩
      unfold serveCmp
      rw [if_neg (by change ¬(s.cmp.blocked = true); rw [hb]; exact Bool.false_ne_true), List.append_nil]
  | idle =>
    unfold settleMode
    rw [hm]
    exact ⟨s.bsm.mode, [], hsame, Nat.zero_le 1, nofun⟩

theorem ordFault_unordered (h : s.ord.record = none) (b : Nat) (r : FaultReason) :
    ordFault b r s = { s with ord.deferred := s.ord.deferred.or (some (b, r)) } := by
  unfold ordFault
  exact if_neg (by simp [takenWrites, takenKind, h])

/-- A state faulted: the discard made, what FMT and ORD note of it, and the conditions raised. -/
def faulted (b : Nat) (c : Option RowName) (x : Exu) (s v : State) : State := { v with
  exu := x, fmt.cursor := c, fmt.faultMark := true, fmt.writeFaults := bump v.fmt.writeFaults, ord.discardSeen := true
  ord.deferred := s.ord.deferred.or (some (b, .rowFailure)) }

/-- A permanent write fault while no order is TAKEN and a burst runs, in terms of the discard. -/
theorem permanentFault_faulted (hv : (discardFrom b (dropFrom b u)).2 = v)
    (hn : 0 < (discardFrom b (dropFrom b u)).1) (hord : v.ord.record = none ∧ v.ord.deferred = u.ord.deferred)
    (hbv : v.marb.burst.isSome = true) (hbt : t.marb.burst.isSome = true) (he : v.exu = t.exu) (ht : v.timebase = t.timebase) :
    ∃ c, permanentFault b .rowFailure u = fmtCheck (settleMode (faulted b c
      (raise .dataDiscarded (discardFrom b (dropFrom b u)).1 0 0 (raise .deferredFault b 1 0 t)).exu u v)) := by
  have h1 := raise_waits hbv hbt he ht .deferredFault b 1 0
  have ht1 := raise_waits hbt hbt rfl rfl .deferredFault b 1 0
  have hbt1 : (raise .deferredFault b 1 0 t).marb.burst.isSome = true := by rw [ht1]; exact hbt
  have htt1 : (raise .deferredFault b 1 0 t).timebase = t.timebase := by rw [ht1]
  have h2 := raise_waits (z := raise .deferredFault b 1 0 v) (s := raise .deferredFault b 1 0 t) (by rw [h1]; exact hbv) hbt1
    (by rw [h1]) (by rw [h1]; exact ht.trans htt1.symm) .dataDiscarded (discardFrom b (dropFrom b u)).1 0 0
  obtain ⟨x, hx⟩ : ∃ x, x = (raise .dataDiscarded (discardFrom b (dropFrom b u)).1 0 0 (raise .deferredFault b 1 0 t)).exu := ⟨_, rfl⟩
  rw [← hx, h1] at h2
  rw [← hx]
  unfold permanentFault
  dsimp only
  rw [hv, show FaultReason.rowFailure.code = 1 from rfl, h1, h2, if_pos hn]
  unfold markDiscardSeen
  dsimp only
  rw [ordFault_unordered (by exact hord.1)]
  dsimp only
  rw [hord.2]
  exact ⟨_, rfl⟩

end Sys2Proof.Machine
end

section
/-! SUPPORT. A verify result that makes a permanent write fault (R54), and the settled statement. -/

namespace Sys2Proof.Machine

variable {e : WindowEntry} {rest : List WindowEntry} {x : VerifyOutcome} {b : Nat} {s t u v z : State}

theorem GoesOn.unsignalled (h : GoesOn s t) : GoesOn { s with sig := [] } { t with sig := [] } where
  eq := by
    have hx := h.eq
    generalize t.fmt = a, t.mot = b, t.marb.transfers = c at hx ⊢
    rw [hx]
  rows := h.rows
  counters := h.counters
  slots := h.slots
  runOn := h.runOn
  rewrites := h.rewrites
  stores := h.stores

theorem afterResult_stops (h : Stops s) (hr : s.mot.runOn = .none) : GoesOn s (afterResult s) ∧ Stops (afterResult s) := by
  obtain ⟨hgo, hst⟩ := fmtCheck_stops h
  have hw : windowEmptyReport (fmtCheck s) = fmtCheck s := by
    unfold windowEmptyReport
    rw [hgo.runOn hr]
    split_ifs <;> rfl
  unfold afterResult
  rw [hw]
  exact ⟨hgo, hst⟩

/-- What a failure has cost: the bundles from its own on, and what tells of it. -/
structure FaultMade (b o : Nat) (m : TapeMap) (told s t : State) : Prop where
  frames   : t.bsm.frames = s.bsm.frames.map (fun f => if f.state.writeMode = true ∧ b ≤ f.bundle.getD 0 then freeFrame else f)
  through  : t.bsm.sealedThrough = b ∧ t.bsm.writtenThrough = b ∧ t.bsm.verifiedThrough = s.bsm.verifiedThrough
  map      : t.cml.map = some { m with eodObject := o, eodBundle := b }
  ord      : t.ord.position = min s.ord.position o ∧ t.ord.deferred = s.ord.deferred.or (some (b, .rowFailure))
    ∧ t.ord.discardSeen = true
  counted  : t.fmt.writeFaults = bump s.fmt.writeFaults
  exu      : t.exu = told.exu ∧ t.mem = told.mem

theorem repeatOrFault_faults (h : ∃ f ∈ s.bsm.frames, Begun b f ∧ f.copy = some 2) :
    repeatOrFault b s = permanentFault b .rowFailure s := by
  obtain ⟨f, hf, hb, hc⟩ := h
  unfold repeatOrFault
  exact if_pos (List.any_eq_true.2 ⟨f, hf, by rw [repeatsFrame_iff.2 hb, hc]; rfl⟩)

/-- What follows a permanent write fault in its step: the store's mode, and FMT's stop or its next row. -/
theorem finish_faulted (hs : z.sig.length ≤ 1 ∧ ∀ y ∈ z.sig, Unanswered y) (hst : Stops z) (hoth : OthersRest z)
    (hn : z.rdc.phase = .none) (hsl : z.fmt.slots = []) (hrun : z.mot.runOn = .none) (hb : z.marb.burst.isSome = true)
    (hcl : z.bsm.claims = []) (hbl : z.cmp.blocked = false) : ∃ md,
    GoesOn { z with bsm.mode := md, sig := [] } (finish (afterResult (fmtCheck (settleMode z)))) := by
  obtain ⟨md, l, hset, hll, hlx⟩ := settleMode_quiet hcl hbl
  obtain ⟨q, hq⟩ : ∃ q, q = settleMode z := ⟨_, rfl⟩
  rw [← hq] at hset ⊢
  have hqs : q.sig = z.sig ++ l := by rw [hset]
  obtain ⟨hgo1, hst1⟩ := fmtCheck_stops (s := q) (by rw [hset]; exact hst)
  obtain ⟨hgo2, hst2⟩ := afterResult_stops hst1 (hgo1.runOn (by rw [hset]; exact hrun))
  have hgo := hgo1.trans hgo2
  have hothq : OthersRest q := by rw [hset]; exact ⟨hoth.record, hoth.rdc, hoth.dcp⟩
  have hnq : q.rdc.phase = .none := by rw [hset]; exact hn
  have hfin := finish_stops hst2 (hgo.others hothq (.inr hnq)) (by rw [hgo.eq]; exact hnq) (hgo.slots (by rw [hset]; exact hsl))
    (fun y hy => ?_) (by rw [hgo.sig, hqs, List.length_append]; omega) (by rw [hgo.burst, hset]; exact hb)
  · refine ⟨md, ?_⟩
    have hx := hgo.unsignalled.trans hfin
    have hqz : ({ q with sig := [] } : State) = { z with bsm.mode := md, sig := [] } := by rw [hset]
    rw [hqz] at hx
    exact hx
  · rw [hgo.sig, hqs] at hy
    exact (List.mem_append.1 hy).elim (hs.2 y) (hlx y)

/-- A failure that makes a permanent write fault. -/
theorem ResultOwed.exec_faulted (ho : ResultOwed e rest s) (hc : Calm s) (hrec : s.ord.record = none) (hd : e.dropped = false)
    (hx : ResultFails x s) (ha : e.attempt = 3 ∨ (e.attempt = 1 ∧ 32 ≤ s.fmt.rewrites.length))
    {g : Frame} {h : BundleHeader} {m : TapeMap} (hg : g ∈ s.bsm.frames) (hgw : g.state.writeMode = true)
    (hgb : e.bundle ≤ g.bundle.getD 0) (hh : g.header = some h) (hm : s.cml.map = some m)
    (hleast : ∀ f ∈ s.bsm.frames, f.state.writeMode = true → e.bundle ≤ f.bundle.getD 0 →
      f = g ∨ g.bundle.getD 0 < f.bundle.getD 0)
    (hopen : ∀ f ∈ s.bsm.frames, f.state ≠ .opened) (hcopy : ∃ f ∈ s.bsm.frames, Begun e.bundle f ∧ f.copy = some 2)
    (hphase : s.rdc.phase = .none) (hcl : s.bsm.claims = []) {n w : Nat}
    (hn : n = (s.bsm.frames.filter (fun f => f.state.writeMode && decide (e.bundle ≤ f.bundle.getD 0))).length)
    (hw : w = if e.attempt = 3 then 256 else 16) :
    ∃ t, exec (.verifyResult x) s = .next t ∧ DroppedFrom e.bundle rest s t ∧ FailureTold e w s t
      ∧ FaultMade e.bundle h.firstObject m (raise .dataDiscarded n 0 0 (raise .deferredFault e.bundle 1 0
          (if s.mot.lock = .locked then wearEvent e.channel w s else s))) s t := by
  obtain ⟨u, hu, hexec⟩ := ho.exec_failed hd hx
  rw [← hw] at hu
  obtain ⟨hfail, hsame⟩ := hu.ofWindow
  obtain ⟨hsig, hlen⟩ := hu.sig_eq hc
  generalize (if s.mot.lock = .locked then wearEvent e.channel w s else s) = told at hsame ⊢
  have hdrop := dropFrom_dropped e.bundle u
  obtain ⟨y, hy⟩ : ∃ y, y = dropFrom e.bundle u := ⟨_, rfl⟩
  rw [← hy] at hdrop
  have huf : u.fmt = { s.fmt with window := rest, unscoredFailures := u.fmt.unscoredFailures } := congrArg State.fmt hu.eq
  have hyb : y.bsm = s.bsm := by rw [hdrop.eq, hu.eq]
  have hym : y.cml = s.cml := by rw [hdrop.eq, hu.eq]
  obtain ⟨hcount, hdis⟩ := discardFrom_discarded (s := y) (b := e.bundle) (by rw [hyb]; exact hg) hgw hgb hh
    (by rw [hym]; exact hm) (by rw [hyb]; exact hleast) (by rw [hyb]; exact hopen)
  rw [hyb, ← hn] at hcount
  obtain ⟨v, hv⟩ : ∃ v, v = (discardFrom e.bundle y).2 := ⟨_, rfl⟩
  rw [← hv] at hdis
  have hpos : 0 < n := by
    rw [hn]
    exact List.length_pos_of_mem (List.mem_filter.2 ⟨hg, by rw [hgw, decide_eq_true hgb]; rfl⟩)
  have hub : u.marb.burst.isSome = true := by rw [hu.eq]; exact ho.burst
  have hport : PortGoesOn s.marb v.marb := by
    have h1 : PortGoesOn s.marb u.marb := by rw [hu.eq]; exact ⟨id, id⟩
    exact (h1.trans hdrop.port).trans hdis.port
  have hve : v.exu = told.exu := by rw [hdis.eq, hdrop.eq]; exact hsame.exu
  have hvt : v.timebase = told.timebase := by rw [hdis.eq, hdrop.eq]; exact hsame.time
  have hbt : told.marb.burst.isSome = true := by rw [← hsame.marb]; exact hub
  have hvord : v.ord.record = none ∧ v.ord.deferred = u.ord.deferred := by
    rw [hdis.eq, hdrop.eq]
    exact ⟨by rw [hu.eq]; exact hrec, rfl⟩
  obtain ⟨c, hfault⟩ := permanentFault_faulted (b := e.bundle) (u := u) (v := v) (t := told) (by rw [← hy]; exact hv.symm)
    (by rw [← hy, hcount]; exact hpos) hvord (hport.burst ho.burst) hbt hve hvt
  rw [← hy, hcount] at hfault
  generalize hraised : raise .dataDiscarded n 0 0 (raise .deferredFault e.bundle 1 0 told) = raised at hfault ⊢
  have hrmem : raised.mem = told.mem := by
    have h1 := raise_waits hbt hbt rfl rfl .deferredFault e.bundle 1 0
    have hb1 : (raise .deferredFault e.bundle 1 0 told).marb.burst.isSome = true := by rw [h1]; exact hbt
    rw [← hraised, raise_waits hb1 hb1 rfl rfl .dataDiscarded n 0 0]
    change (raise .deferredFault e.bundle 1 0 told).mem = told.mem
    rw [h1]
  obtain ⟨z, hz⟩ : ∃ z, z = faulted e.bundle c raised.exu u v := ⟨_, rfl⟩
  rw [if_pos ha, repeatOrFault_faults (by rw [show u.bsm = s.bsm by rw [hu.eq]]; exact hcopy), hfault, ← hz] at hexec
  have hvf : v.fmt = y.fmt := by rw [hdis.eq]
  have hzf : z.fmt = { y.fmt with cursor := c, faultMark := true, writeFaults := bump y.fmt.writeFaults } := by
    rw [hz, ← hvf]
    rfl
  have hzm : z.mot = s.mot := by rw [hz, faulted, hdis.eq, hdrop.eq, hu.eq]
  have hzs : z.sig = u.sig := by rw [hz, faulted, hdis.eq, hdrop.eq]
  obtain ⟨hyphase, hyslots, hyun, -, hyfaults⟩ := hdrop.kept
  have hstops : Stops z := by
    refine .inr ⟨.inl ?_, by rw [hzm]; exact hc.tapeMoves ho.phase, by rw [hzf]⟩
    rw [hzf]
    exact hyphase.trans (by rw [huf]; exact ho.phase)
  have hothers : OthersRest z := by
    refine othersRest_of hc.rdc hc.dcp (by rw [hz]; exact hvord.1) ?_ ?_ ?_ (.inr hphase) ?_
    · rw [hz, faulted, hdis.eq, hdrop.eq, hu.eq]
    · rw [hz, faulted, hdis.eq, hdrop.eq, hu.eq]
    · rw [hz, faulted, hdis.eq, hdrop.eq, hu.eq]
    · rw [hz]
      exact hport.stores
  obtain ⟨md, hgo⟩ := finish_faulted (z := z) ⟨by rw [hzs]; exact hlen, by rw [hzs]; exact hsig⟩ hstops hothers
    (by rw [hz, faulted, hdis.eq, hdrop.eq, hu.eq]; exact hphase) (by rw [hzf]; exact hyslots.trans (by rw [huf]; exact ho.slots))
    (by rw [hzm]; exact ho.runOn) (by rw [hz]; exact hport.burst ho.burst)
    (by rw [hz]; exact hdis.store.2.2.2.2.trans (by rw [hyb]; exact hcl)) (by rw [hz]; exact hdis.free)
  obtain ⟨t, ht⟩ : ∃ t, t = finish (afterResult (fmtCheck (settleMode z))) := ⟨_, rfl⟩
  rw [← ht] at hgo hexec
  obtain ⟨hwin, hout, hmaps, hplace⟩ := hgo.rows
  obtain ⟨hun, -, hfaults⟩ := hgo.counters
  have hrw := hgo.rewrites
  dsimp only at hwin hout hmaps hplace hun hfaults hrw
  rw [hzf] at hwin hout hmaps hplace hun hfaults hrw
  have htb : t.bsm = { v.bsm with mode := md } := by rw [hgo.eq, hz]; rfl
  have htc : t.cml = v.cml := by rw [hgo.eq, hz]; rfl
  have hto : t.ord = { v.ord with discardSeen := true, deferred := u.ord.deferred.or (some (e.bundle, .rowFailure)) } := by
    rw [hgo.eq, hz]
    rfl
  have hth : t.hcm = u.hcm := by rw [hgo.eq, hz, faulted, hdis.eq, hdrop.eq]
  have htu : t.fmt.unscoredFailures = u.fmt.unscoredFailures := hun.trans hyun
  have hord : u.ord = s.ord := by rw [hu.eq]
  refine ⟨t, hexec, ⟨?_, ?_, fun r hr => ?_, ?_, ?_⟩, ⟨fun hl => ?_, fun hl => ?_⟩, ⟨?_, ?_, ?_, ?_, ?_, ?_, ?_⟩⟩
  · exact hwin.trans (hdrop.window.trans (by rw [huf]; rfl))
  · exact hout.trans (hdrop.rows.1.trans (by rw [huf]))
  · obtain ⟨q, hq, hqr⟩ := hrw r hr
    rw [hdrop.rows.2] at hq
    rw [← hqr]
    exact of_decide_eq_true (List.mem_filter.1 hq).2
  · exact hmaps.trans (hdrop.records.1.trans (by rw [huf]))
  · exact hplace.trans (hdrop.records.2.trans (by rw [huf]))
  · rw [hth, htu]
    exact hfail.scored hl
  · rw [hth, htu]
    exact hfail.unscored hl
  · rw [htb]
    exact hdis.store.1.trans (by rw [hyb])
  · rw [htb]
    exact ⟨hdis.store.2.1, hdis.store.2.2.1, hdis.store.2.2.2.1.trans (by rw [hyb])⟩
  · rw [htc]
    exact hdis.map
  · rw [hto, hord]
    refine ⟨hdis.pos.trans ?_, rfl, rfl⟩
    rw [hdrop.eq, hord]
  · exact hfaults.trans (by rw [hyfaults, huf])
  · rw [hgo.eq, hz]
    rfl
  · rw [hgo.eq, hz, faulted, hdis.eq, hdrop.eq]
    exact hsame.mem.trans hrmem.symm

/-! ### The statement -/

theorem repeatFrame_begun {f : Frame} (h : Begun b f) :
    repeatFrame b f = { f with state := .sealed, copy := some (f.copy.getD 0 + 1) } := if_pos (repeatsFrame_iff.2 h)

theorem repeatFrame_other {f : Frame} (h : ¬Begun b f) : repeatFrame b f = f := if_neg fun hr => h (repeatsFrame_iff.1 hr)

theorem Released.passMaps_eq {i : Nat} {f : Frame} (h : Released i f b s t) :
    t.fmt.passMaps = s.fmt.passMaps.filter (fun m => m.bundle ≠ b) :=
  h.passMaps.trans (List.filter_congr fun _ _ => (decide_not ..).symm)

theorem tellCml_marked {i : Nat} {f : Frame} {h : BundleHeader} {p : Placement} (hh : f.header = some h)
    (hp : placementOf s b = some p) :
    (tellCml { f with state := .verified } b (bundleMarked e rest i f s)).cml = (cmlRelease h f.index p s).cml :=
  (tellCml_cml _ b (rowMarked e rest s) _).trans
    ((congrArg State.cml (tellCml_told (s := rowMarked e rest s) (f := { f with state := .verified }) hh hp)).trans
      (cmlRelease_cml h f.index p s _))

/-- Settles O43: each result is taken by its own rule; what follows it in the step is FMT going on, and nothing else. -/
theorem verifyResultTaken : Obligations.VerifyResultTaken := by
  refine fun e rest x s hc hrec => ⟨exec_verifyResult_none, fun ho => ⟨ho.exec_dropped hc hrec, fun hd hx => ⟨fun hv => ?_,
    fun i f hf hs hb hu hp => ⟨fun hne hn => ?_, fun hv hm hbl hcl => ⟨fun hn => ?_, fun j g hg hgs hgb hgu hn => ?_⟩⟩⟩,
    fun hd hx ha => ho.exec_rewritten hc hrec hd hx ha, fun hd hx ha => ⟨fun hbegun hcopy => ?_,
      fun g h m hg hgw hgb hh hm hleast hopen hcopy hph happ hcl => ?_⟩⟩⟩
  · rw [← markPassed_map]
    refine ho.exec_passed hc hrec hd hx (hv.imp (fun hf => findFrame_absent fun g hg => ?_) fun hm => ?_)
    · have := hf g hg
      simpa using this
    · rw [← markPassed_map] at hm
      rw [Bool.eq_false_iff]
      exact fun hp => let ⟨q, hq, hqp⟩ := allPassed_iff.1 hp; hm q hq hqp
  · rw [← markPassed_map] at hp ⊢
    exact ho.exec_verified_stays hc hrec hd hx hf hs hb hu (allPassed_iff.2 hp) hne hn
  · rw [← markPassed_map] at hp ⊢
    obtain ⟨t, hr, hfr, hex⟩ := ho.exec_released hc hrec hd hx hf hs hb hu (allPassed_iff.2 hp) hv hm hbl hcl hn
    exact ⟨{ t with sig := [] }, hex, hfr, hr.through.1, hr.through.2.1, hr.mode.trans (if_congr List.any_eq_true rfl rfl),
      hr.hcm.trans (bundleVerified_hcm rfl), hr.passMaps_eq, fun h p hh hpl => hr.cml.trans (tellCml_marked hh hpl)⟩
  · rw [← markPassed_map] at hp
    obtain ⟨t, u, hr, hr2, hfr, hex⟩ := ho.exec_released_two hc hrec hd hx hf hs hb hu (allPassed_iff.2 hp) hv hm hbl hcl hg hgs
      hgb hgu hn
    exact ⟨{ u with sig := [] }, hex, hfr, hr2.through.1,
      hr2.hcm.trans (bundleVerified_hcm (hr.hcm.trans (bundleVerified_hcm rfl)))⟩
  · obtain ⟨t, hex, hdropped, hfail, hbsm, hrep, hread, hkept⟩ := ho.exec_repeated hc hrec hd hx ha hbegun hcopy
    refine ⟨t, hex, hdropped, hfail, ?_, fun i f hf => ⟨fun hb => ?_, fun hb => ?_⟩, ?_, ?_, ?_, hrep, hread, hkept⟩
    · rw [hbsm]
      exact List.length_map _
    · rw [hbsm, List.getElem?_map, hf, ← repeatFrame_begun hb]
      rfl
    · rw [hbsm, List.getElem?_map, hf, Option.map_some, repeatFrame_other hb]
    · rw [hbsm]
    · rw [hbsm]
    · rw [hbsm]
  · obtain ⟨t, hex, hdropped, hfail, hmade⟩ := ho.exec_faulted hc hrec hd hx ha hg hgw hgb hh hm hleast hopen hcopy hph hcl rfl rfl
    exact ⟨t, hex, hdropped, hfail, hmade.frames, hmade.through.1, hmade.through.2.1, hmade.through.2.2, hmade.map, hmade.ord.1,
      hmade.ord.2.1, hmade.ord.2.2, hmade.counted, hmade.exu.1, hmade.exu.2⟩

end Sys2Proof.Machine
end

section
/-! SUPPORT. A binding's own accesses (R164, R174): the outcome field and the cells of the held details, written one after the
other at a port at rest. -/

namespace Sys2Proof.Machine

variable {s t u : State} {a : Nat}

/-! ### Accesses done one after the other -/

/-- An access of a binding that leaves those behind it as they are: the outcome of a binding accepted, or a held detail. -/
inductive BindingAccess : ExuWork → Prop
  | bound (a : Nat) : BindingAccess (.outcome a .bound)
  | clamped (a : Nat) : BindingAccess (.outcome a .boundClamped)
  | held (c : Condition) (d : Detail) : BindingAccess (.held c d)

/-- What such an access brings: memory and EXU's registers, but for the accesses that wait. -/
theorem BindingAccess.perform_eq {w : ExuWork} (h : BindingAccess w) (s : State) : ∃ (m : Memory) (f : Exu → Exu), (∀ e : Exu, (f e).work = e.work)
    ∧ (∀ (e : Exu) (ws : List ExuWork), f { e with work := ws } = { f e with work := ws })
    ∧ ∀ ws, perform w { s with exu.work := ws } = { s with mem := m, exu := f { s.exu with work := ws } } := by
  cases h with
  | bound a =>
    exact ⟨memWriteN s.mem a (outcomeBytes .bound), fun e => { e with outcome := .bound }, fun _ => rfl,
      fun _ _ => rfl, fun _ => rfl⟩
  | clamped a =>
    exact ⟨memWriteN s.mem a (outcomeBytes .boundClamped), fun e => { e with outcome := .boundClamped }, fun _ => rfl,
      fun _ _ => rfl, fun _ => rfl⟩
  | held c d =>
    obtain ⟨m, hm⟩ : ∃ m, m = memWriteN s.mem (cellAddress (exchangeBase s) c) (cellBytes d 1) := ⟨_, rfl⟩
    have hw : ∀ ws, perform (.held c d) { s with exu.work := ws } = dropHeld c { s with mem := m, exu.work := ws } := fun ws => by
      rw [hm]
      rfl
    have hc : ∃ f : Exu → Exu, (∀ e : Exu, (f e).work = e.work)
        ∧ (∀ (e : Exu) (ws : List ExuWork), f { e with work := ws } = { f e with work := ws })
        ∧ ∀ y, dropHeld c y = { y with exu := f y.exu } := by
      cases c with
      | cartridge => exact ⟨fun e => { e with heldCartridge := none }, fun _ => rfl, fun _ _ => rfl, fun _ => rfl⟩
      | tapeReady => exact ⟨fun e => { e with heldTapeReady := none }, fun _ => rfl, fun _ _ => rfl, fun _ => rfl⟩
      | dataDiscarded => exact ⟨fun e => { e with heldDiscarded := none }, fun _ => rfl, fun _ _ => rfl, fun _ => rfl⟩
      | _ => exact ⟨id, fun _ => rfl, fun _ _ => rfl, fun _ => rfl⟩
    obtain ⟨f, h1, h2, h3⟩ := hc
    exact ⟨m, f, h1, h2, fun ws => (hw ws).trans (h3 _)⟩

/-- An access granted and done. -/
def granted (s : State) (w : ExuWork) : State := perform w (recordExuGrant s)

theorem BindingAccess.granted_eq {w : ExuWork} (h : BindingAccess w) (s : State) : portFree (granted s w) = portFree s
    ∧ (granted s w).exu.work = s.exu.work
    ∧ ∀ ws, perform w (recordExuGrant { s with exu.work := ws }) = { granted s w with exu.work := ws } := by
  obtain ⟨m, f, h1, h2, h3⟩ := h.perform_eq (recordExuGrant s)
  have hg : granted s w = { recordExuGrant s with mem := m, exu := f s.exu } := h3 s.exu.work
  rw [hg]
  refine ⟨rfl, h1 _, fun ws => (h3 ws).trans ?_⟩
  rw [h2]
  rfl

/-- At a free port a binding's accesses are done in turn. -/
theorem serveFree_binding : ∀ (ws : List ExuWork) (s : State), (∀ w ∈ ws, BindingAccess w) → portFree s = true →
    s.exu.work = [] → serveFree { s with exu.work := ws } = ws.foldl granted s
  | [], s, _, _, hw => by
    have hs : ({ s with exu.work := [] } : State) = s := by rw [← hw]
    rw [hs]
    exact serveFree_none hw
  | w :: ws, s, h, hp, hw => by
    obtain ⟨hfree, hwork, hperform⟩ := (h w List.mem_cons_self).granted_eq s
    have hstep := serveFree_step (s := { s with exu.work := w :: ws }) hp rfl
    have hrest := serveFree_binding ws (granted s w) (fun x hx => h x (List.mem_cons_of_mem w hx)) (hfree.trans hp)
      (hwork.trans hw)
    rw [hstep]
    exact (congrArg serveFree (hperform ws)).trans hrest

/-! ### A held detail written (R174) -/

/-- The access that writes a held detail, where one is held. -/
def heldWork (c : Condition) (d : Option Detail) : List ExuWork := d.toList.map (.held c)

/-- The raise counts with that of a held condition made 1. -/
def heldRaises (c : Condition) (d : Option Detail) (rs : List Nat) : List Nat :=
  if d.isSome then modifyAt (fun _ => 1) rs c.bit else rs

theorem writeHeld_eq (c : Condition) (d : Option Detail) (s : State) : writeHeld c d s
    = { s with exu.raises := heldRaises c d s.exu.raises, exu.work := s.exu.work ++ heldWork c d } := by
  cases d with
  | none =>
    have hw : s.exu.work ++ heldWork c none = s.exu.work := List.append_nil _
    rw [hw]
    rfl
  | some d => rfl

theorem heldWork_binding (c : Condition) (d : Option Detail) : ∀ w ∈ heldWork c d, BindingAccess w := by
  intro w hw
  obtain ⟨x, -, rfl⟩ := List.mem_map.1 hw
  exact .held c x

theorem heldRaises_length (c : Condition) (d : Option Detail) (rs : List Nat) : (heldRaises c d rs).length = rs.length := by
  unfold heldRaises
  split_ifs
  · rw [modifyAt_eq_set (fun _ => 1) 0, List.length_set]
  · rfl

theorem heldRaises_same {c : Condition} {d : Option Detail} {rs : List Nat} (hl : c.bit < rs.length) (hd : d.isSome = true) :
    (heldRaises c d rs)[c.bit]? = some 1 := by
  unfold heldRaises
  rw [if_pos hd, modifyAt_eq_set (fun _ => 1) 0]
  exact List.getElem?_set_self hl

theorem heldRaises_other {c : Condition} {d : Option Detail} {rs : List Nat} {i : Nat} (h : c.bit ≠ i) :
    (heldRaises c d rs)[i]? = rs[i]? := by
  unfold heldRaises
  split_ifs
  · rw [modifyAt_eq_set (fun _ => 1) 0]
    exact List.getElem?_set_ne h
  · rfl

theorem cellBytes_first (d : Detail) : cellBytes d 1 = firstCell d := by
  unfold cellBytes firstCell
  rw [List.append_assoc _ (toBytes 2 1)]
  rfl

theorem firstCell_length (d : Detail) : (firstCell d).length = 16 := by
  unfold firstCell
  simp [toBytes_length]

/-- A cell written, or nothing: what memory is, and that nothing else but the held detail and the grant differs. -/
structure CellWritten (a : Nat) (c : Condition) (d : Option Detail) (s t : State) : Prop where
  eq      : t = { s with mem := t.mem, exu := (dropHeld c s).exu, marb.lastGeneral := t.marb.lastGeneral,
                         marb.lastGroup := t.marb.lastGroup }
  wf      : Memory.wf t.mem = true
  cell    : ∀ x, d = some x → memReadN t.mem (cellAddress a c) 16 = firstCell x
  outside : ∀ x, x < cellAddress a c ∨ cellAddress a c + 16 ≤ x → memRead t.mem x = memRead s.mem x

theorem cellWritten_some (hwf : Memory.wf s.mem = true) (ha : s.exu.base = some a) (c : Condition) (d : Detail) :
    CellWritten a c (some d) s (granted s (.held c d)) := by
  have hb : exchangeBase (recordExuGrant s) = a := by
    unfold exchangeBase recordExuGrant
    rw [ha]
    rfl
  obtain ⟨m, hm⟩ : ∃ m, m = memWriteN s.mem (cellAddress a c) (firstCell d) := ⟨_, rfl⟩
  have hg : granted s (.held c d) = dropHeld c { recordExuGrant s with mem := m } := by
    rw [hm, ← hb, ← cellBytes_first]
    rfl
  have hlen := firstCell_length d
  have hmem : (granted s (.held c d)).mem = m := by rw [hg]; cases c <;> rfl
  refine ⟨by rw [hg]; cases c <;> rfl, ?_, fun x hx => ?_, fun x hx => ?_⟩
  · rw [hmem, hm]
    exact memWriteN_wf hwf _ _
  · rw [hmem, hm, ← Option.some.inj hx, ← hlen]
    exact memReadN_memWriteN hwf _ _
  · rw [hmem, hm]
    exact memRead_memWriteN_outside hwf _ _ _ (by rw [hlen]; exact hx)

/-- A held detail, where one is held, written to its cell. -/
theorem cellWritten_held (hwf : Memory.wf s.mem = true) (ha : s.exu.base = some a) (c : Condition) (d : Option Detail)
    (hd : d = none → dropHeld c s = s) : CellWritten a c d s ((heldWork c d).foldl granted s) := by
  cases d with
  | none => exact ⟨by rw [hd rfl]; rfl, hwf, nofun, fun _ _ => rfl⟩
  | some d => exact cellWritten_some hwf ha c d

end Sys2Proof.Machine
end

section
/-! SUPPORT. All the accesses of a binding accepted (R164): what they leave in memory and in EXU. -/

namespace Sys2Proof.Machine

variable {s t u : State} {a : Nat}

theorem CellWritten.base {c : Condition} {d : Option Detail} (h : CellWritten a c d s t) (x : Nat) (hx : s.exu.base = some x) :
    t.exu.base = some x := by
  rw [h.eq]
  cases c <;> exact hx

/-- A cell written stays when another is written. -/
theorem CellWritten.cell_stays {c e : Condition} {d f : Option Detail} (h : CellWritten a c d s t) (k : CellWritten a e f t u)
    (hne : c.bit ≠ e.bit) (x : Detail) (hx : d = some x) : memReadN u.mem (cellAddress a c) 16 = firstCell x := by
  rw [← h.cell x hx]
  refine memReadN_congr fun y h1 h2 => k.outside y ?_
  unfold cellAddress at h1 h2 ⊢
  omega

/-- A binding's accesses done: the outcome and the held details written, and nothing held any more. -/
structure BindingWritten (a : Nat) (o : BindOutcome) (s t : State) : Prop where
  eq      : t = { s with mem := t.mem, marb.lastGeneral := t.marb.lastGeneral, marb.lastGroup := t.marb.lastGroup
                         exu := { s.exu with outcome := o, heldCartridge := none, heldTapeReady := none, heldDiscarded := none } }
  wf      : Memory.wf t.mem = true
  outcome : memReadN t.mem a 4 = outcomeBytes o
  cells   : (∀ d, s.exu.heldCartridge = some d → memReadN t.mem (a + 544) 16 = firstCell d)
    ∧ (∀ d, s.exu.heldTapeReady = some d → memReadN t.mem (a + 560) 16 = firstCell d)
    ∧ ∀ d, s.exu.heldDiscarded = some d → memReadN t.mem (a + 672) 16 = firstCell d
  outside : ∀ x, (x < a ∨ a + 4 ≤ x) → (x < a + 512 ∨ a + 752 ≤ x) → memRead t.mem x = memRead s.mem x

/-- The held details' accesses. -/
def heldWorks (s : State) : List ExuWork :=
  heldWork .cartridge s.exu.heldCartridge ++ heldWork .tapeReady s.exu.heldTapeReady
    ++ heldWork .dataDiscarded s.exu.heldDiscarded

/-- The raise counts with those of the held conditions made 1. -/
def heldCounts (s : State) (rs : List Nat) : List Nat :=
  heldRaises .dataDiscarded s.exu.heldDiscarded (heldRaises .tapeReady s.exu.heldTapeReady
    (heldRaises .cartridge s.exu.heldCartridge rs))

theorem writeHeldAll_eq (s : State) : writeHeldAll s
    = { s with exu.raises := heldCounts s s.exu.raises, exu.work := s.exu.work ++ heldWorks s } := by
  unfold writeHeldAll heldWorks heldCounts
  rw [writeHeld_eq, writeHeld_eq, writeHeld_eq]
  dsimp only
  rw [List.append_assoc, List.append_assoc, List.append_assoc]

theorem heldWorks_binding (s : State) : ∀ w ∈ heldWorks s, BindingAccess w := by
  intro w hw
  rcases List.mem_append.1 hw with hw | hw
  · exact (List.mem_append.1 hw).elim (heldWork_binding _ _ w) (heldWork_binding _ _ w)
  · exact heldWork_binding _ _ w hw

theorem boundOutcome_access (b : Bool) (a : Nat) : BindingAccess (.outcome a (boundOutcome b)) := by
  cases b
  · exact .bound a
  · exact .clamped a

theorem outcomeBytes_bound (b : Bool) : outcomeBytes (boundOutcome b) = [3, if b then 1 else 0, 0, 0] := by
  cases b <;> rfl

theorem granted_outcome (b : Bool) (a : Nat) (s : State) : granted s (.outcome a (boundOutcome b))
    = { recordExuGrant s with mem := memWriteN s.mem a (outcomeBytes (boundOutcome b)), exu.outcome := boundOutcome b } := by
  cases b <;> rfl

/-- A binding's accesses, done at a free port. -/
theorem bindingWritten (hwf : Memory.wf s.mem = true) (ha : s.exu.base = some a) (b : Bool) :
    BindingWritten a (boundOutcome b) s ((ExuWork.outcome a (boundOutcome b) :: heldWorks s).foldl granted s) := by
  have hlen : (outcomeBytes (boundOutcome b)).length = 4 := by rw [outcomeBytes_bound]; rfl
  obtain ⟨m, hm⟩ : ∃ m, m = memWriteN s.mem a (outcomeBytes (boundOutcome b)) := ⟨_, rfl⟩
  obtain ⟨y, hy⟩ : ∃ y, y = granted s (.outcome a (boundOutcome b)) := ⟨_, rfl⟩
  have hg : y = { recordExuGrant s with mem := m, exu.outcome := boundOutcome b } := by
    rw [hy, hm, granted_outcome]
  have hym : y.mem = m := by rw [hg]
  have hywf : Memory.wf y.mem = true := by rw [hym, hm]; exact memWriteN_wf hwf _ _
  obtain ⟨y1, hy1⟩ : ∃ y1, y1 = (heldWork .cartridge s.exu.heldCartridge).foldl granted y := ⟨_, rfl⟩
  obtain ⟨y2, hy2⟩ : ∃ y2, y2 = (heldWork .tapeReady s.exu.heldTapeReady).foldl granted y1 := ⟨_, rfl⟩
  obtain ⟨y3, hy3⟩ : ∃ y3, y3 = (heldWork .dataDiscarded s.exu.heldDiscarded).foldl granted y2 := ⟨_, rfl⟩
  have hfold : (ExuWork.outcome a (boundOutcome b) :: heldWorks s).foldl granted s = y3 := by
    unfold heldWorks
    rw [List.foldl_cons, ← hy, List.foldl_append, List.foldl_append, ← hy1, ← hy2, ← hy3]
  have h1 : CellWritten a .cartridge s.exu.heldCartridge y y1 := by
    rw [hy1]
    refine cellWritten_held hywf (by rw [hg]; exact ha) _ _ fun hn => ?_
    unfold dropHeld
    rw [hg]
    dsimp only
    rw [← hn]
    rfl
  have h2 : CellWritten a .tapeReady s.exu.heldTapeReady y1 y2 := by
    rw [hy2]
    refine cellWritten_held h1.wf (h1.base a (by rw [hg]; exact ha)) _ _ fun hn => ?_
    have hh : y1.exu.heldTapeReady = none := by rw [h1.eq, hg]; exact hn
    unfold dropHeld
    dsimp only
    rw [← hh]
  have h3 : CellWritten a .dataDiscarded s.exu.heldDiscarded y2 y3 := by
    rw [hy3]
    refine cellWritten_held h2.wf (h2.base a (h1.base a (by rw [hg]; exact ha))) _ _ fun hn => ?_
    have hh : y2.exu.heldDiscarded = none := by rw [h2.eq]; change y1.exu.heldDiscarded = none; rw [h1.eq, hg]; exact hn
    unfold dropHeld
    dsimp only
    rw [← hh]
  rw [hfold]
  have houtside : ∀ x, (x < a + 512 ∨ a + 752 ≤ x) → memRead y3.mem x = memRead y.mem x := fun x hx => by
    have hc : ∀ c : Condition, x < cellAddress a c ∨ cellAddress a c + 16 ≤ x := fun c => by
      have hbit : c.bit < 15 := by cases c <;> decide
      unfold cellAddress
      omega
    rw [h3.outside x (hc _), h2.outside x (hc _), h1.outside x (hc _)]
  refine ⟨?_, h3.wf, ?_, ⟨fun d hd => ?_, fun d hd => ?_, h3.cell⟩, fun x hx hx' => ?_⟩
  · have he := h3.eq
    generalize y3.mem = m3, y3.marb.lastGeneral = g1, y3.marb.lastGroup = g2 at he ⊢
    rw [he, h2.eq, h1.eq, hg]
    rfl
  · rw [memReadN_congr (m' := y.mem) fun x h1 h2 => houtside x (.inl (by omega)), hym, hm, ← hlen]
    exact memReadN_memWriteN hwf _ _
  · rw [memReadN_congr (m' := y2.mem) fun x k1 k2 => h3.outside x (.inl (by change x < a + 512 + 16 * 10; omega))]
    exact h1.cell_stays h2 (by decide) d hd
  · exact h2.cell_stays h3 (by decide) d hd
  · rw [houtside x hx', hym, hm]
    exact memRead_memWriteN_outside hwf _ _ _ (by rw [hlen]; exact hx)

end Sys2Proof.Machine
end

section
/-! SUPPORT. What the evaluation tells a BOUND exchange area at a port at rest: the cells, bits and counts of its own conditions, and
no others. -/

namespace Sys2Proof.Machine

variable {s t u : State} {a : Nat}

/-- EXU is BOUND with its area at `a`, and the port is at rest. -/
structure BoundAt (a : Nat) (s : State) : Prop where
  port   : portAtRest s
  base   : s.exu.base = some a
  bound  : s.exu.bind = .bound
  raises : s.exu.raises.length = 15
  wf     : Memory.wf s.mem = true

/-- The COND bits of the conditions that an evaluation raises. -/
def HeadBit (i : Nat) : Prop := i = 4 ∨ i = 5 ∨ i = 6 ∨ i = 13

/-- Conditions of the head have been raised. -/
structure HeadTells (a : Nat) (s t : State) : Prop extends BoundAt a t where
  exu    : ∃ cd rs, t.exu = { s.exu with cond := cd, raises := rs }
  cond   : t.exu.cond &&& s.exu.cond = s.exu.cond
  counts : ∀ i, ¬HeadBit i → t.exu.raises[i]? = s.exu.raises[i]?
  cells  : ∀ x, (∀ i, HeadBit i → x < a + 512 + 16 * i ∨ a + 512 + 16 * i + 16 ≤ x) → memRead t.mem x = memRead s.mem x

/-- Nothing of what EXU looks at differs. -/
theorem HeadTells.of_same (h : BoundAt a s) (hm : t.mem = s.mem) (he : t.exu = s.exu) (hb : t.marb = s.marb) : HeadTells a s t where
  port := by rw [portAtRest, hb, he]; exact h.port
  base := by rw [he]; exact h.base
  bound := by rw [he]; exact h.bound
  raises := by rw [he]; exact h.raises
  wf := by rw [hm]; exact h.wf
  exu := ⟨s.exu.cond, s.exu.raises, he⟩
  cond := by rw [he]; exact BitVec.and_self
  counts _ _ := by rw [he]
  cells _ _ := by rw [hm]

theorem HeadTells.trans (h : HeadTells a s t) (k : HeadTells a t u) : HeadTells a s u where
  toBoundAt := k.toBoundAt
  exu := by
    obtain ⟨cd, rs, h1⟩ := h.exu
    obtain ⟨cd', rs', h2⟩ := k.exu
    exact ⟨cd', rs', h2.trans (by rw [h1])⟩
  cond := by rw [← h.cond, ← BitVec.and_assoc, k.cond]
  counts i hi := (k.counts i hi).trans (h.counts i hi)
  cells x hx := (k.cells x hx).trans (h.cells x hx)

/-- A condition of the head raised. -/
theorem headTells_raise (h : BoundAt a s) {c : Condition} (hc : HeadBit c.bit) (x y z : Nat) : HeadTells a s (raise c x y z s) := by
  have hne : c ≠ .cartridge ∧ c ≠ .tapeReady := by
    constructor <;> (rintro rfl; revert hc; unfold HeadBit; decide)
  have hport := portAtRest_raise h.port c x y z
  obtain ⟨m, hm⟩ : ∃ m, m = memWriteN s.mem (cellAddress a c) (cellBytes ⟨x, y, z, s.timebase⟩ (nextCount c s)) := ⟨_, rfl⟩
  have hr := raise_rest_eq h.port (by rw [h.bound]; decide) h.raises c x y z
  rw [if_neg hne.1, if_neg hne.2, perform_cell_eq] at hr
  have hbase : exchangeBase (recordExuGrant { s with exu.raises := s.exu.raises.set c.bit (nextCount c s) }) = a := by
    unfold exchangeBase recordExuGrant
    dsimp only
    rw [h.base]
    rfl
  have hlen := cellBytes_length ⟨x, y, z, s.timebase⟩ (nextCount c s)
  have hr' : raise c x y z s = { recordExuGrant s with
      mem := m, exu := { s.exu with raises := s.exu.raises.set c.bit (nextCount c s), cond := s.exu.cond ||| c.mask } } := by
    rw [hr, hm, ← hbase]
    rfl
  rw [hr'] at hport ⊢
  refine ⟨⟨hport, h.base, h.bound, ?_, ?_⟩, ⟨_, _, rfl⟩, ?_, fun i hi => ?_, fun w hw => ?_⟩
  · change (s.exu.raises.set c.bit (nextCount c s)).length = 15
    rw [List.length_set]
    exact h.raises
  · rw [hm]
    exact memWriteN_wf h.wf _ _
  · refine BitVec.eq_of_getLsbD_eq fun i _ => ?_
    rw [BitVec.getLsbD_and, BitVec.getLsbD_or]
    cases s.exu.cond.getLsbD i <;> simp
  · exact List.getElem?_set_ne (i := c.bit) (j := i) (by rintro rfl; exact hi hc)
  · rw [hm]
    exact memRead_memWriteN_outside h.wf _ _ _ (by rw [hlen]; exact hw _ hc)

theorem headTells_retireOrFence (h : BoundAt a s) (c score : Nat) : HeadTells a s (retireOrFence c score s) := by
  unfold retireOrFence retireChannel fenceHead
  have hx : ∀ y : Hcm, HeadTells a s { s with hcm := y } := fun _ => .of_same h rfl rfl rfl
  split
  · exact (hx _).trans (headTells_raise (hx _).toBoundAt (.inr (.inr (.inr rfl))) _ _ _)
  · split
    · exact .of_same h rfl rfl rfl
    · have hr := (hx { s.hcm with fence := true, fences := bump s.hcm.fences }).trans
        (headTells_raise (c := .fenced) (hx _).toBoundAt (.inr (.inr (.inl rfl))) score c 0)
      exact hr.trans (.of_same hr.toBoundAt rfl rfl rfl)

theorem headTells_retirementTest (cs : List (Nat × Channel)) : ∀ s, BoundAt a s → HeadTells a s (retirementTest cs s) := by
  induction cs with
  | nil => exact fun s h => .of_same h rfl rfl rfl
  | cons c cs ih =>
    intro s h
    have h1 := headTells_retireOrFence h c.1 c.2.score
    exact h1.trans (ih _ h1.toBoundAt)

theorem headTells_raiseCall (h : BoundAt a s) (call : CleanCall) (cause : Nat) : HeadTells a s (raiseCall call cause s) := by
  have hx : HeadTells a s { s with hcm.call := call, hcm.rises := bump s.hcm.rises } := .of_same h rfl rfl rfl
  exact hx.trans (headTells_raise hx.toBoundAt (.inl rfl) _ _ _)

theorem headTells_wornTest (h : BoundAt a s) : HeadTells a s (wornTest s) := by
  unfold wornTest
  split
  · have hx : HeadTells a s { s with hcm.worn := true } := .of_same h rfl rfl rfl
    exact hx.trans (headTells_raise hx.toBoundAt (.inr (.inl rfl)) _ _ _)
  · exact .of_same h rfl rfl rfl

theorem headTells_callTest (h : BoundAt a s) : HeadTells a s (callTest s) := by
  cases hc : callWanted s.hcm with
  | none =>
    rw [callTest_none hc]
    exact .of_same h rfl rfl rfl
  | some w =>
    obtain ⟨call, cause⟩ := w
    have hr := headTells_raiseCall h call cause
    rw [callTest_some hc]
    split_ifs
    · exact hr.trans (headTells_wornTest hr.toBoundAt)
    · exact hr
    · exact .of_same h rfl rfl rfl

/-- What an evaluation tells of. -/
theorem headTells_evaluate (h : BoundAt a s) : HeadTells a s (evaluate s) := by
  have h1 := headTells_retirementTest (retirees s.hcm) s h
  have h2 : HeadTells a s (computeHeadIndex (retirementTest (retirees s.hcm) s)) :=
    h1.trans (.of_same h1.toBoundAt rfl rfl rfl)
  exact h2.trans (headTells_callTest h2.toBoundAt)

end Sys2Proof.Machine
end

section
/-! SUPPORT. The settings that a setup record gives (R163), and the head care monitor that it restores (R156). -/

namespace Sys2Proof.Machine

variable {s t z : State} {a : Nat} {b : List Byte}

/-! ### The tunables of a setup record -/

/-- Tunable `j` of a setup record, as it is given. -/
def setupValue (b : List Byte) (j : Nat) : Nat := field b (20 + 4 * j) 4

theorem setup_named (b : List Byte) {j : Nat} (h : j < 19) :
    namedAt ((readSetup b).tunables.map some) j = some (setupValue b j) := by
  unfold namedAt readSetup
  dsimp only
  rw [List.getElem?_map, List.getElem?_map, List.getElem?_range h]
  rfl

theorem setup_given (b : List Byte) {j : Nat} (h : j < 19) (x : Nat) :
    orInForce ((readSetup b).tunables.map some) j x = setupValue b j := by
  unfold orInForce
  rw [setup_named b h]
  rfl

theorem setup_changes (b : List Byte) {j : Nat} (h : j < 19) (f : Nat → Nat) :
    clampChanges ((readSetup b).tunables.map some) j f = decide (f (setupValue b j) ≠ setupValue b j) := by
  unfold clampChanges
  rw [setup_named b h]

/-- HCM's thresholds as a setup record gives them. -/
def setupThresholds (b : List Byte) (h : Hcm) : Hcm :=
  let advise := clamp 256 32768 (setupValue b 6)
  let require := max advise (min 49152 (setupValue b 7))
  { h with advise := advise, require := require, retire := max require (min 65535 (setupValue b 8))
           hours := clamp 3600 1800000 (setupValue b 9) }

/-- The settings of a setup record, each clamped and taken. -/
def setupApplied (b : List Byte) (n : Nat) (s : State) : State := { s with
  cmp.compression := decide (setupValue b 0 ≠ 0), cmp.idleSeal := clamp 100 10000 (setupValue b 1)
  fmt.threshold := min 8 (setupValue b 2), fmt.restart := clampRestart n (setupValue b 3)
  rdc.limit := clamp 1 8 (setupValue b 4), mot.dwellTime := clampDwell (setupValue b 5)
  exu.alertSet := alertSetOf (setupValue b 10), exu.trigger := clamp 1 16 (setupValue b 11)
  exu.quietTime := min 255 (setupValue b 12)
  spm.table := (List.range 6).map (fun i => clampSpeed (setupValue b (13 + i)))
  hcm := setupThresholds b s.hcm }

theorem setup_table (b : List Byte) (s : State) : resultingTable ((readSetup b).tunables.map some) s
    = (List.range 6).map (fun i => clampSpeed (setupValue b (13 + i))) := by
  refine List.map_congr_left fun i hi => ?_
  have := List.mem_range.1 hi
  rw [setup_given b (by omega)]

theorem applyTunables_setup (b : List Byte) (n : Nat) (s : State) :
    applyTunables ((readSetup b).tunables.map some) n s = setupApplied b n s := by
  unfold applyTunables setThresholds setupApplied setupThresholds
  rw [setup_table]
  simp only [setup_named b (show 0 < 19 by omega), setup_named b (show 1 < 19 by omega), setup_named b (show 2 < 19 by omega),
    setup_named b (show 3 < 19 by omega), setup_named b (show 4 < 19 by omega), setup_named b (show 5 < 19 by omega),
    setup_named b (show 10 < 19 by omega), setup_named b (show 11 < 19 by omega), setup_named b (show 12 < 19 by omega),
    setup_given b (show 6 < 19 by omega), setup_given b (show 7 < 19 by omega), setup_given b (show 8 < 19 by omega),
    setup_given b (show 9 < 19 by omega)]

/-! ### Whether a value is clamped -/

/-- Every value of the record stands as it is given. -/
def SetupAsGiven (b : List Byte) (n : Nat) : Prop :=
  let v := setupValue b
  100 ≤ v 1 ∧ v 1 ≤ 10000 ∧ v 2 ≤ 8 ∧ 1 ≤ v 3 ∧ v 3 ≤ 32 ∧ v 3 ≤ n / 2 ∧ 1 ≤ v 4 ∧ v 4 ≤ 8
    ∧ (v 5 = 0 ∨ 10 ≤ v 5) ∧ v 5 ≤ 600 ∧ 256 ≤ v 6 ∧ v 6 ≤ 32768 ∧ v 6 ≤ v 7 ∧ v 7 ≤ 49152 ∧ v 7 ≤ v 8
    ∧ v 8 ≤ 65535 ∧ 3600 ≤ v 9 ∧ v 9 ≤ 1800000 ∧ v 10 % 2 = 0 ∧ 1 ≤ v 11 ∧ v 11 ≤ 16 ∧ v 12 ≤ 255
    ∧ ∀ i, i < 6 → 8192 ≤ v (13 + i) ∧ v (13 + i) ≤ 262144

theorem clamp_self {lo hi v : Nat} (h : lo ≤ hi) : clamp lo hi v = v ↔ lo ≤ v ∧ v ≤ hi := by
  unfold clamp
  omega

theorem clampDwell_self {v : Nat} : clampDwell v = v ↔ (v = 0 ∨ 10 ≤ v) ∧ v ≤ 600 := by
  unfold clampDwell clamp
  split_ifs <;> omega

theorem clampRestart_self {n v : Nat} (h : 2 ≤ n) : clampRestart n v = v ↔ 1 ≤ v ∧ v ≤ 32 ∧ v ≤ n / 2 := by
  unfold clampRestart clamp
  omega

theorem setup_speeds_clamped (b : List Byte) :
    (List.range 6).any (fun i => clampChanges ((readSetup b).tunables.map some) (13 + i) clampSpeed) = false
      ↔ ∀ i, i < 6 → 8192 ≤ setupValue b (13 + i) ∧ setupValue b (13 + i) ≤ 262144 := by
  rw [List.any_eq_false]
  refine forall_congr' fun i => ?_
  rw [List.mem_range]
  refine forall_congr' fun hi => ?_
  rw [setup_changes b (by omega), decide_eq_true_eq, not_not]
  exact clamp_self (by omega)

theorem anyClamped_setup (b : List Byte) {n : Nat} (hn : 2 ≤ n) (s z : State) :
    anyClamped ((readSetup b).tunables.map some) n z (setupApplied b n s) = false ↔ SetupAsGiven b n := by
  have hadv : (setupApplied b n s).hcm.advise = clamp 256 32768 (setupValue b 6) := rfl
  have hreq : (setupApplied b n s).hcm.require = max (clamp 256 32768 (setupValue b 6)) (min 49152 (setupValue b 7)) := rfl
  have hret : (setupApplied b n s).hcm.retire
      = max (max (clamp 256 32768 (setupValue b 6)) (min 49152 (setupValue b 7))) (min 65535 (setupValue b 8)) := rfl
  have hsum : (clamp 256 32768 (setupValue b 6) = setupValue b 6
        ∧ max (clamp 256 32768 (setupValue b 6)) (min 49152 (setupValue b 7)) = setupValue b 7
        ∧ max (max (clamp 256 32768 (setupValue b 6)) (min 49152 (setupValue b 7))) (min 65535 (setupValue b 8)) = setupValue b 8)
      ↔ 256 ≤ setupValue b 6 ∧ setupValue b 6 ≤ 32768 ∧ setupValue b 6 ≤ setupValue b 7 ∧ setupValue b 7 ≤ 49152
        ∧ setupValue b 7 ≤ setupValue b 8 ∧ setupValue b 8 ≤ 65535 := by
    unfold clamp
    omega
  have hthreshold : min 8 (setupValue b 2) = setupValue b 2 ↔ setupValue b 2 ≤ 8 := by omega
  have halert : setupValue b 10 - setupValue b 10 % 2 = setupValue b 10 ↔ setupValue b 10 % 2 = 0 := by omega
  have hquiet : min 255 (setupValue b 12) = setupValue b 12 ↔ setupValue b 12 ≤ 255 := by omega
  unfold anyClamped
  simp only [Bool.or_eq_false_iff, setup_speeds_clamped, setup_changes b (show 1 < 19 by omega),
    setup_changes b (show 2 < 19 by omega), setup_changes b (show 3 < 19 by omega), setup_changes b (show 4 < 19 by omega),
    setup_changes b (show 5 < 19 by omega), setup_changes b (show 9 < 19 by omega), setup_changes b (show 10 < 19 by omega),
    setup_changes b (show 11 < 19 by omega), setup_changes b (show 12 < 19 by omega), setup_given b (show 6 < 19 by omega),
    setup_given b (show 7 < 19 by omega), setup_given b (show 8 < 19 by omega), decide_eq_false_iff_not, not_not,
    hadv, hreq, hret, hthreshold, halert, hquiet, clamp_self (show 100 ≤ 10000 by omega), clamp_self (show 1 ≤ 8 by omega),
    clamp_self (show 3600 ≤ 1800000 by omega), clamp_self (show 1 ≤ 16 by omega), clampDwell_self, clampRestart_self hn]
  unfold SetupAsGiven
  constructor
  · rintro ⟨⟨⟨⟨⟨⟨⟨⟨⟨⟨⟨⟨⟨h1, h1'⟩, h2⟩, h3, h3', h3''⟩, h4, h4'⟩, h5, h5'⟩, h6⟩, h7⟩, h8⟩, h9, h9'⟩, h10⟩, h11, h11'⟩, h12⟩, h13⟩
    obtain ⟨k1, k2, k3, k4, k5, k6⟩ := hsum.1 ⟨h6, h7, h8⟩
    exact ⟨h1, h1', h2, h3, h3', h3'', h4, h4', h5, h5', k1, k2, k3, k4, k5, k6, h9, h9', h10, h11, h11', h12, h13⟩
  · rintro ⟨h1, h1', h2, h3, h3', h3'', h4, h4', h5, h5', k1, k2, k3, k4, k5, k6, h9, h9', h10, h11, h11', h12, h13⟩
    obtain ⟨h6, h7, h8⟩ := hsum.2 ⟨k1, k2, k3, k4, k5, k6⟩
    exact ⟨⟨⟨⟨⟨⟨⟨⟨⟨⟨⟨⟨⟨h1, h1'⟩, h2⟩, h3, h3', h3''⟩, h4, h4'⟩, h5, h5'⟩, h6⟩, h7⟩, h8⟩, h9, h9'⟩, h10⟩, h11, h11'⟩, h12⟩, h13⟩

/-! ### The head restored (R156) -/

theorem callOfCode_eq (n : Nat) : callOfCode n = if n = 0 then .none else if n = 1 then .advised else .required := by
  rcases n with _ | _ | n <;> simp [callOfCode]

theorem historyChannels_setup (b : List Byte) : historyChannels (readHistory ((b.drop 128).take 64))
    = (List.range 16).map (fun c => ⟨field b (128 + 2 * c) 2, decide (setupChannel b c = 0)⟩) := by
  unfold historyChannels
  rw [history_scores, history_states]
  refine List.map_congr_left fun c hc => ?_
  have hr := List.getElem?_range (List.mem_range.1 hc)
  rw [List.getD_eq_getElem?_getD, List.getD_eq_getElem?_getD, List.getElem?_map, List.getElem?_map, hr]
  rfl

/-- The thresholds taken, and a head history block where the record has one. -/
theorem restoreIfPresent_setup (hz : z.hcm = setupThresholds b s.hcm) :
    restoreIfPresent (readSetup b).history z = { z with hcm := setupHead b s.hcm } := by
  by_cases hp : field b 96 4 = 0
  · have hh : (readSetup b).history = none := if_pos hp
    have hs : setupHead b s.hcm = setupThresholds b s.hcm := if_pos hp
    rw [hh, hs, ← hz]
    rfl
  · have hh : (readSetup b).history = some (readHistory ((b.drop 128).take 64)) := if_neg hp
    obtain ⟨hcall, hworn, hfence, hsec, hbun⟩ := history_bytes b
    rw [hh]
    unfold restoreIfPresent restoreHistory
    dsimp only
    rw [historyChannels_setup, hcall, hworn, hfence, hsec, hbun, callOfCode_eq, hz]
    refine congrArg (fun h => { z with hcm := h }) ?_
    unfold setupHead
    dsimp only
    rw [if_neg hp]
    rfl

end Sys2Proof.Machine
end

section
/-! SUPPORT. A setup record that binds (R163, R164), and the settled statement. -/

namespace Sys2Proof.Machine

variable {s t z w : State} {a : Nat} {b : List Byte}

/-- The state that a binding takes before its accesses: the settings taken, the frame table built, EXU's registers set, and the
raise counts of the details held. -/
def boundState (a : Nat) (b : List Byte) (s : State) : State := { setupApplied b (field b 16 4) s with
  bsm := { s.bsm with frames := List.replicate (field b 16 4) freeFrame, base := field b 12 4, mode := .idle }
  exu := { (setupApplied b (field b 16 4) s).exu with
    base := some a, takenMark := BitVec.ofNat 16 (field b 8 2) - 1, postMark := BitVec.ofNat 16 (field b 8 2) - 1
    passedOver := [], active := none, count := 0, quietTimer := none
    raises := heldCounts s (List.replicate 15 0), lastAbort := 0, abortOutcome := 0, bind := .bound, binding := none } }

theorem bindExu_setup (a : Nat) (b : List Byte) (s : State) : bindExu a (readSetup b).firstTicket
      (applyTunables ((readSetup b).tunables.map some) (readSetup b).frames
        (buildFrames (readSetup b).storeBase (readSetup b).frames s))
    = { boundState a b s with exu.raises := List.replicate 15 0 } := by
  rw [applyTunables_setup]
  rfl

/-- Whether a setup record's values are clamped. -/
def setupClamped (b : List Byte) (s : State) : Bool :=
  anyClamped ((readSetup b).tunables.map some) (field b 16 4) s (setupApplied b (field b 16 4) s)

/-- A binding's accesses. -/
theorem binding_accesses (hp : portAtRest s) (c : Bool) :
    serveFree (writeHeldAll (queueWork [.outcome a (boundOutcome c)] { boundState a b s with exu.raises := List.replicate 15 0 }))
      = (ExuWork.outcome a (boundOutcome c) :: heldWorks s).foldl granted (boundState a b s) := by
  have hwork : (boundState a b s).exu.work = [] := hp.2.2
  have hq : writeHeldAll (queueWork [.outcome a (boundOutcome c)] { boundState a b s with exu.raises := List.replicate 15 0 })
      = { boundState a b s with exu.work := ExuWork.outcome a (boundOutcome c) :: heldWorks s } := by
    rw [writeHeldAll_eq]
    have hw : (boundState a b s).exu.work ++ [ExuWork.outcome a (boundOutcome c)] ++ heldWorks s
        = ExuWork.outcome a (boundOutcome c) :: heldWorks s := by rw [hwork]; rfl
    rw [← hw]
    rfl
  rw [hq]
  refine serveFree_binding _ (boundState a b s) (fun w hw => ?_) (portFree_rest (s := boundState a b s) hp) hwork
  rcases List.mem_cons.1 hw with rfl | hw
  · exact boundOutcome_access c a
  · exact heldWorks_binding s w hw

/-- A binding that passes its checks: its settings, its accesses, and the evaluation. -/
theorem completeBinding_setup (hp : portAtRest s) (hwf : Memory.wf s.mem = true) : ∃ w,
    BindingWritten a (boundOutcome (setupClamped b s)) (boundState a b s) w
      ∧ completeBinding a (readSetup b) s = evaluate { forgetComputation w with hcm := setupHead b s.hcm } := by
  have hw := bindingWritten (s := boundState a b s) (a := a) hwf rfl (setupClamped b s)
  obtain ⟨w, hwe⟩ : ∃ w, w = (ExuWork.outcome a (boundOutcome (setupClamped b s)) :: heldWorks s).foldl granted
    (boundState a b s) := ⟨_, rfl⟩
  have hh : heldWorks (boundState a b s) = heldWorks s := rfl
  rw [hh, ← hwe] at hw
  refine ⟨w, hw, ?_⟩
  have hz : (forgetComputation w).hcm = setupThresholds b s.hcm := by
    change w.hcm = _
    rw [hw.eq]
    rfl
  have hclamped : anyClamped ((readSetup b).tunables.map some) (readSetup b).frames s
      (applyTunables ((readSetup b).tunables.map some) (readSetup b).frames
        (buildFrames (readSetup b).storeBase (readSetup b).frames s)) = setupClamped b s := by
    rw [applyTunables_setup]
    rfl
  unfold completeBinding
  dsimp only
  rw [hclamped, bindExu_setup, binding_accesses hp, ← hwe, restoreIfPresent_setup hz]

/-! ### What follows the binding -/

theorem delivering_unordered (h : s.ord.record = none) : delivering s = false := by
  unfold delivering
  rw [atStage_none h]
  rfl

section
variable {o : BindOutcome} (hw : BindingWritten a o (boundState a b s) w)
include hw

theorem BindingWritten.calm (h : Calm s) (hrec : s.ord.record = none) (x : Hcm) :
    Calm { forgetComputation w with hcm := x } := by
  have happ : dcpAtRest s := h.dcp
  rw [hw.eq]
  generalize w.mem = m, w.marb.lastGeneral = g1, w.marb.lastGroup = g2
  refine ⟨h.sig, ⟨h.fmt.1, .inl (show StoreMode.idle ≠ StoreMode.write by decide)⟩, h.rdc, ?_, h.cml⟩
  rcases happ with h1 | ⟨-, h1⟩ | ⟨h1, -⟩
  · exact .inl h1
  · exact .inr (.inl ⟨delivering_unordered hrec, h1⟩)
  · exact .inr (.inl ⟨delivering_unordered hrec, h1⟩)

theorem BindingWritten.boundAt (hp : portAtRest s) (x : Hcm) : BoundAt a { forgetComputation w with hcm := x } := by
  have hwf := hw.wf
  rw [hw.eq] at hwf ⊢
  refine ⟨hp, rfl, rfl, ?_, hwf⟩
  change (heldCounts s (List.replicate 15 0)).length = 15
  unfold heldCounts
  rw [heldRaises_length, heldRaises_length, heldRaises_length]
  rfl

end

/-- A binding and what follows it in its step. -/
theorem exec_setupRecordRead_binds (hq : Quiet s) (hwf : Memory.wf s.mem = true) (hb : s.exu.binding = some ⟨a, some b⟩)
    (hn : ∀ n, ¬CheckFails a b n) : ∃ w, BindingWritten a (boundOutcome (setupClamped b s)) (boundState a b s) w
      ∧ exec .setupRecordRead s
        = .next { evaluate { forgetComputation w with hcm := setupHead b s.hcm } with sig := [] } := by
  obtain ⟨w, hw, hcomplete⟩ := completeBinding_setup (a := a) (b := b) hq.port hwf
  refine ⟨w, hw, ?_⟩
  have hexec : exec .setupRecordRead s = .next (finish (completeBinding a (readSetup b) s)) := by
    change execSetupRecordRead s = _
    unfold execSetupRecordRead
    rw [hb]
    dsimp only
    rw [setupFault_none hn]
  obtain ⟨z, hz⟩ : ∃ z, z = { forgetComputation w with hcm := setupHead b s.hcm } := ⟨_, rfl⟩
  have hcalm : Calm z := hz ▸ hw.calm hq.toCalm hq.record _
  have hat : BoundAt a z := hz ▸ hw.boundAt hq.port _
  have hrec : z.ord.record = none := by
    rw [hz]
    change w.ord.record = none
    rw [hw.eq]
    exact hq.record
  have honly := headCareOnly_evaluate z
  have hsig : (∀ y ∈ (evaluate z).sig, Unanswered y) ∧ (evaluate z).sig.length ≤ 64 := by
    rcases evaluate_sig z with h | h <;> rw [h, hcalm.sig]
    · exact ⟨nofun, Nat.zero_le _⟩
    · exact ⟨fun y hy => .inl (List.mem_singleton.1 hy), by decide⟩
  have hrec' : (evaluate z).ord.record = none := by
    obtain ⟨m, e, g1, g2, x, l, he⟩ := honly.eq
    rw [he]
    exact hrec
  rw [hexec, hcomplete, ← hz, finish_unanswered (hcalm.headCare honly) hrec' hsig.1 hsig.2,
    grant_atRest (s := { evaluate z with sig := [] }) (honly.port hat.port)]

/-! ### What the binding leaves -/

theorem heldCounts_get (s : State) : (∀ d, s.exu.heldCartridge = some d → (heldCounts s (List.replicate 15 0))[2]? = some 1)
    ∧ (∀ d, s.exu.heldTapeReady = some d → (heldCounts s (List.replicate 15 0))[3]? = some 1)
    ∧ ∀ d, s.exu.heldDiscarded = some d → (heldCounts s (List.replicate 15 0))[10]? = some 1 := by
  unfold heldCounts
  refine ⟨fun d hd => ?_, fun d hd => ?_, fun d hd => ?_⟩
  · rw [heldRaises_other (by decide), heldRaises_other (by decide)]
    exact heldRaises_same (c := .cartridge) (by decide) (by rw [hd]; rfl)
  · rw [heldRaises_other (by decide)]
    exact heldRaises_same (c := .tapeReady) (by rw [heldRaises_length]; decide) (by rw [hd]; rfl)
  · exact heldRaises_same (c := .dataDiscarded) (by rw [heldRaises_length, heldRaises_length]; decide) (by rw [hd]; rfl)

theorem setupHead_thresholds (b : List Byte) (h : Hcm) : (setupHead b h).advise = clamp 256 32768 (setupValue b 6)
    ∧ (setupHead b h).require = max (setupHead b h).advise (min 49152 (setupValue b 7))
    ∧ (setupHead b h).retire = max (setupHead b h).require (min 65535 (setupValue b 8))
    ∧ (setupHead b h).hours = clamp 3600 1800000 (setupValue b 9) := by
  unfold setupHead
  dsimp only
  split_ifs <;> exact ⟨rfl, rfl, rfl, rfl⟩

/-- A range of memory that no cell of a head condition meets is as it was. -/
theorem HeadTells.memReadN_same (h : HeadTells a s t) {x n : Nat}
    (hx : ∀ i, HeadBit i → x + n ≤ a + 512 + 16 * i ∨ a + 512 + 16 * i + 16 ≤ x) : memReadN t.mem x n = memReadN s.mem x n :=
  memReadN_congr fun y h1 h2 => h.cells y fun i hi => by
    have := hx i hi
    omega

/-- The values of EXU, memory and the head care monitor that a binding leaves. -/
structure Binds (a : Nat) (b : List Byte) (c : Bool) (s t : State) : Prop where
  exu    : ∃ cd rs, t.exu = { (boundState a b s).exu with
    outcome := boundOutcome c, heldCartridge := none, heldTapeReady := none, heldDiscarded := none, cond := cd, raises := rs }
  cond   : t.exu.cond &&& s.exu.cond = s.exu.cond
  counts : ∀ i, ¬HeadBit i → t.exu.raises[i]? = (heldCounts s (List.replicate 15 0))[i]?
  field4 : memReadN t.mem a 4 = outcomeBytes (boundOutcome c)
  cells  : (∀ d, s.exu.heldCartridge = some d → memReadN t.mem (a + 544) 16 = firstCell d)
    ∧ (∀ d, s.exu.heldTapeReady = some d → memReadN t.mem (a + 560) 16 = firstCell d)
    ∧ ∀ d, s.exu.heldDiscarded = some d → memReadN t.mem (a + 672) 16 = firstCell d
  others : ∀ x, (x < a ∨ a + 4 ≤ x) → (x < a + 512 ∨ a + 752 ≤ x) → memRead t.mem x = memRead s.mem x
  hcm    : t.hcm = evaluatedHcm (setupHead b s.hcm)
  rest   : t.bsm = (boundState a b s).bsm ∧ t.cmp = (boundState a b s).cmp ∧ t.fmt = (boundState a b s).fmt
    ∧ t.rdc = (boundState a b s).rdc ∧ t.mot = (boundState a b s).mot ∧ t.spm.table = (boundState a b s).spm.table

theorem HeadBit.lt {i : Nat} (h : HeadBit i) : 4 ≤ i ∧ i ≤ 13 ∧ i ≠ 10 := by
  unfold HeadBit at h
  omega

theorem setupRecord_binds (hq : Quiet s) (hwf : Memory.wf s.mem = true) (hb : s.exu.binding = some ⟨a, some b⟩)
    (hn : ∀ n, ¬CheckFails a b n) : ∃ t, exec .setupRecordRead s = .next t ∧ Binds a b (setupClamped b s) s t := by
  obtain ⟨w, hw, hexec⟩ := exec_setupRecordRead_binds hq hwf hb hn
  obtain ⟨z, hz⟩ : ∃ z, z = { forgetComputation w with hcm := setupHead b s.hcm } := ⟨_, rfl⟩
  rw [← hz] at hexec
  have htells : HeadTells a z (evaluate z) := headTells_evaluate (hz ▸ hw.boundAt hq.port _)
  have hze : z.exu = { (boundState a b s).exu with
      outcome := boundOutcome (setupClamped b s), heldCartridge := none, heldTapeReady := none, heldDiscarded := none } := by
    rw [hz]
    change w.exu = _
    rw [hw.eq]
  have hzm : z.mem = w.mem := by
    rw [hz]
    rfl
  obtain ⟨cd, rs, hexu⟩ := htells.exu
  obtain ⟨m, e, g1, g2, x, l, heq⟩ := (headCareOnly_evaluate z).eq
  have hcells := hw.cells
  refine ⟨_, hexec, ⟨⟨cd, rs, hexu.trans (by rw [hze])⟩, ?_, fun i hi => ?_, ?_, ⟨fun d hd => ?_, fun d hd => ?_, fun d hd => ?_⟩,
    fun y h1 h2 => ?_, ?_, ?_⟩⟩
  · have hc := htells.cond
    rw [hze] at hc
    exact hc
  · refine (htells.counts i hi).trans ?_
    rw [hze]
    rfl
  · refine (htells.memReadN_same fun i hi => ?_).trans (by rw [hzm]; exact hw.outcome)
    have := hi.lt
    omega
  · refine (htells.memReadN_same fun i hi => ?_).trans (by rw [hzm]; exact hcells.1 d hd)
    have := hi.lt
    omega
  · refine (htells.memReadN_same fun i hi => ?_).trans (by rw [hzm]; exact hcells.2.1 d hd)
    have := hi.lt
    omega
  · refine (htells.memReadN_same fun i hi => ?_).trans (by rw [hzm]; exact hcells.2.2 d hd)
    have := hi.lt
    omega
  · refine (htells.cells y fun i hi => ?_).trans (by rw [hzm]; exact hw.outside y h1 h2)
    have := hi.lt
    omega
  · refine (evaluate_hcm z).trans ?_
    rw [hz]
  · rw [heq, hz]
    change w.bsm = _ ∧ w.cmp = _ ∧ w.fmt = _ ∧ w.rdc = _ ∧ w.mot = _ ∧ w.spm.table = _
    rw [hw.eq]
    exact ⟨rfl, rfl, rfl, rfl, rfl, rfl⟩

/-- Settles O11: the settings and registers are the binding's own, and what follows, the accesses and the evaluation, leaves them. -/
theorem setupRecordBinds : Obligations.SetupRecordBinds := by
  intro a bytes s hq hwf hunbound hb hn v frames
  obtain ⟨t, hexec, ht⟩ := setupRecord_binds hq hwf hb hn
  obtain ⟨cd, rs, hexu⟩ := ht.exu
  obtain ⟨hbsm, hcmp, hfmt, hrdc, hmot, htable⟩ := ht.rest
  obtain ⟨hc1, hc2, hc3⟩ := heldCounts_get s
  obtain ⟨k1, k2, k3⟩ := ht.cells
  have hframes : 2 ≤ field bytes 16 4 := by
    have h4 := hn 4
    rw [checkFails_frames] at h4
    omega
  have hgiven : setupClamped bytes s = false ↔ SetupAsGiven bytes frames := anyClamped_setup bytes hframes s s
  have hhead : t.hcm = (evaluate { s with hcm := setupHead bytes s.hcm }).hcm := by rw [ht.hcm, evaluate_hcm]
  obtain ⟨e1, e2, e3, e4⟩ := evaluate_thresholds { s with hcm := setupHead bytes s.hcm }
  obtain ⟨h1, h2, h3, h4⟩ := setupHead_thresholds bytes s.hcm
  rw [← hhead] at e1 e2 e3 e4
  have hbits : ∀ i, i = 2 ∨ i = 3 ∨ i = 10 → ¬HeadBit i := fun i hi hh => by
    have := hh.lt
    omega
  refine ⟨t, !setupClamped bytes s, hexec, ?_, ?_, ?_, ht.others, ?_⟩
  · rw [Bool.not_eq_true', hgiven]
    exact Iff.rfl
  · rw [hexu]
    cases setupClamped bytes s <;> rfl
  · rw [ht.field4, outcomeBytes_bound]
    cases setupClamped bytes s <;> rfl
  · rw [hbsm, hcmp, hfmt, hrdc, hmot, htable]
    refine ⟨by rw [hexu]; rfl, by rw [hexu]; rfl, by rw [hexu]; rfl, by rw [hexu]; rfl, by rw [hexu]; rfl, by rw [hexu]; rfl,
      by rw [hexu]; rfl, by rw [hexu]; rfl, by rw [hexu]; rfl, by rw [hexu]; rfl, by rw [hexu]; rfl, by rw [hexu], by rw [hexu],
      by rw [hexu], rfl, rfl, rfl, rfl, rfl, rfl, rfl, rfl, rfl, fun x hx => ?_,
      fun d hd => ⟨k1 d hd, (ht.counts 2 (hbits 2 (.inl rfl))).trans (hc1 d hd)⟩,
      fun d hd => ⟨k2 d hd, (ht.counts 3 (hbits 3 (.inr (.inl rfl)))).trans (hc2 d hd)⟩,
      fun d hd => ⟨k3 d hd, (ht.counts 10 (hbits 10 (.inr (.inr rfl)))).trans (hc3 d hd)⟩, ht.cond, ?_, ?_, ?_, ?_, ?_, ?_, ?_, ?_, ?_⟩
    · rw [ht.hcm, evaluate_hcm, hx]
    · exact e1.trans h1
    · rw [e2, e1]
      exact h2
    · rw [e3, e2]
      exact h3
    · exact e4.trans h4
    · rw [hexu]
      exact alertSetOf_completions (setupValue bytes 10)
    · intro i h0 hi
      rw [hexu]
      exact alertSetOf_condition (setupValue bytes 10) h0 hi
    · rw [hexu]
      rfl
    · rw [hexu]
      rfl
    · rfl

end Sys2Proof.Machine
end
